-- ==== Sys2Proof/Word.lean ====
section
/-! DEFINITION. The word types of the manual's fields (R6): bytes, and the 16-, 32-, 64- and 128-bit
words that registers, descriptors and instructions are made of. -/

namespace Sys2Proof

abbrev Byte := BitVec 8
abbrev W16 := BitVec 16
abbrev W32 := BitVec 32
abbrev W64 := BitVec 64
abbrev W128 := BitVec 128
abbrev W256 := BitVec 256
abbrev W512 := BitVec 512
abbrev W1024 := BitVec 1024

end Sys2Proof
end

