-- ==== Sys2Proof/Syntax.lean ====
section
/-! DEFINITION. The commands of the block: one constructor of `Instr` for each row of
spec/opcode_table.json, with the operand records they carry. Core instructions carry the core they run
on (tile × 16 + core, R10) and the fields of their 128-bit encoding (05_core_instruction_set.md); the
commands of a ring name the accepted descriptor by ring and sequence number (R254); fabric messages
carry their transport header (R315). -/

namespace Sys2Proof

/-- The header fields of an instruction that are not its opcode (R94). -/
structure Hdr where
  pneg   : Bool
  pred   : BitVec 3
  timed  : Bool
  offset : BitVec 16
  deriving DecidableEq, Repr, Inhabited

/-- What the governor measures, in 0.1 W (R11, R237): the draw of the module and those of the partitions. -/
structure PowerDraw where
  module : BitVec 16
  parts  : List (BitVec 16)
  deriving DecidableEq, Repr, Inhabited

/-- What a port's peer sends at NEGOTIATE beside its masks (R310, R313): its identity and its VC buffer sizes. -/
structure PeerPort where
  ident : BitVec 16
  bufs  : List Nat
  deriving DecidableEq, Repr, Inhabited

/-- Symbols that FEC has corrected on a lane (R309). -/
structure LaneErrors where
  lane  : Nat
  count : Nat
  deriving DecidableEq, Repr, Inhabited

/-- A slot reference (R95). -/
structure SRef where
  flag : Bool
  pad  : BitVec 2
  slot : BitVec 6
  deriving DecidableEq, Repr, Inhabited

/-- The SQ payload (R104). -/
structure SqArgs where
  sd   : BitVec 5
  sa   : BitVec 5
  sb   : BitVec 5
  immf : Bool
  pd   : BitVec 3
  pa   : BitVec 3
  pb   : BitVec 3
  fn   : BitVec 4
  imm  : BitVec 64
  deriving DecidableEq, Repr, Inhabited

/-- The LD and ST payload (R107). -/
structure LdArgs where
  sref   : SRef
  sa     : BitVec 5
  sb     : BitVec 5
  sc     : BitVec 5
  sd     : BitVec 5
  nrows  : BitVec 12
  rbytes : BitVec 16
  row    : BitVec 12
  grp    : BitVec 8
  part   : BitVec 2
  deriving DecidableEq, Repr, Inhabited

/-- The MX payload (R113). -/
structure MxArgs where
  sa    : SRef
  sw    : SRef
  so    : SRef
  sc    : SRef
  mm    : BitVec 12
  nn    : BitVec 12
  kk    : BitVec 12
  fa    : BitVec 4
  fw    : BitVec 4
  fo    : BitVec 4
  is    : Bool
  sp    : Bool
  ovf   : Bool
  spill : Bool
  acc   : Bool
  pcs   : Bool
  sr    : BitVec 5
  deriving DecidableEq, Repr, Inhabited

/-- The VX payload (R122). -/
structure VxArgs where
  vd   : BitVec 5
  va   : BitVec 5
  vb   : BitVec 5
  vc   : BitVec 5
  sa   : BitVec 5
  sb   : BitVec 5
  sref : SRef
  row  : BitVec 12
  sr   : BitVec 5
  fmt  : BitVec 4
  fn   : BitVec 4
  imm  : BitVec 32
  deriving DecidableEq, Repr, Inhabited

/-- The SLOT payload (R131). -/
structure SlotArgs where
  pad       : BitVec 2
  slot      : BitVec 6
  retain    : Bool
  consumers : BitVec 5
  producer  : BitVec 3
  rowCount  : BitVec 8
  firstRow  : BitVec 7
  bankCount : BitVec 6
  firstBank : BitVec 5
  deriving DecidableEq, Repr, Inhabited

/-- The BMAP payload (R132). -/
structure BmapArgs where
  port0 : BitVec 4
  map0  : BitVec 32
  v1    : Bool
  port1 : BitVec 4
  map1  : BitVec 32
  deriving DecidableEq, Repr, Inhabited

/-- One slot condition of MARK and WAIT (R133). -/
structure Cond where
  v    : Bool
  pad  : BitVec 2
  slot : BitVec 6
  st   : BitVec 2
  deriving DecidableEq, Repr, Inhabited

/-- The MARK and WAIT payload (R133). -/
structure MarkArgs where
  c0 : Cond
  c1 : Cond
  c2 : Cond
  c3 : Cond
  deriving DecidableEq, Repr, Inhabited

/-- The SQRY payload (R134). -/
structure QryArgs where
  sd   : BitVec 5
  pad  : BitVec 2
  slot : BitVec 6
  deriving DecidableEq, Repr, Inhabited

/-- The PERF payload (R134). -/
structure PerfArgs where
  sd  : BitVec 5
  sel : BitVec 4
  deriving DecidableEq, Repr, Inhabited

/-- The SCLR payload (R135). -/
structure SclrArgs where
  pad  : BitVec 2
  slot : BitVec 6
  deriving DecidableEq, Repr, Inhabited

/-- The two writers of BAR0 (R464). -/
inductive Writer where
  | pf0
  | mgc
  deriving DecidableEq, Repr, Inhabited

/-- Bytes the driver stored in host memory before a doorbell (R254), at consecutive addresses. -/
structure HostStore where
  addr  : Nat
  bytes : List Byte
  deriving DecidableEq, Repr, Inhabited

/-- A range of host memory whose reads end in an error (R475). -/
structure HostFail where
  lo : Nat
  hi : Nat
  deriving DecidableEq, Repr, Inhabited

/-- The transport header of a received packet (R315), with the outcome of its ECRC (R317). -/
structure Pkt where
  dst    : BitVec 16
  src    : BitVec 16
  chan   : BitVec 16
  gen    : BitVec 8
  cseq   : BitVec 32
  job    : BitVec 32
  status : BitVec 8
  addr   : BitVec 64
  ecrcOk : Bool
  deriving DecidableEq, Repr, Inhabited

/-- The fields of a Separator message header (R197) that are not already in the transport header. -/
structure SepHdr where
  tag      : BitVec 16
  layer    : BitVec 16
  status   : BitVec 8
  gen      : BitVec 8
  msgIndex : BitVec 16
  msgCount : BitVec 16
  nrows    : BitVec 16
  rowBase  : BitVec 32
  credits  : BitVec 8
  fmt      : BitVec 4
  job      : BitVec 32
  deriving DecidableEq, Repr, Inhabited

/-- The collective header (R328). -/
structure CollHdr where
  seq    : BitVec 16
  op     : BitVec 8
  dtype  : BitVec 4
  phase  : BitVec 4
  rank   : BitVec 12
  nranks : BitVec 12
  base   : BitVec 32
  nelem  : BitVec 32
  total  : BitVec 32
  deriving DecidableEq, Repr, Inhabited

/-- The STOP_BATH body (R331). -/
structure StopBody where
  origin  : BitVec 16
  stopNum : BitVec 16
  reason  : BitVec 8
  errRef  : BitVec 24
  ftime   : BitVec 64
  deriving DecidableEq, Repr, Inhabited

/-- A flit as received (R312), with its CRC field. -/
structure Flit where
  ack     : BitVec 12
  ackv    : Bool
  cvc     : BitVec 2
  credits : BitVec 8
  vc      : BitVec 2
  sop     : Bool
  eop     : Bool
  nb      : BitVec 8
  seq     : BitVec 12
  payload : List Byte
  crc     : BitVec 32
  deriving DecidableEq, Repr, Inhabited

/-- The transports of SPDM (R413): PCIe DOE of a function, MCTP, and the SEC mailbox. -/
inductive SpdmPort where
  | doe (fn : Nat)
  | mctp
  | mailbox
  deriving DecidableEq, Repr, Inhabited

/-- Redfish roles (R416); `none` is a client whose certificate chains to no anchor. -/
inductive Role where
  | administrator
  | operator
  | readOnly
  | none
  deriving DecidableEq, Repr, Inhabited

/-- Firmware components (R399). -/
inductive Component where
  | hub
  | mgc
  deriving DecidableEq, Repr, Inhabited

/-- A firmware image as it stands in a flash slot: its header fields (R399) and its payload. -/
structure FwImage where
  magic     : BitVec 32
  format    : BitVec 16
  component : BitVec 16
  svn       : BitVec 32
  flags     : BitVec 32
  version   : BitVec 64
  length    : BitVec 32
  digest    : BitVec 256
  key       : List Byte
  sig       : List Byte
  payload   : List Byte
  reserved  : List Byte
  deriving DecidableEq, Repr, Inhabited

/-- A configuration record of module flash (R406). -/
structure CfgRecord where
  type   : BitVec 8
  signer : BitVec 8
  seq    : BitVec 32
  body   : BitVec 128
  sig    : List Byte
  deriving DecidableEq, Repr, Inhabited

/-- The requests of the Redfish service (R416, R232, R316, R326, R340). -/
inductive RfReq where
  | setCap (watts : Nat)
  | stage (c : Component) (img : FwImage)
  | verify (c : Component)
  | commitSvn (c : Component)
  | setPreferred (c : Component) (slot : Bool)
  | readLog
  | setAnchor (role : Role) (cert : List Byte)
  | dropAnchor (n : Nat)
  | moduleReset
  | testMode (on : Bool)
  | retireKey (slot : Nat)
  | setEpid (part : Nat) (value : BitVec 32)
  | readSummary
  deriving DecidableEq, Repr

/-- The requests of PLDM for firmware update (R418, R403). -/
inductive PldmReq where
  | stage (c : Component) (img : FwImage)
  | verify (c : Component)
  | commitSvn (c : Component)
  | setPreferred (c : Component) (slot : Bool)
  deriving DecidableEq, Repr

/-- The filtered sideband inputs (R430). -/
inductive Pin where
  | pwrBrakeN
  | perstN
  | pwrEn
  deriving DecidableEq, Repr, Inhabited

/-- An instance of the five reset domains (R362). -/
inductive Domain where
  | core (n : Nat)
  | tile (n : Nat)
  | hub
  | device
  | module
  deriving DecidableEq, Repr, Inhabited

/-- IDE_KM outcomes carried by a vendor-defined request (R233): keys set and the stream Secure, or
the stream stopped. -/
inductive IdeKm where
  | keyGo
  | keyStop
  deriving DecidableEq, Repr, Inhabited

/-- A page as a run of a step leaves it (R350): layer, group, page index, bytes and summary. -/
structure RunPage where
  layer   : Nat
  group   : Nat
  page    : Nat
  bytes   : List Byte
  summary : List Byte
  deriving DecidableEq, Repr, Inhabited

/-- One run of a step (R348 to R350): its step digest, its share digests in launch order and share index, its
RESULT and the pages it changed. -/
structure RunDigest where
  step   : BitVec 256
  shares : List (BitVec 256)
  result : BitVec 128
  pages  : List RunPage
  deriving DecidableEq, Repr, Inhabited

/-- An entry of the input log of a step (R348): a collective's result, or a dispatch or return row that the step received, with its
layer. -/
inductive StepInput where
  | coll (layer : Nat) (elems : List Nat)
  | dispatch (layer : Nat) (row : List (BitVec 8))
  | ret (layer : Nat) (row : List (BitVec 8))
  deriving DecidableEq, Repr, Inhabited

/-- One page record of an image or an exposure (R375): header fields, summary and payload. -/
structure PageRec where
  digest  : BitVec 256
  bitmap  : BitVec 256
  id      : BitVec 64
  kind    : BitVec 8
  enc     : Bool
  sumv    : Bool
  summary : List Byte
  payload : List Byte
  deriving DecidableEq, Repr, Inhabited

/-- What the exposure stream of a channel use 0x2 carries (R374, R377, R386, R390): a page for a shadow, the end of
a step with its SEQ, RESULT and count of pages, the end of a full exposure with its count, POSITION and valid
LAST_TOKEN (R141), a page of an image, the image header, and the close of a shadow. -/
inductive ExpItem where
  | shadow (rec : PageRec)
  | stepEnd (seq : BitVec 64) (result : BitVec 128) (n : Nat)
  | fullEnd (n : Nat) (pos : BitVec 32) (last : Option (BitVec 32))
  | image (rec : PageRec)
  | header (h : BitVec 1024)
  | inputs (seq : BitVec 64) (log : List StepInput)
  | odd (seq : BitVec 64)
  | close
  deriving DecidableEq, Repr, Inhabited

/-- The session facts a pairing request carries (R384). -/
structure PairReq where
  handle   : BitVec 32
  seed     : BitVec 64
  pin      : BitVec 16
  feed     : BitVec 4
  ring     : BitVec 15
  pages    : Nat
  quota    : BitVec 32
  position : BitVec 32
  openDig  : BitVec 128
  deriving DecidableEq, Repr, Inhabited

/-- The commands. One constructor per row of spec/opcode_table.json, in the table's order. -/
inductive Instr where
  -- SQ class
  | nop (c : Nat) (h : Hdr)
  | end_ (c : Nat) (h : Hdr)
  | kernelEnd (c : Nat)
  | movi (c : Nat) (h : Hdr) (o : SqArgs)
  | add (c : Nat) (h : Hdr) (o : SqArgs)
  | sub (c : Nat) (h : Hdr) (o : SqArgs)
  | mul (c : Nat) (h : Hdr) (o : SqArgs)
  | and (c : Nat) (h : Hdr) (o : SqArgs)
  | or (c : Nat) (h : Hdr) (o : SqArgs)
  | xor (c : Nat) (h : Hdr) (o : SqArgs)
  | shl (c : Nat) (h : Hdr) (o : SqArgs)
  | shr (c : Nat) (h : Hdr) (o : SqArgs)
  | sra (c : Nat) (h : Hdr) (o : SqArgs)
  | min (c : Nat) (h : Hdr) (o : SqArgs)
  | max (c : Nat) (h : Hdr) (o : SqArgs)
  | setp (c : Nat) (h : Hdr) (o : SqArgs)
  | plog (c : Nat) (h : Hdr) (o : SqArgs)
  | spr (c : Nat) (h : Hdr) (o : SqArgs)
  | br (c : Nat) (h : Hdr) (o : SqArgs)
  | loop (c : Nat) (h : Hdr) (o : SqArgs)
  | lds (c : Nat) (h : Hdr) (o : SqArgs)
  | sts (c : Nat) (h : Hdr) (o : SqArgs)
  | shw (c : Nat) (h : Hdr) (o : SqArgs)
  -- LD and ST classes
  | ld (c : Nat) (h : Hdr) (o : LdArgs)
  | ldkv (c : Nat) (h : Hdr) (o : LdArgs)
  | ldsk (c : Nat) (h : Hdr) (o : LdArgs)
  | st (c : Nat) (h : Hdr) (o : LdArgs)
  | stkv (c : Nat) (h : Hdr) (o : LdArgs)
  | stsh (c : Nat) (h : Hdr) (o : LdArgs)
  -- MX class
  | mx (c : Nat) (h : Hdr) (o : MxArgs)
  | mxscan (c : Nat) (h : Hdr) (o : MxArgs)
  | mxcmb (c : Nat) (h : Hdr) (o : MxArgs)
  | mxcvt (c : Nat) (h : Hdr) (o : MxArgs)
  -- VX class
  | vld (c : Nat) (h : Hdr) (o : VxArgs)
  | vst (c : Nat) (h : Hdr) (o : VxArgs)
  | vadd (c : Nat) (h : Hdr) (o : VxArgs)
  | vsub (c : Nat) (h : Hdr) (o : VxArgs)
  | vmul (c : Nat) (h : Hdr) (o : VxArgs)
  | vfma (c : Nat) (h : Hdr) (o : VxArgs)
  | vmax (c : Nat) (h : Hdr) (o : VxArgs)
  | vmin (c : Nat) (h : Hdr) (o : VxArgs)
  | vcmp (c : Nat) (h : Hdr) (o : VxArgs)
  | vsel (c : Nat) (h : Hdr) (o : VxArgs)
  | vspl (c : Nat) (h : Hdr) (o : VxArgs)
  | vcvt (c : Nat) (h : Hdr) (o : VxArgs)
  | vexp2 (c : Nat) (h : Hdr) (o : VxArgs)
  | vrcp (c : Nat) (h : Hdr) (o : VxArgs)
  | vrsq (c : Nat) (h : Hdr) (o : VxArgs)
  | vrot (c : Nat) (h : Hdr) (o : VxArgs)
  | vbias (c : Nat) (h : Hdr) (o : VxArgs)
  | vmsk (c : Nat) (h : Hdr) (o : VxArgs)
  | vsmx (c : Nat) (h : Hdr) (o : VxArgs)
  | vred (c : Nat) (h : Hdr) (o : VxArgs)
  | vrng (c : Nat) (h : Hdr) (o : VxArgs)
  -- SY class
  | slot (c : Nat) (h : Hdr) (o : SlotArgs)
  | bmap (c : Nat) (h : Hdr) (o : BmapArgs)
  | mark (c : Nat) (h : Hdr) (o : MarkArgs)
  | wait (c : Nat) (h : Hdr) (o : MarkArgs)
  | sqry (c : Nat) (h : Hdr) (o : QryArgs)
  | perf (c : Nat) (h : Hdr) (o : PerfArgs)
  | fenceInstr (c : Nat) (h : Hdr)
  | sclr (c : Nat) (h : Hdr) (o : SclrArgs)
  | instructionLastAccess (c : Nat) (eng : Nat)
  -- commands of the rings: ring and sequence number of the accepted descriptor
  | openSession (r : Nat) (q : Nat)
  | closeSession (r : Nat) (q : Nat)
  | prefill (r : Nat) (q : Nat)
  | decode (r : Nat) (q : Nat)
  | fork (r : Nat) (q : Nat)
  | evict (r : Nat) (q : Nat)
  | recall (r : Nat) (q : Nat)
  | plateLoad (r : Nat) (q : Nat)
  | platesetActivate (r : Nat) (q : Nat)
  | platesetRetire (r : Nat) (q : Nat)
  | kernelRun (r : Nat) (q : Nat)
  | expose (r : Nat) (q : Nat)
  | restore (r : Nat) (q : Nat)
  | migrateOut (r : Nat) (q : Nat)
  | migrateIn (r : Nat) (q : Nat)
  | fence (r : Nat) (q : Nat)
  | cancel (r : Nat) (q : Nat)
  | setWakeTolerance (r : Nat) (q : Nat)
  | drain (r : Nat) (q : Nat)
  | journalQuery (r : Nat) (q : Nat)
  -- command processing
  | descriptorFetch (r : Nat)
  | fencePredecessorDone (r : Nat) (q : Nat)
  | sessionCommandStart (r : Nat) (q : Nat)
  | gatherWindowClose (p : Nat)
  | launchEnd (l : Nat)
  | fixedStepRelease (r : Nat) (q : Nat)
  | timedDeadlineStop (r : Nat) (q : Nat)
  | interruptTimer (r : Nat)
  | msixUnmask (fn : Nat) (vec : Nat)
  -- doorbells and register writes with a row of their own
  | sqTailWrite (fn : Nat) (r : Nat) (v : BitVec 32) (stores : List HostStore) (fails : List HostFail)
  | cqHeadWrite (fn : Nat) (r : Nat) (v : BitVec 32)
  | ringEnable (w : Writer) (r : Nat) (wide : Bool) (v : BitVec 64)
  | ringDisable (w : Writer) (r : Nat) (wide : Bool) (v : BitVec 64)
  | partitionSetup (w : Writer) (p : Nat) (wide : Bool) (v : BitVec 64)
  | partitionSetupComplete (p : Nat)
  | partitionTeardown (w : Writer) (p : Nat) (wide : Bool) (v : BitVec 64)
  | partitionTeardownComplete (p : Nat)
  | partModeWrite (w : Writer) (v : BitVec 32)
  | pwrCapWrite (w : Writer) (v : BitVec 32)
  | pwrTolWrite (w : Writer) (p : Nat) (v : BitVec 64)
  | fabPortWrite (w : Writer) (p : Nat) (v : BitVec 64)
  | jobForm (w : Writer) (j : Nat) (wide : Bool) (v : BitVec 64)
  | jobEnd (w : Writer) (j : Nat) (wide : Bool) (v : BitVec 64)
  | keyRetire (w : Writer) (v : BitVec 32)
  | errQConsWrite (w : Writer) (v : BitVec 32)
  | injectPadSymbols (w : Writer) (v : BitVec 64)
  | injectResidue (w : Writer) (v : BitVec 64)
  | injectMemorySymbols (w : Writer) (v : BitVec 64)
  | injectFlitCrc (w : Writer) (v : BitVec 64)
  | injectForceProof (w : Writer) (v : BitVec 64)
  | injectShareDigest (w : Writer) (v : BitVec 64)
  | registerWrite (w : Writer) (off : Nat) (width : Nat) (v : BitVec 64)
  -- management
  | stageWrite (w : Writer)
  | stageVerify (w : Writer)
  | commitSvn (w : Writer)
  | enrolAnchor (mctp : Option (List Byte))
  | readCper (w : Writer)
  | deviceReset (w : Writer)
  | setPreferred (w : Writer)
  | redfishRequest (role : Role) (req : RfReq)
  | moduleResetCommand (role : Role)
  | testModeEnable (role : Role) (on : Bool)
  | pldmFirmwareUpdate (req : PldmReq)
  -- SPDM
  | getVersion (t : SpdmPort)
  | getCapabilities (t : SpdmPort)
  | negotiateAlgorithms (t : SpdmPort)
  | getDigests (t : SpdmPort)
  | getCertificate (t : SpdmPort) (slot : Nat)
  | challenge (t : SpdmPort) (nonce : BitVec 256)
  | getMeasurements (t : SpdmPort) (part : Nat) (index : Nat)
  | keyExchange (t : SpdmPort)
  | finish (t : SpdmPort) (sid : Nat)
  | endSession (t : SpdmPort) (sid : Nat)
  | heartbeat (t : SpdmPort) (sid : Nat)
  | vendorDefinedRequest (t : SpdmPort) (sid : Nat) (p : Nat) (km : IdeKm)
  | keyLoad (t : SpdmPort) (sid : Nat) (slot : Nat) (key : BitVec 512)
  -- test access port
  | idcode
  | bypass (opcode : BitVec 8)
  | samplePreload
  | extest
  | clamp
  | highz
  | extestPulse
  | extestTrain
  -- power, pins and boot
  | pwrEnAssert
  | powerStageReady
  | pwrEnDeassert
  | perstNAssert
  | perstNRelease
  | pwrBrakeAssert
  | pwrBrakeRelease
  | inputChatter (pin : Pin)
  | inputChatterEnd (pin : Pin) (level : Bool)
  | inputStuck (pin : Pin)
  | strapSample (feed : BitVec 4) (slotId : BitVec 6)
  | strapChange
  | inputVoltageFault
  | thermalThrottle (tile : Nat) (hot : Bool)
  | thermalTrip
  | pllLockLoss
  | pllLockHeld
  | governorEvaluation (draw : PowerDraw)
  | mgcBoot
  | hubRomBoot (pufOk : Bool)
  | selfTestComplete (bad : BitVec 128) (otherFail : Bool)
  | linkBelowServicePoint (rate : BitVec 4) (width : BitVec 5)
  | vfFlr (n : Nat)
  | vfEnableClear
  | pf0Flr
  | ideStreamLoss (p : Nat)
  | p2Entry (p : Nat)
  | p3Entry (p : Nat)
  | p4Entry
  | powerStateExitComplete (p : Nat)
  -- Zhevlink ports and fabric time
  | portSignalDetect (p : Nat) (lanes : BitVec 8)
  | equalizeConverged (p : Nat)
  | alignDone (p : Nat) (mask : BitVec 8)
  | negotiateDone (p : Nat) (mask : BitVec 8) (plane : BitVec 2) (port : Nat) (peer : PeerPort)
  | linkStateTimeout (p : Nat)
  | portDownTimer (p : Nat)
  | laneFailing (p : Nat) (lane : LaneErrors)
  | uncorrectableCodeword (p : Nat)
  | dataFlit (p : Nat) (f : Flit)
  | nak (p : Nat) (seq : BitVec 12)
  | timeReq (p : Nat)
  | timeRsp (p : Nat) (t2 : BitVec 64) (t3 : BitVec 64) (state : BitVec 2) (bound : BitVec 16)
  | retrainReq (p : Nat)
  | creditInit (p : Nat) (free : List Nat)
  | timeExchange
  | timeRspTimeout
  | timeHoldover
  -- transport packets and messages
  | write (k : Pkt) (body : List Byte)
  | readReq (k : Pkt) (len : Nat)
  | readRsp (k : Pkt) (body : List Byte)
  | ack (k : Pkt)
  | ackSend (p : Nat) (src : BitVec 16) (chan : BitVec 16)
  | channelResend (p : Nat) (dst : BitVec 16) (chan : BitVec 16)
  | channelOpen (k : Pkt) (digest : BitVec 64)
  | collective (k : Pkt) (h : CollHdr) (body : List Byte)
  | stopBath (k : Pkt) (b : StopBody)
  | memberMove (k : Pkt) (rank : Nat) (ep : BitVec 16)
  | plateReq (k : Pkt) (set : BitVec 16) (plate : Nat)
  | plateRsp (k : Pkt) (set : BitVec 16) (plate : Nat) (body : List Byte)
  | dispatch (k : Pkt) (h : SepHdr) (counts : List (BitVec 16)) (rows : List (List Byte))
  | return_ (k : Pkt) (h : SepHdr) (rows : List (List Byte))
  | tagRetire (k : Pkt) (h : SepHdr)
  -- progress, heartbeats and reset domains
  | sequencerStall (c : Nat)
  | loaderStall (c : Nat)
  | storerStall (c : Nat)
  | ringConsumerStall (r : Nat)
  | portCreditStall (p : Nat) (vc : Nat)
  | channelStall (p : Nat) (dst : BitVec 16) (chan : BitVec 16)
  | separatorStall (j : Nat) (tag : BitVec 16) (layer : BitVec 16)
  | heartbeatAdvance (k : Nat)
  | heartbeatLost (k : Nat)
  | resetQuiesceDone (d : Domain)
  | resetQuiesceTimeout (d : Domain)
  | resetRelease (d : Domain)
  -- memory, plates, Proof and Herd
  | frameReclaim (p : Nat)
  | plateAttemptDone (p : Nat) (set : BitVec 16) (plate : Nat)
  | plateAttemptTimeout (p : Nat) (set : BitVec 16) (plate : Nat)
  | milkRunPass (p : Nat)
  | plateReloadDone (p : Nat) (set : BitVec 16) (plate : Nat)
  | proofReplayDone (r : Nat) (q : Nat) (run : RunDigest)
  | herdCheck (j : Nat)
  | herdDigest (k : Pkt) (check : Nat) (window : Nat) (digest : BitVec 256)
  -- exposures, partners and takeover
  | pairingRequest (k : Pkt) (p : PairReq)
  | stepNotice (k : Pkt) (handle : BitVec 32) (desc : BitVec 512) (ring : BitVec 15) (seq : BitVec 64)
      (tokens : List (BitVec 32)) (mask : List Byte)
  | exposurePage (k : Pkt) (handle : BitVec 32) (item : ExpItem)
  | exposureAck (k : Pkt) (handle : BitVec 32) (seq : BitVec 64) (ftime : BitVec 64)
  | exposureInstant (e : Nat)
  | exposurePageTaken (e : Nat)
  | peerImageExpiry (p : Nat) (n : Nat)
  | keepaliveSend (k : Nat)
  | keepalive (k : Pkt) (handle : BitVec 32)
  | partnerLost (k : Nat)
  | takeoverSilence (k : Nat)
  | takeoverAfterReopen (k : Nat)
  | takeover (k : Pkt) (handle : BitVec 32)
  | pairingResponse (k : Pkt) (handle : BitVec 32) (ok : Bool) (shadow : BitVec 32) (feed : BitVec 4)
  | keepaliveReply (k : Pkt) (handle : BitVec 32)
  | partnerStepDigest (k : Pkt) (handle : BitVec 32) (seq : BitVec 64) (digest : BitVec 256)
  | pageAskedAgain (k : Pkt) (handle : BitVec 32) (id : BitVec 64)
  -- link and power permission events
  | pcieLinkTrained (rate : BitVec 4) (width : BitVec 5) (flit : Bool)
  | vfEnableSet
  | restartPermitted
  | powerOffTimeElapsed
  deriving DecidableEq, Repr

end Sys2Proof
end

