-- ==== Sys2Proof/Decode.lean ====
section
/-! DEFINITION. The command that a word of spec/opcode_table.json spells. No row of the table gives bits, so
no word spells a command. The 128-bit words of a kernel image are decoded in Machine/Legal.lean. -/

namespace Sys2Proof

/-- The command of a table word: none, for every word. -/
def decodeTableWord (_nbits _w : Nat) : Option Instr := none

end Sys2Proof
end

