-- ==== Sys2Proof/Machine/State.lean ====
section
/-! DEFINITION. The state of the block as plain data: every register, buffer, queue, counter, mode and
pin the manual gives the module, and the queue of commands that wait. Tables of many like units are
lists of (index, value) pairs; an index that is not listed holds the unit's reset value. Memories are
lists of (address, byte) pairs; a byte that is not listed is zero (R64, R150). -/

namespace Sys2Proof.Machine

open Sys2Proof

/-- A table of units by index; an unlisted index holds the default its readers name. -/
abbrev Tbl (α : Type) := List (Nat × α)

/-- Bytes by address, strictly rising, no zero byte listed. -/
abbrev Memory := List Host.Cell

/-- A vector register: 128 lanes of 32 bits (R122). -/
abbrev Lanes := Vector W32 128

/-! ## Cores -/

/-- Slot states (R71). -/
inductive SlotState where
  | empty
  | filling
  | full
  | draining
  deriving DecidableEq, Repr, Inhabited

/-- A slot table entry (R71). `keeper` is the partition and the plate-set generation of the kernel that
set RETAIN (R90). -/
structure SlotEntry where
  retain    : Bool := false
  st        : SlotState := .empty
  owner     : BitVec 3 := 7
  consumers : BitVec 5 := 0
  producer  : BitVec 3 := 0
  rowCount  : BitVec 8 := 0
  firstRow  : BitVec 7 := 0
  bankCount : BitVec 6 := 0
  firstBank : BitVec 5 := 0
  keeper    : Option (Nat × W16) := none
  deriving DecidableEq, Repr, Inhabited

/-- One pad of a core (R58): its bytes, its row-valid bits (R64), the symbols in error of each row
(R60), the stored residue bytes (R63, P-pad only) and its slot table (R71). A row's key is
bank × 128 + row. -/
structure Pad where
  data  : Memory := []
  valid : List Nat := []
  bad   : Tbl Nat := []
  resid : Memory := []
  slots : Tbl SlotEntry := []
  deriving DecidableEq, Repr, Inhabited

/-- An error record (R333). DETAIL is the 496-bit field of R337. `names` are the things that a rule says the record names and for which
R333 and R337 give no field (R310, R311, R332, R385, log 90). -/
structure Rec where
  seq      : Nat := 0
  ftime    : Nat := 0
  code     : W16 := 0
  sev      : BitVec 2 := 1
  esc      : Bool := false
  queued   : Bool := false
  inj      : Bool := false
  domain   : BitVec 3 := 7
  gen      : Byte := 0
  part     : Option Nat := none
  unitType : Byte := 0
  unitId   : W16 := 0
  cmd      : Option (Nat × Nat) := none
  instr    : Option (Nat × Nat) := none
  temp     : BitVec 12 := 0
  volt     : W16 := 0
  count    : Nat := 0
  related  : Nat := 0
  syn      : W16 := 0
  detail   : BitVec 496 := 0
  names    : List Nat := []
  deriving DecidableEq, Repr, Inhabited

/-- A partial entry (R24): `anchor` is none for an empty entry (R25). -/
structure Entry where
  nan    : Bool := false
  pinf   : Bool := false
  ninf   : Bool := false
  sticky : Nat := 0
  anchor : Option Int := none
  win    : Int := 0
  deriving DecidableEq, Repr, Inhabited

/-- One entry of the accumulator file (R40): the entry as accumulated so far, whose window is exact until the output stage
brings it back into 96 bits (R23, R27), the existing entry it is combined with there, and the residue of the side datapath
(R35). -/
structure AccCell where
  e    : Entry := {}
  into : Option Entry := none
  res  : Nat := 0
  deriving DecidableEq, Repr, Inhabited

/-- A slot operand as its instruction found it at issue: pad, slot, entry, and first slot row. -/
structure SlotView where
  pad  : Nat
  slot : Nat
  e    : SlotEntry
  r0   : Nat
  deriving DecidableEq, Repr, Inhabited

/-- A pad row as it was before a running MX instruction wrote it for the group `group` of its rows (R57). -/
structure SavedRow where
  group : Nat
  pad   : Nat
  key   : Nat
  data  : List Byte
  valid : Bool
  bad   : Nat
  resid : List Byte
  deriving DecidableEq, Repr, Inhabited

/-- Scalar operands captured at dispatch (R99, log 6). -/
structure Captured where
  a : W64
  b : W64
  c : W64
  r : W64
  deriving DecidableEq, Repr, Inhabited

/-- An instruction in an engine queue (R99): its address, its captured scalars, and the core cycle of mark
cycle 0 of the most recent MARK before it in program order (R82). -/
structure Queued where
  ins  : Instr
  addr : Nat
  sc   : Captured
  mark : Nat
  deriving DecidableEq, Repr

/-- What an issued instruction does in its issue cycle or in a later one: read a pad row into its buffer at index `i`, in
pass `pass` (R66); write pad bytes it knows already, or `len` bytes from byte `off` of its result `i`, of the row group
`group` (R59); form a result from the rows read (`form`); change a slot's state (R76) or definition (R131); write a scalar or
vector register (R101, R130); or stop the core (R85). -/
inductive FlightEv where
  | read (i pass pad slot key : Nat)
  | write (pad slot addr : Nat) (bytes : List Byte)
  | put (i off group pad slot addr len : Nat)
  | form (kind a b : Nat)
  | slot (pad slot : Nat) (st : SlotState)
  | define (pad : Nat) (slot : Nat) (e : SlotEntry)
  | sreg (r : Nat) (v : W64)
  | vreg (v : Nat) (x : Lanes)
  | stop (r : Rec)
  deriving DecidableEq, Repr

/-- An issued instruction that is under way (R76). Its events stand with their core cycles, its last pad access falls in cycle
`due`. A memory instruction (`mem`) makes its accesses from when its row INSTRUCTION_LAST_ACCESS comes (R84, log 7). `job` is the
instruction whose results are formed as it goes, `view` its slot operands and `lanes` the vector it captured at issue; `got`
are the rows read and `out` the results formed, by index; `plan` are the cells (cycle, pad, bank) the Matrix engine has yet to
write (R52), `saved` the rows it has overwritten for the group in progress, `failed` the first group that an error of one
of its reads concerns (R57), and `inject` says that an armed injection meets its first residue compare (R357). -/
structure Flight where
  eng    : Nat
  addr   : Nat
  due    : Nat
  evs    : List (Nat × FlightEv)
  mem    : Option Queued := none
  job    : Option Queued := none
  view   : List SlotView := []
  lanes  : Option Lanes := none
  got    : Tbl (List Byte) := []
  out    : Tbl (List Byte) := []
  plan   : List (Nat × Nat × Nat) := []
  saved  : List SavedRow := []
  failed : Option Nat := none
  inject : Bool := false
  deriving DecidableEq, Repr

/-- Whether a core runs a kernel (R89, R103, R87). -/
inductive CoreRun where
  | idle
  | running
  | ended
  | stopped
  deriving DecidableEq, Repr, Inhabited

/-- What a core runs for: the launch, its partition, the session handle and the pinned plate set
(R98, R104), and the command. -/
structure CoreCtx where
  launch : Nat
  part   : Nat
  handle : W32
  pset   : W16
  ring   : Nat
  seq    : Nat
  deriving DecidableEq, Repr, Inhabited

/-- An entry of the loop stack (R105, R368). -/
structure LoopEntry where
  start : Nat
  stop  : Nat
  left  : Nat
  deriving DecidableEq, Repr, Inhabited

/-- One core: Sequencer, engines, pads and their tables (01, 04, 05). `markAt` is the core cycle at which
the mark counter was 0 (R81). `sqAt`, `regAt`, `vecAt`, `mxNext`, `mxHalf` and `mxOut` are core cycles:
from when the Sequencer dispatches again, a scalar or vector result is usable (R101, R130), the array can
stream the next instruction, an accumulator half is written out, and the output port is free (R52, R54). `acc` is the
accumulator file, by half × 4,096 + row × 128 + column (R40).
`mapped` says that the last dispatched instruction was a BMAP (R132). `ldMove` and `stMove` are the cycles in which the Loader and
the Storer queue last moved (R358). `late` counts the memory instructions whose answers were still to come when the core froze (R363). -/
structure Core where
  run     : CoreRun := .idle
  ctx     : Option CoreCtx := none
  gpr     : Tbl W64 := []
  prd     : BitVec 8 := 1
  vreg    : Tbl Lanes := []
  pc      : Nat := 0
  ibuf    : List W128 := []
  loops   : List LoopEntry := []
  qLd     : List Queued := []
  qSt     : List Queued := []
  qMx     : List Queued := []
  qVx     : List Queued := []
  flights : List Flight := []
  busyMx  : Nat := 0
  busyVx  : Nat := 0
  markAt  : Nat := 0
  mapped  : Bool := false
  sqAt    : Nat := 0
  regAt   : Tbl Nat := []
  vecAt   : Tbl Nat := []
  mxNext  : Nat := 0
  mxHalf  : Nat × Nat := (0, 0)
  mxOut   : Nat := 0
  acc     : Tbl AccCell := []
  slipMx  : Nat := 0
  slipVx  : Nat := 0
  cyc     : Nat := 0
  retired : Nat := 0
  ldMove  : Nat := 0
  stMove  : Nat := 0
  maps    : Tbl W32 := []
  padW    : Pad := {}
  padA    : Pad := {}
  padP    : Pad := {}
  tag     : Byte := 0
  lastPart : Option Nat := none
  errRec  : Nat := 0
  late    : Nat := 0
  deriving DecidableEq, Repr

/-! ## Records and errors -/

/-- One error queue (R338, R339). -/
structure ErrQueue where
  prod  : Nat := 0
  cons  : Nat := 0
  lost  : Nat := 0
  slots : Tbl Rec := []
  deriving DecidableEq, Repr, Inhabited

/-- The in-handling latch of a reporting unit (R344). -/
structure Latch where
  unitType : Byte
  unitId   : W16
  sev      : BitVec 2
  seq      : Nat
  deriving DecidableEq, Repr, Inhabited

/-- An armed injection (R357). -/
structure Inject where
  kind   : BitVec 4
  nsym   : BitVec 2
  unit   : Byte
  part   : BitVec 3
  target : BitVec 47
  deriving DecidableEq, Repr, Inhabited

/-- The error block of the device (13). `temps` holds each partition's temperature reading of isolation mode and the time it was taken
(R237). -/
structure ErrSt where
  nextSeq : Nat := 1
  queues  : Tbl ErrQueue := []
  qSel    : BitVec 4 := 0
  irqEn   : Bool := false
  irqSev  : BitVec 2 := 0
  irqVec  : BitVec 5 := 0
  csPage  : BitVec 5 := 0
  csPart  : BitVec 3 := 0
  csSlot  : BitVec 5 := 0
  latches : List Latch := []
  armed   : List Inject := []
  cper    : Tbl (List Rec) := []
  hbCount : Tbl Nat := []
  hbLast  : Tbl Nat := []
  temps   : Tbl (Nat × BitVec 12) := []
  deriving DecidableEq, Repr, Inhabited

/-! ## Device, time, host interface -/

/-- A reset domain under reset and how far it has come (R365): frozen and quiescing, or in reset. -/
structure Recovery where
  dom    : Domain
  cause  : Nat
  error  : Bool
  inReset : Bool
  since  : Nat := 0
  deriving DecidableEq, Repr, Inhabited

/-- DEV block and hub (19, 14, 17). Core masks are bit tile × 16 + core. -/
structure DevSt where
  stage     : BitVec 4 := 0
  slCause   : Byte := 0
  stAt      : Nat := 0
  fast      : Bool := false
  serial    : W64 := 0
  fwVersion : W64 := 0
  cfgGyv    : W128 := 0
  cfgDev    : W128 := 0
  stFenced  : W128 := 0
  quar      : W128 := 0
  laneCfg   : BitVec 48 := 0
  laneLost  : BitVec 48 := 0
  withdrawn : List Nat := []
  parked    : Nat := 0
  isolate   : Bool := false
  hubTag    : Byte := 0
  tileTags  : Tbl Byte := []
  tileOn    : Byte := 0
  tileFw    : Byte := 0
  recovery  : List Recovery := []
  meas      : List W256 := []
  stopNum   : Nat := 0
  launchNo  : Nat := 0
  deriving DecidableEq, Repr, Inhabited

/-- Fabric time (R323, R324). -/
structure TimeSt where
  ftime    : Nat := 0
  trim     : Int := 0
  frac     : Nat := 0
  slew     : Int := 0
  tickMod  : Nat := 0
  tstate   : BitVec 2 := 0
  bound    : Nat := 0
  theta    : Int := 0
  src      : Nat := 15
  good     : Nat := 0
  fails    : Nat := 0
  everLock : Bool := false
  lastOk   : Nat := 0
  holdMs   : Nat := 0
  req      : Option (Nat × Nat) := none
  upState  : Tbl (BitVec 2) := []
  deriving DecidableEq, Repr, Inhabited

/-- An MSI-X table entry (R242). -/
structure MsixEntry where
  addr : W64 := 0
  data : W32 := 0
  mask : Bool := true
  deriving DecidableEq, Repr, Inhabited

/-- An MSI-X message the device has sent. -/
structure Msg where
  fn   : Nat
  vec  : Nat
  addr : W64
  data : W32
  deriving DecidableEq, Repr, Inhabited

/-- The PCIe interface (R240 to R261) and host memory as the device reads and writes it (log 1). -/
structure HifSt where
  rate     : BitVec 4 := 1
  width    : BitVec 5 := 0
  flit     : Bool := false
  warm     : Bool := false
  vfDb     : BitVec 4 := 0
  vfMsix   : BitVec 3 := 0
  funcPart : Tbl (Bool × BitVec 3) := []
  dbOwner  : Tbl (Bool × BitVec 6) := []
  vfEnable : Bool := false
  inL12    : Bool := false
  msix     : Tbl MsixEntry := []
  pba      : List Nat := []
  ide      : Tbl Bool := []
  msgs     : List Msg := []
  host     : Memory := []
  hostBad  : List HostFail := []
  cfgReady : Bool := false
  deriving DecidableEq, Repr, Inhabited

/-- Ring states (R245). -/
inductive RingState where
  | off
  | running
  | quiescing
  | broken
  deriving DecidableEq, Repr, Inhabited

/-- Journal states (R262). -/
inductive JState where
  | empty
  | accepted
  | started
  | completed
  | failed
  deriving DecidableEq, Repr, Inhabited

/-- A journal entry (R262). -/
structure JEntry where
  seq     : Nat := 0
  digest  : W128 := 0
  result  : W128 := 0
  accept  : Nat := 0
  ended   : Nat := 0
  opcode  : Byte := 0
  status  : Byte := 0
  degr    : Bool := false
  proof   : Bool := false
  route   : Bool := false
  st      : JState := .empty
  errRef  : BitVec 24 := 0
  deriving DecidableEq, Repr, Inhabited

/-- A step a shadow's partner was told of (R386). -/
structure Notice where
  desc   : W512
  ring   : Nat
  seq    : Nat
  tokens : List W32
  mask   : List Byte
  deriving DecidableEq, Repr, Inhabited

/-- A command a takeover has still to put into PARTNER_RING (R388): the MIGRATE_IN with the digest of the command
that opened the session (no notice), or a noticed step; with the shadow's handle and the primary's. -/
structure Adopt where
  handle  : W32
  primary : W32
  digest  : W128
  notice  : Option Notice
  deriving DecidableEq, Repr, Inhabited

/-- A ring: its set-up entry (R245), doorbells and counts (R252), journal (R262) and interrupt
moderation (R258). Counts are free-running. -/
structure Ring where
  enable   : Bool := false
  st       : RingState := .off
  cls      : BitVec 2 := 0
  part     : BitVec 3 := 0
  func     : BitVec 6 := 0
  log2size : BitVec 5 := 0
  jlog2    : BitVec 4 := 0
  vector   : BitVec 11 := 0
  ien      : Bool := false
  ccount   : Byte := 0
  ctime    : Byte := 0
  sqBase   : W64 := 0
  cqBase   : W64 := 0
  seqBase  : W64 := 0
  sqTail   : Nat := 0
  cqHead   : Nat := 0
  fetched  : Nat := 0
  written  : Nat := 0
  jKey     : Option (BitVec 3 × BitVec 6 × BitVec 4) := none
  jFrames  : List Nat := []
  journal  : Tbl JEntry := []
  lastNext : Nat := 0
  everUp   : Bool := false
  pendCnt  : Nat := 0
  pendAt   : Nat := 0
  mute     : Bool := false
  held     : Bool := false
  moved    : Nat := 0
  adopt    : Nat := 0
  adoptQ   : List Adopt := []
  deriving DecidableEq, Repr, Inhabited

/-- Why an accepted command has not run on (R213, R274, R299, R301, R305, R384). -/
inductive Wait where
  | none
  | fence (ring : Nat) (seq : Nat)
  | activation
  | loading
  | frames
  | reload
  | pairing
  | drain
  | stopped
  deriving DecidableEq, Repr, Inhabited

/-- An accepted command that has not completed (R254, R263). `pin` is the plate set it pins, and `pinWait` says that it waits for an
activation to pin one (R274, R302). `short` holds the steps that ran when its frames first fell short (R152). -/
structure Cmd where
  ring    : Nat
  seq     : Nat
  desc    : W512
  started : Bool := false
  cls     : BitVec 2 := 0
  part    : Nat := 0
  func    : Nat := 0
  irq     : Bool := false
  pin     : Option W16 := none
  pinWait : Bool := false
  wait    : Wait := .none
  ready   : Bool := true
  bound   : Nat := 0
  timed   : Bool := false
  errRef  : BitVec 24 := 0
  adopted : Option W128 := none
  handle  : W32 := 0
  cancel  : Bool := false
  notice  : Option Notice := none
  launchBlk : List Byte := []
  res     : Nat := 0
  degr    : Bool := false
  moved   : Nat := 0
  accept  : Nat := 0
  short   : Option (List Nat) := none
  deriving DecidableEq, Repr, Inhabited

/-! ## Partitions, frames, sessions, keys -/

/-- Partition states (R224). -/
inductive PartState where
  | off
  | settingUp
  | ready
  | tearing
  | fault
  deriving DecidableEq, Repr, Inhabited

/-- A contact-sheet slot (R367): the causing record and the sheet's bytes. -/
structure Sheet where
  cause : Nat := 0
  time  : Nat := 0
  data  : Memory := []
  deriving DecidableEq, Repr, Inhabited

/-- A frame or block that waits for its epoch to drain (R154). -/
structure Retiring where
  frame : Nat
  block : Option Nat
  epoch : Nat
  deriving DecidableEq, Repr, Inhabited

/-- A received peer image (R380). -/
structure PeerImage where
  src    : W16
  chan   : W16
  handle : W32
  header : W1024
  recs   : List PageRec
  final  : Bool
  at_    : Nat
  frames : List Nat
  deriving DecidableEq, Repr, Inhabited

/-- A partition: its set-up registers (R224, R292, R346, R359, R422, R316) and what it owns. -/
structure Part where
  enable     : Bool := false
  ideReq     : Bool := false
  st         : PartState := .off
  tileBase   : BitVec 3 := 0
  tiles      : BitVec 2 := 0
  keySlot    : BitVec 6 := 0
  powerShare : BitVec 10 := 0
  workNear   : BitVec 20 := 0
  workFar    : BitVec 21 := 0
  fromReady  : Bool := false
  nearPages  : List Nat := []
  farPages   : List Nat := []
  sheets     : Tbl Sheet := []
  sheetFrames : List Nat := []
  epoch      : Nat := 0
  lastAdv    : Nat := 0
  running    : List (Nat × Nat) := []
  retiring   : List Retiring := []
  blkFrames  : Tbl W64 := []
  tol        : Nat := 0
  pstate     : Nat := 0
  condSince  : Nat := 0
  waking     : Bool := false
  gatherUs   : BitVec 10 := 20
  timedPct   : BitVec 7 := 0
  milkMin    : BitVec 11 := 10
  proofN     : W16 := 0
  herdN      : W16 := 1000
  proofTemp  : BitVec 10 := 400
  proofMv    : Byte := 30
  pcheck     : Bool := false
  seqWin     : BitVec 26 := 10000
  ldstWin    : BitVec 26 := 10000
  ringWin    : BitVec 26 := 1000000
  fabricWin  : BitVec 26 := 5000
  draining   : Bool := false
  gatherAt   : Nat := 0
  stale      : Nat := 0
  movedCh    : Nat := 0
  droppedCh  : Nat := 0
  passedRows : Nat := 0
  zeroExp    : Nat := 0
  images     : List PeerImage := []
  epValid    : Bool := false
  epWeight   : Byte := 0
  endpoint   : W16 := 0
  milkLast   : Nat := 0
  faultRec   : Nat := 0
  deriving DecidableEq, Repr, Inhabited

/-- A page frame table entry (R149), keyed by page frame number (tier bit 31, R218). -/
structure Frame where
  refcnt  : Nat := 0
  kind    : BitVec 4 := 0
  st      : BitVec 2 := 0
  shr     : Bool := false
  part    : BitVec 3 := 0
  prot    : BitVec 2 := 0
  keySlot : BitVec 6 := 0
  epoch   : Nat := 0
  deriving DecidableEq, Repr, Inhabited

/-- Near and far memory (09): stored bytes, written-bitmap bits by block number (frame × 256 + block, far
frames with their tier bit), frame table, and symbols in error by 64 B line (frame × 1,024 + line). -/
structure MemSt where
  near    : Memory := []
  far     : Memory := []
  written : List Nat := []
  frames  : Tbl Frame := []
  bad     : Tbl Nat := []
  deriving DecidableEq, Repr, Inhabited

/-- Session states (R141). -/
inductive SessState where
  | free
  | open_
  | fenced
  | moved
  | closing
  deriving DecidableEq, Repr, Inhabited

/-- A session record (R141) with its EXPOSURE field (R383), the session's host image accounting (R163)
and the partner protocol's times (R386 to R388). A shadow keeps the input logs of steps (`inputs`), the run of the step it has
replayed (`replay`) and the step whose replay was found odd (`oddSeq`, R349, R350). -/
structure Sess where
  root      : Tbl W32 := []
  hostImage : W64 := 0
  seed      : W64 := 0
  parent    : W32 := 0
  position  : Nat := 0
  plateset  : W16 := 0
  pages     : Nat := 0
  quota     : Nat := 0
  lastToken : W32 := 0
  ltv       : Bool := false
  gen       : BitVec 14 := 1
  st        : SessState := .free
  part      : BitVec 3 := 0
  cls       : BitVec 2 := 0
  degraded  : Bool := false
  keySlot   : BitVec 6 := 0
  partner   : W16 := 0
  partnerRing : BitVec 15 := 0
  shadow    : Bool := false
  pstate    : BitVec 2 := 0
  partnerHandle : W32 := 0
  fixedPos  : Nat := 0
  fixedSeq  : Nat := 0
  expId     : Nat := 0
  expOpen   : Nat := 0
  hostUsed  : List Nat := []
  lease     : Nat := 0
  heard     : Nat := 0
  sentAt    : Nat := 0
  reopenAt  : Option Nat := none
  notices   : List Notice := []
  badPages  : List (Nat × Nat) := []
  pendStep  : Option (Nat × W128 × Nat) := none
  reexp     : Bool := false
  yield_    : Bool := false
  openDig   : W128 := 0
  replay    : Option (Nat × RunDigest) := none
  oddSeq    : Option Nat := none
  inputs    : List (Nat × List StepInput) := []
  parked    : Bool := false
  deriving DecidableEq, Repr, Inhabited

/-- Key slot states (R230). -/
inductive KeyState where
  | empty
  | active
  | retired
  deriving DecidableEq, Repr, Inhabited

/-- A tenant key slot (R230, R415). -/
structure KeySlot where
  st     : KeyState := .empty
  part   : BitVec 3 := 0
  pv     : Bool := false
  key    : W512 := 0
  frames : Nat := 0
  deriving DecidableEq, Repr, Inhabited

/-! ## Plate sets -/

/-- Plate-set states (R300). -/
inductive SetState where
  | loading
  | ready
  | current
  | retired
  | broken
  deriving DecidableEq, Repr, Inhabited

/-- One plate of a set (R294, R297, R298). -/
structure Plate where
  digest   : W256 := 0
  page     : Nat := 0
  length   : Nat := 0
  resident : Bool := false
  frames   : List Nat := []
  checks   : List Nat := []
  sources  : List W64 := []
  attempts : Nat := 0
  corrupt  : Bool := false
  failed   : Bool := false
  reading  : Option (Nat × Nat) := none
  since    : Nat := 0
  lastGood : Nat := 0
  reload   : Bool := false
  buf      : List Byte := []
  got      : Bool := false
  deriving DecidableEq, Repr, Inhabited

/-- A plate set (R294 to R305) with the records its activation checked and copied (R295). Their table fields name
image blocks, which a reader resolves through the plates' frames, so that a reload into new frames (R305) moves
them too. -/
structure PlateSet where
  setId    : W16
  part     : Nat
  header   : W512
  st       : SetState := .loading
  plates   : Tbl Plate := []
  corruptB : Bool := false
  geo      : W128 := 0
  attn     : List W128 := []
  bmax     : Tbl W32 := []
  routes   : List W256 := []
  cost     : W256 := 0
  deriving DecidableEq, Repr, Inhabited

/-! ## Steps, launches, Separator, exposures, Proof -/

/-- The rows an expert launch reads (R202): job id, step tag, layer, local expert, and rows as (source endpoint,
message index, row of the message). -/
structure ExpertRun where
  job    : W32
  tag    : W16
  layer  : Nat
  expert : Nat
  rows   : List (W16 × Nat × Nat)
  deriving DecidableEq, Repr, Inhabited

/-- What a launch does between its kernels (R213): it runs, its activation scales are being gathered (R182), its layer's partials are being reduced (R181,
R182), or its rows are in a Separator stage (R192). -/
inductive LStage where
  | run
  | scales
  | reduce
  | separate
  deriving DecidableEq, Repr, Inhabited

/-- A kernel launch (R98, R103, R179, R202): the cores it runs on and those that have ended, its steps, and
whether it is a KERNEL_RUN (`kernel`), an expert launch of a held dispatch collection (job id, tag, layer,
expert, rows), or a serving bucket at a layer, whose kernel there has launch number `num` and, in exact mode, attention outputs `att` (R182). `tag` is its Separator step tag in job entry `job` (R207), given as the `issue`-th of the device (R198);
`shape` is the shape word of an expert launch (R202), `todo` holds the rows of a layer that no batch of its Separator
stage has taken yet, with their owner, token and capacity, and `outs` the combined rows (R191, log 102). -/
structure Launch where
  id     : Nat
  part   : Nat
  cores  : List Nat
  ended  : List Nat := []
  steps  : List (Nat × Nat)
  kernel : Bool
  expert : Option ExpertRun := none
  maxCyc : Nat := 0
  failed : Option Nat := none
  started : Bool := false
  layer  : Nat := 0
  num    : Nat := 0
  stage  : LStage := .run
  job    : Option Nat := none
  tag    : Option W16 := none
  coll   : Option Nat := none
  att    : List (List W32) := []
  issue  : Nat := 0
  shape  : Nat := 0
  todo   : List ((Nat × Nat) × (W32 × Nat) × List Byte) := []
  outs   : List ((Nat × Nat) × List Byte) := []
  deriving DecidableEq, Repr, Inhabited

/-- The state of a step under way. -/
inductive Phase where
  | gather
  | launched
  | separator
  | exposing
  | proving
  | held
  | released
  deriving DecidableEq, Repr, Inhabited

/-- A mask object as the device read it (R173). -/
structure Mask where
  qbase     : Nat
  kbase     : Nat
  nqb       : Nat
  nkb       : Nat
  noncausal : Bool
  codes     : List Byte
  bitmaps   : List Byte
  deriving DecidableEq, Repr, Inhabited

/-- A step: one PREFILL, DECODE or KERNEL_RUN under way, with the result that exists only inside the
device until release (R285) and its Proof (R346 to R351): the shares it ran as (launch, core) in launch order, their memory writes as
(index of the share, address, bytes), its input log and the scratch frames of a rotated run (R348), whether an injection has
corrupted a run's digests (R357), and how often a Fixed step has been put back for replay (R286). -/
structure StepRec where
  ring    : Nat
  seq     : Nat
  part    : Nat
  sess    : Option Nat := none
  kernel  : Bool := false
  prefill : Bool := false
  job     : Option Nat := none
  phase   : Phase := .gather
  tokens  : List W32 := []
  mask    : Option Mask := none
  hidden  : List (List W32) := []
  epoch   : Nat := 0
  pe      : Nat := 0
  npages  : Nat := 0
  token   : W32 := 0
  result  : W128 := 0
  skipped : Nat := 0
  moved   : Nat := 0
  dropped : Nat := 0
  cap     : Nat := 0
  changed : List (Nat × Nat × Nat) := []
  toSend  : List (Nat × Nat × Nat) := []
  shares  : List (Nat × Nat) := []
  writes  : List (Nat × Nat × List Byte) := []
  inputs  : List StepInput := []
  scratch : List Nat := []
  runInj  : Bool := false
  replays : Nat := 0
  firstAt : Nat := 0
  armed   : Bool := false
  suspect : Bool := false
  proven  : Bool := false
  runs    : List RunDigest := []
  partnerDig : Option W256 := none
  acked   : Bool := false
  adopted : Bool := false
  deriving DecidableEq, Repr, Inhabited

/-- A dispatch message of a source batch (R196, R199). -/
structure SepMsg where
  dst     : W16
  index   : Nat
  count   : Nat
  counts  : List W16
  rows    : List (Nat × Nat)
  base    : Nat
  credits : Nat
  sent    : Bool := false
  back    : Bool := false
  deriving DecidableEq, Repr, Inhabited

/-- A Separator batch at its source (R194 to R205): its token table and dispatch rows (R191), the rows' format and the order of its tag. -/
structure Batch where
  job     : Nat
  tag     : W16
  layer   : Nat
  launch  : Nat
  part    : Nat
  pset    : W16
  rows    : List (List Byte)
  owners  : List (Nat × Nat)
  assign  : List (List (Option Nat))
  msgs    : List SepMsg
  results : List ((Nat × Nat) × List Byte) := []
  addr    : Nat := 0
  moved   : Nat := 0
  dropped : Nat := 0
  lastMove : Nat := 0
  turn     : Bool := false
  failed  : Bool := false
  issue   : Nat := 0
  fmt     : BitVec 4 := 0
  tokens  : List W32 := []
  deriving DecidableEq, Repr, Inhabited

/-- A shape word that a destination has written for a local expert (R202, R212): the rows the expert receives; at 0, the cores that
have recorded SHAPE_ZERO for its launch. -/
structure ShapeWord where
  part   : Nat
  job    : W32
  tag    : W16
  layer  : Nat
  expert : Nat
  rows   : Nat
  cores  : List Nat
  deriving DecidableEq, Repr, Inhabited

/-- A dispatch message held at a destination (R202, R209): the rows launched (`busy`) and the results they have. -/
structure DestMsg where
  src     : W16
  job     : W32
  tag     : W16
  layer   : Nat
  index   : Nat
  count   : Nat
  counts  : List W16
  rows    : List (List Byte)
  base    : Nat
  credits : Nat
  part    : Nat
  planned : Bool := false
  answered : Bool := false
  busy    : List Nat := []
  out     : Tbl (List Byte) := []
  deriving DecidableEq, Repr, Inhabited

/-- The Separator (08). Credits held, by (job index, endpoint); the shape words of R202; the tags issued so far (R198). -/
structure SepSt where
  batches : List Batch := []
  dest    : List DestMsg := []
  credits : List ((Nat × Nat) × Nat) := []
  shapes  : List ShapeWord := []
  issued  : Nat := 0
  deriving DecidableEq, Repr, Inhabited

/-- Targets of an exposure (R379, R391, R386). -/
inductive ExpTarget where
  | far (base : Nat)
  | host (base : Nat)
  | peer (ep : W16)
  deriving DecidableEq, Repr, Inhabited

/-- An exposure under way (R373 to R379). -/
structure Exposure where
  id      : Nat
  ring    : Nat
  seq     : Nat
  part    : Nat
  sess    : Option Nat
  kind    : Byte
  target  : ExpTarget
  taken   : Bool := false
  pages   : List (Nat × Nat × W64) := []
  done    : Nat := 0
  digests : List W256 := []
  header  : W1024 := 0
  ftime   : Nat := 0
  headSent : Bool := false
  pairing : Bool := false
  chan    : W16 := 0
  cseqs   : List Nat := []
  deriving DecidableEq, Repr, Inhabited

/-- A Herd check in progress (R353, R354). -/
structure Herd where
  job     : Nat
  check   : Nat
  window  : Nat
  digests : Tbl W256
  deriving DecidableEq, Repr, Inhabited

/-! ## Fabric -/

/-- Link states of a port (R310). -/
inductive LinkState where
  | disabled
  | detect
  | equalize
  | align
  | negotiate
  | active
  | retrain
  | down
  deriving DecidableEq, Repr, Inhabited

/-- A Zhevlink port (R310 to R314, R321). `txq` holds the waiting flits with their partition; `corr` the corrected symbols of a lane
with their times; `due` counts the last entries of the replay buffer that a retrain left to send again, `hold` says that the peer's
CREDIT_INIT is due; `mid` names the partition whose packet is under way on a virtual channel, and `turn` and `left` the partition
whose turn it is and the flits left of it. -/
structure Port where
  enable   : Bool := true
  st       : LinkState := .disabled
  peer     : W16 := 0
  retrains : W16 := 0
  lanesOk  : Byte := 0
  width    : BitVec 2 := 0
  retry    : Nat := 0
  seen     : Byte := 0
  prev     : BitVec 2 := 0
  attempts : Nat := 0
  rxSeq    : BitVec 12 := 0
  txSeq    : BitVec 12 := 0
  acked    : BitVec 12 := 4095
  replay   : List Flit := []
  asm      : Tbl (List Byte) := []
  rx       : List (List Byte) := []
  credits  : Tbl Nat := []
  discard  : Bool := false
  nakSeq   : BitVec 12 := 0
  nakSame  : Nat := 0
  nakMs    : List Nat := []
  failing  : Byte := 0
  txq      : List (Nat × Flit) := []
  rr       : Nat := 0
  crAt     : Tbl Nat := []
  since    : Nat := 0
  again    : Bool := false
  lanes    : Byte := 0
  corr     : Tbl (List (Nat × Nat)) := []
  due      : Nat := 0
  hold     : Bool := false
  mid      : Tbl Nat := []
  turn     : Nat := 0
  left     : Nat := 0
  deriving DecidableEq, Repr, Inhabited

/-- Job states (R326). -/
inductive JobState where
  | idle
  | forming
  | active
  | stopped
  deriving DecidableEq, Repr, Inhabited

/-- A job entry FAB_JOB (R326) and the job it forms (R327, R207, R328, R332). -/
structure Job where
  valid   : Bool := false
  st      : JobState := .idle
  part    : BitVec 3 := 0
  cmode   : BitVec 2 := 0
  check   : BitVec 2 := 0
  g       : BitVec 13 := 64
  run     : BitVec 13 := 256
  nmemb   : BitVec 12 := 0
  rank    : BitVec 12 := 0
  jobId   : W32 := 0
  page    : W32 := 0
  members : List W16 := []
  digest  : W64 := 0
  sent    : Bool := false
  stepTag : W16 := 0
  openTags : List W16 := []
  retired : List W16 := []
  collSeq : W16 := 0
  abandoned : List W16 := []
  stop    : Option (W16 × W16) := none
  steps   : Nat := 0
  checkNo : Nat := 0
  deriving DecidableEq, Repr, Inhabited

/-- Message bodies the device sends over Zhevlink (R315, R197, R384 to R389). -/
inductive Body where
  | bytes (b : List Byte)
  | readReq (len : Nat)
  | digest (d : W64)
  | stop (b : StopBody)
  | move (rank : Nat) (ep : W16)
  | plateReq (set : W16) (plate : Nat)
  | plateRsp (set : W16) (plate : Nat) (b : List Byte)
  | sep (kind : Byte) (h : SepHdr) (counts : List W16) (rows : List (List Byte))
  | coll (h : CollHdr) (b : List Byte)
  | pairReq (p : PairReq)
  | pairRsp (handle : W32) (ok : Bool) (shadow : W32) (feed : BitVec 4)
  | notice (handle : W32) (n : Notice)
  | exp (handle : W32) (item : ExpItem)
  | expAck (handle : W32) (seq : Nat) (ftime : Nat)
  | again (handle : W32) (id : W64)
  | keep (handle : W32)
  | keepRsp (handle : W32)
  | takeover (handle : W32)
  | stepDigest (handle : W32) (seq : Nat) (d : W256)
  | herd (check : Nat) (window : Nat) (d : W256)
  deriving DecidableEq, Repr

/-- A packet the device sends or keeps for resending (R315, R317). -/
structure TxPkt where
  kind : Byte
  part : Nat
  dst  : W16
  chan : W16
  cseq : Nat
  gen  : Byte
  job  : W32
  status : Byte
  addr : W64
  body : Body
  deriving DecidableEq, Repr

/-- A link control flit the device sends (R312). -/
inductive TxLink where
  | nak (p : Nat) (seq : BitVec 12)
  | timeReq (p : Nat)
  | timeRsp (p : Nat) (t2 : Nat) (t3 : Nat) (state : BitVec 2) (bound : Nat)
  | retrainReq (p : Nat)
  | creditInit (p : Nat) (free : List Nat)
  | idle (p : Nat) (ack : BitVec 12) (vc : Nat) (credits : Nat)
  | negotiate (p : Nat) (mask : Byte) (plane : Nat) (bufs : List Nat)
  deriving DecidableEq, Repr

/-- A frame a port sends (R308): the 10-bit symbols of each active lane, in order. -/
structure LinkFrame where
  port  : Nat
  lanes : List (Nat × List (BitVec 10))
  deriving DecidableEq, Repr

/-- An ordered channel from this device (R317). -/
structure TxChan where
  part  : Nat
  dst   : W16
  chan  : W16
  next  : Nat := 0
  unack : List TxPkt := []
  moved : Nat := 0
  resent : Nat := 0
  path  : Option Nat := none
  deriving DecidableEq, Repr

/-- An ordered channel into this device (R317). -/
structure RxChan where
  part   : Nat
  src    : W16
  chan   : W16
  expect : Nat := 0
  since  : Nat := 0
  firstAt : Nat := 0
  drops  : Nat := 0
  deriving DecidableEq, Repr, Inhabited

/-- A received part of a collective (R328): the sender's rank, the phase, and its elements from `base` of the
`total` this rank sends here. -/
structure CollPiece where
  rank  : Nat
  phase : Nat
  base  : Nat
  total : Nat
  elems : List Nat
  deriving DecidableEq, Repr, Inhabited

/-- A collective of a job (R328 to R330): its number, operation, element type and vector length, this member's contribution once
it takes part (`mine`, none before), the parts received, the reduced segment it owns, and the anchors of a reduction
in exact mode (R182). -/
structure Coll where
  job     : Nat
  seq     : W16
  op      : Byte
  dtype   : BitVec 4
  len     : Nat := 0
  mine    : Option (List Nat) := none
  got     : List CollPiece := []
  seg     : Option (List Nat) := none
  anchors : List Int := []
  deriving DecidableEq, Repr, Inhabited

/-- Zhevlink and the collective engine (12). -/
structure FabSt where
  ports    : Tbl Port := []
  stale    : Nat := 0
  dupes    : Nat := 0
  unknownStops : Nat := 0
  jobs     : Tbl Job := []
  peers    : Tbl Byte := []
  tx       : List TxPkt := []
  txLink   : List TxLink := []
  txCh     : List TxChan := []
  rxCh     : List RxChan := []
  refused  : Nat := 0
  reads    : List (W16 × Nat × List Byte) := []
  opens    : List (Nat × W16 × W32 × W64) := []
  wire     : List (Nat × Flit) := []
  frames   : List LinkFrame := []
  colls    : List Coll := []
  deriving DecidableEq, Repr

/-! ## Management, security, power -/

/-- An SPDM session (R413, R414). -/
structure SpdmSess where
  port : SpdmPort
  sid  : Nat
  done : Bool
  deriving DecidableEq, Repr, Inhabited

/-- The attestation mailbox and the SPDM responder (R413 to R415). -/
structure SecSt where
  busy   : Bool := false
  done   : Bool := false
  len    : W16 := 0
  rlen   : W16 := 0
  req    : Memory := []
  rsp    : Memory := []
  negotiated : List SpdmPort := []
  versioned  : List SpdmPort := []
  sess   : List SpdmSess := []
  nextSid : Nat := 1
  answers : List (SpdmPort × List Byte) := []
  deriving DecidableEq, Repr, Inhabited

/-- The four lockers of staging (R419). -/
inductive Locker where
  | redfish
  | pldm
  | mailbox
  deriving DecidableEq, Repr, Inhabited

/-- The MGC: replay-protected storage, flash, mailbox and services (16). -/
structure MgcSt where
  cmd      : Byte := 0
  busy     : Bool := false
  done     : Bool := false
  arg      : W64 := 0
  status   : Byte := 0
  data     : Memory := []
  hubSvn   : W32 := 0
  mgcSvn   : W32 := 0
  cfgSeq   : W32 := 0
  tagStore : Byte := 0
  anchors  : List (Role × List Byte) := []
  cert     : List Byte := []
  devCert  : List Byte := []
  hubA     : Option FwImage := none
  hubB     : Option FwImage := none
  mgcA     : Option FwImage := none
  mgcB     : Option FwImage := none
  partial_ : Tbl Memory := []
  hubPref  : Bool := false
  mgcPref  : Bool := false
  hubRun   : Option Bool := none
  mgcRun   : Option Bool := none
  cfgRecs  : List CfgRecord := []
  laneHist : List (BitVec 48) := []
  booted   : Bool := false
  recovery : Bool := false
  lock     : Option Locker := none
  testOn   : Bool := false
  log      : List Byte := []
  pldm     : List Byte := []
  redfish  : List Byte := []
  aliasSeed : W256 := 0
  deriving DecidableEq, Repr, Inhabited

/-- The power block (17): PWR registers, sideband filters and the governor. -/
structure PwrSt where
  cap      : BitVec 10 := 700
  input    : W16 := 0
  hotTiles : Byte := 0
  hotAt    : Tbl Nat := []
  throttle : Byte := 0
  slow     : Byte := 0
  announced : List (Nat × Nat × Nat) := []
  stcfg    : Bool := false
  stuck    : Bool := false
  chatter  : BitVec 3 := 0
  feedId   : BitVec 4 := 15
  slotId   : BitVec 6 := 63
  strapsOk : Bool := false
  strapErr : Bool := false
  brake    : Bool := false
  deriving DecidableEq, Repr, Inhabited

/-- What the power stage is doing (R434, R428, R458). -/
inductive Stage where
  | off
  | ramp
  | on
  | tripped
  deriving DecidableEq, Repr, Inhabited

/-- The module's sideband pins (R430, R454) and the power stage. Levels are electrical. -/
structure PinSt where
  pwrEn     : Bool := false
  perstN    : Bool := false
  brakeN    : Bool := true
  pwrGood   : Bool := false
  thermTripN : Bool := true
  wakeN     : Bool := true
  stage     : Stage := .off
  offOk     : Bool := true
  tripArmed : Bool := false
  cool      : Bool := true
  pllLock   : Bool := true
  deriving DecidableEq, Repr, Inhabited

/-- Test port instructions (R459). -/
inductive TapIr where
  | idcode
  | bypass
  | sample
  | extest
  | clamp
  | highz
  | pulse
  | train
  deriving DecidableEq, Repr, Inhabited

/-- The test access port (R459, R460). -/
structure TapSt where
  ir   : TapIr := .idcode
  test : Bool := false
  deriving DecidableEq, Repr, Inhabited

/-! ## The state -/

/-- The state of the block. `pending` is the queue of commands that wait, first in, first out; `fresh` is
the model's own index of free values (log 5). -/
structure State where
  pending  : List Instr := []
  fresh    : Nat := 0
  cores    : Tbl Core := []
  dev      : DevSt := {}
  time     : TimeSt := {}
  hif      : HifSt := {}
  rings    : Tbl Ring := []
  cmds     : List Cmd := []
  parts    : Tbl Part := []
  mem      : MemSt := {}
  sess     : Tbl Sess := []
  freeIdx  : List Nat := []
  keys     : Tbl KeySlot := []
  psets    : List PlateSet := []
  launches : List Launch := []
  steps    : List StepRec := []
  sep      : SepSt := {}
  exps     : List Exposure := []
  herds    : List Herd := []
  err      : ErrSt := {}
  fab      : FabSt := {}
  sec      : SecSt := {}
  mgc      : MgcSt := {}
  pwr      : PwrSt := {}
  pins     : PinSt := {}
  tap      : TapSt := {}
  jnlSel   : BitVec 15 := 0
  jnlFirst : W64 := 0
  stagePf0 : Tbl W256 := []
  stageMgc : Tbl W256 := []
  deriving DecidableEq, Repr

/-- The machine after reset: the module before its power stage starts, every field at the value the
manual states for reset, and the values of log 4 where it states none. -/
def State.reset : State := {}

/-- Reasons the block stops with a fault. -/
inductive Fault where
  /-- Raised by a command that names a unit the module does not have: a core above 127, a ring above
  32,767, a partition above 7, a port above 5 (R10). Such a command cannot be sent to the hardware.
  Safe: the model stops where there is nothing to act on. -/
  | noSuchUnit
  deriving DecidableEq, Repr

/-- Reasons the block has no meaning for a command. -/
inductive Refusal where
  /-- Raised by the arms of `exec` whose command has no meaning yet. Safe: nothing can be proved of the
  command's effect. -/
  | notModelled (mnemonic : String)
  deriving DecidableEq, Repr

end Sys2Proof.Machine
end

