-- ==== Sys2Proof/Machine/Bits.lean ====
section
/-! DEFINITION. Tables, byte order, sparse memory and small number helpers shared by every family. -/

namespace Sys2Proof.Machine

open Sys2Proof

/-- The entry of a table at index `k`, or the default. -/
def tget {α : Type} (d : α) : Tbl α → Nat → α
  | [], _ => d
  | (a, x) :: t, k => if a = k then x else tget d t k

/-- The entry of a table at index `k`, if listed. -/
def tfind {α : Type} : Tbl α → Nat → Option α
  | [], _ => none
  | (a, x) :: t, k => if a = k then some x else tfind t k

/-- Put `v` at index `k`, keeping rising order. -/
def tset {α : Type} : Tbl α → Nat → α → Tbl α
  | [], k, v => [(k, v)]
  | (a, x) :: t, k, v =>
    if a = k then (k, v) :: t
    else if k < a then (k, v) :: (a, x) :: t
    else (a, x) :: tset t k v

/-- Take index `k` out of a table. -/
def tdel {α : Type} (t : Tbl α) (k : Nat) : Tbl α := t.filter (fun e => e.1 != k)

/-- Replace the first element that satisfies `p` by its image. -/
def updFirst {α : Type} (p : α → Bool) (f : α → α) : List α → List α
  | [] => []
  | x :: t => if p x then f x :: t else x :: updFirst p f t

/-- Replace every element that satisfies `p` by its image. -/
def updAll {α : Type} (p : α → Bool) (f : α → α) (l : List α) : List α :=
  l.map (fun x => if p x then f x else x)

/-- Insert into a rising list without repeats. -/
def addSorted (k : Nat) : List Nat → List Nat
  | [] => [k]
  | a :: t => if a = k then a :: t else if k < a then k :: a :: t else a :: addSorted k t

/-- One byte of a memory; unlisted bytes are zero (R64, R150). -/
def mread : Memory → Nat → Byte
  | [], _ => 0
  | (a, b) :: t, k => if a = k then b else mread t k

/-- Put a nonzero byte at its place. -/
def mput : Memory → Nat → Byte → Memory
  | [], k, v => [(k, v)]
  | (a, b) :: t, k, v =>
    if a = k then (k, v) :: t
    else if k < a then (k, v) :: (a, b) :: t
    else (a, b) :: mput t k v

/-- Write one byte: zero removes the entry, so that equal memories are equal lists. -/
def mwrite (m : Memory) (k : Nat) (v : Byte) : Memory :=
  if v = 0 then m.filter (fun e => e.1 != k) else mput m k v

/-- `n` bytes from address `a` upwards. -/
def mreadN (m : Memory) (a : Nat) : Nat → List Byte
  | 0 => []
  | n + 1 => mread m a :: mreadN m (a + 1) n

/-- Write bytes from address `a` upwards. -/
def mwriteN (m : Memory) (a : Nat) : List Byte → Memory
  | [] => m
  | b :: t => mwriteN (mwrite m a b) (a + 1) t

/-- Addresses strictly rise above `lo` and no byte is zero. -/
def memRising : Option Nat → Memory → Bool
  | _, [] => true
  | lo, (a, b) :: t => (match lo with | none => true | some l => decide (l < a)) && b != 0 && memRising (some a) t

/-- The canonical form of a memory. -/
def Memory.wf (m : Memory) : Bool := memRising none m

/-- Little-endian value of bytes (R6). -/
def leNat : List Byte → Nat
  | [] => 0
  | b :: t => b.toNat + 256 * leNat t

/-- The low `n` bytes of a number, little-endian (R6). -/
def natLE : Nat → Nat → List Byte
  | 0, _ => []
  | n + 1, v => BitVec.ofNat 8 v :: natLE n (v / 256)

/-- Bits [hi:lo] of a word as a number. -/
def bits {w : Nat} (x : BitVec w) (hi lo : Nat) : Nat := (x.toNat >>> lo) % 2 ^ (hi + 1 - lo)

/-- Bits [hi:lo] of a number. -/
def nbits (x hi lo : Nat) : Nat := (x >>> lo) % 2 ^ (hi + 1 - lo)

/-- Bit `i` of a word. -/
def bit {w : Nat} (x : BitVec w) (i : Nat) : Bool := x.toNat.testBit i

/-- A flag as a number. -/
def b2n (b : Bool) : Nat := if b then 1 else 0

/-- Quotient rounded up. -/
def ceilDiv (a b : Nat) : Nat := if b = 0 then 0 else (a + b - 1) / b

/-- floor(log2 n) for n > 0, and 0 for 0. -/
def flog2 (n : Nat) : Nat := n.log2

/-- ceil(log2 n) for n > 0. -/
def clog2 (n : Nat) : Nat := if n ≤ 1 then 0 else (n - 1).log2 + 1

/-- The least power of two not below `n`. -/
def pow2ceil (n : Nat) : Nat := 2 ^ clog2 n

/-- Set a bit of a mask. -/
def setBit {w : Nat} (x : BitVec w) (i : Nat) (v : Bool) : BitVec w :=
  if v then x ||| BitVec.ofNat w (2 ^ i) else x &&& ~~~ BitVec.ofNat w (2 ^ i)

/-- Numbers `lo`, `lo + 1`, …: `n` of them. -/
def rangeFrom (lo n : Nat) : List Nat := (List.range n).map (lo + ·)

/-- Exclusive or of two byte lists, to the length of the shorter. -/
def xorBytes (a b : List Byte) : List Byte := List.zipWith (· ^^^ ·) a b

/-- A list padded with zero bytes, or cut, to `n` bytes. -/
def padTo (n : Nat) (l : List Byte) : List Byte := (l ++ List.replicate (n - l.length) 0).take n

/-- Split a list into pieces of `n`. -/
def chunks {α : Type} (n : Nat) (l : List α) : List (List α) :=
  if n = 0 then [] else (List.range (ceilDiv l.length n)).map (fun i => (l.drop (i * n)).take n)

/-- Element `i` of a list, or the default. -/
def nth {α : Type} (d : α) (l : List α) (i : Nat) : α := l.getD i d

/-- A signed field narrowed from an integer. -/
def ofInt (w : Nat) (x : Int) : BitVec w := BitVec.ofInt w x

end Sys2Proof.Machine
end

