-- ==== Sys2Proof/Machine/Fp.lean ====
section
/-! DEFINITION. Number formats and rounding (02): every finite value of every format is a dyadic number
man × 2^ex; conversions and FP32 arithmetic compute exactly and round once (R29, R37). -/

namespace Sys2Proof.Machine

open Sys2Proof

/-- An exact dyadic number man × 2^ex. -/
structure Dy where
  man : Int
  ex  : Int
  deriving DecidableEq, Repr, Inhabited

/-- The value of an element: NaN, an infinity, or a finite dyadic with its sign (which a zero keeps). -/
inductive Val where
  | nan
  | inf (neg : Bool)
  | fin (neg : Bool) (mag : Nat) (ex : Int)
  deriving DecidableEq, Repr, Inhabited

/-- A binary floating-point format: exponent bits, mantissa bits, bias, and how its top exponent reads. -/
structure FFmt where
  eb   : Nat
  mb   : Nat
  bias : Int
  /-- 0: no special codes; 1: IEEE infinities and NaNs; 2: E4M3, only S.1111.111 is NaN. -/
  spec : Nat
  deriving DecidableEq, Repr, Inhabited

/-- The floating-point formats of R16 by code; the INT codes 0x5 and 0x6 and the reserved codes answer none. -/
def ffmt : Nat → Option FFmt
  | 0x0 => some ⟨4, 3, 7, 2⟩
  | 0x1 => some ⟨5, 2, 15, 1⟩
  | 0x2 => some ⟨3, 2, 3, 0⟩
  | 0x3 => some ⟨2, 3, 1, 0⟩
  | 0x4 => some ⟨2, 1, 1, 0⟩
  | 0x8 => some ⟨8, 7, 127, 1⟩
  | 0x9 => some ⟨5, 10, 15, 1⟩
  | 0xA => some ⟨8, 23, 127, 1⟩
  | _ => none

/-- Element width in bits by format code (R16). -/
def fmtBits : Nat → Nat
  | 0x0 => 8 | 0x1 => 8 | 0x2 => 6 | 0x3 => 6 | 0x4 => 4 | 0x5 => 8 | 0x6 => 4
  | 0x8 => 16 | 0x9 => 16 | 0xA => 32
  | _ => 0

/-- The bound exponent Pe (R16). -/
def fmtPe : Nat → Int
  | 0x0 => 9 | 0x1 => 16 | 0x2 => 5 | 0x3 => 3 | 0x4 => 3 | 0x5 => 7 | 0x6 => 3
  | _ => 0

/-- The block-scale offset emax (R30). -/
def fmtEmax : Nat → Int
  | 0x0 => 8 | 0x1 => 15 | 0x2 => 4 | 0x3 => 2 | 0x4 => 2 | 0x5 => 6 | 0x6 => 2
  | _ => 0

/-- Reserved format codes (R16). -/
def fmtReserved (f : Nat) : Bool := f == 7 || f ≥ 0xB

/-- Operand groups of R17: 0 MX floating point, 1 INT, 2 BF16 and FP16; 3 none. -/
def fmtGroup (f : Nat) : Nat :=
  if f ≤ 4 then 0 else if f == 5 || f == 6 then 1 else if f == 8 || f == 9 then 2 else 3

/-- Whether a format carries block scales on output (codes 0x0 to 0x6, R30). -/
def fmtBlock (f : Nat) : Bool := f ≤ 6

/-- The value of a floating-point code (R16). -/
def decodeF (f : FFmt) (c : Nat) : Val :=
  let m := nbits c (f.mb - 1) 0
  let m := if f.mb = 0 then 0 else m
  let e := (c >>> f.mb) % 2 ^ f.eb
  let s := c.testBit (f.mb + f.eb)
  let top := 2 ^ f.eb - 1
  if f.spec = 1 ∧ e = top then (if m = 0 then .inf s else .nan)
  else if f.spec = 2 ∧ e = top ∧ m = 2 ^ f.mb - 1 then .nan
  else if e = 0 then .fin s m (1 - f.bias - f.mb)
  else .fin s (2 ^ f.mb + m) ((e : Int) - f.bias - f.mb)

/-- The value of an element code in the format with code `f` (R16). -/
def decodeEl (f : Nat) (c : Nat) : Val :=
  match ffmt f with
  | some ff => decodeF ff c
  | none =>
    let w := fmtBits f
    let c := c % 2 ^ w
    if c < 2 ^ (w - 1) then .fin false c 0 else .fin true (2 ^ w - c) 0

/-- Round mag × 2^ex to an integer multiple of 2^q, nearest, ties to even: the multiple. -/
def roundTo (mag : Nat) (ex q : Int) : Nat :=
  if q ≤ ex then mag <<< (ex - q).toNat
  else
    let sh := (q - ex).toNat
    let t := mag >>> sh
    let r := mag % 2 ^ sh
    let h := 2 ^ (sh - 1)
    if r > h ∨ (r = h ∧ t % 2 = 1) then t + 1 else t

/-- Truncate mag × 2^ex to a multiple of 2^q toward zero, and whether anything was cut. -/
def truncTo (mag : Nat) (ex q : Int) : Nat × Bool :=
  if q ≤ ex then (mag <<< (ex - q).toNat, false)
  else
    let sh := (q - ex).toNat
    (mag >>> sh, mag % 2 ^ sh != 0)

/-- The magnitude code a finite magnitude rounds to in a format, and whether it lies beyond the largest
finite value (R29, R31). -/
def roundMag (f : FFmt) (mag : Nat) (ex : Int) : Nat × Bool :=
  if mag = 0 then (0, false)
  else
    let e0 : Int := ex + mag.log2          -- floor(log2 |v|)
    let emin : Int := 1 - f.bias
    let e := if e0 < emin then emin else e0
    let k := roundTo mag ex (e - f.mb)
    -- k < 2^(mb+1) normally; a carry gives 2^(mb+1)
    let (k, e) := if k ≥ 2 ^ (f.mb + 1) then (k / 2, e + 1) else (k, e)
    let code := if k < 2 ^ f.mb then k else ((e + f.bias).toNat <<< f.mb) + (k - 2 ^ f.mb)
    let maxCode :=
      if f.spec = 1 then ((2 ^ f.eb - 1) <<< f.mb) - 1
      else if f.spec = 2 then 2 ^ (f.eb + f.mb) - 2
      else 2 ^ (f.eb + f.mb) - 1
    (code, decide (code > maxCode))

/-- The largest finite magnitude code of a floating-point format (R16). -/
def maxMag (f : FFmt) : Nat :=
  if f.spec = 1 then ((2 ^ f.eb - 1) <<< f.mb) - 1
  else if f.spec = 2 then 2 ^ (f.eb + f.mb) - 2
  else 2 ^ (f.eb + f.mb) - 1

/-- The canonical NaN of a format that has one (R29). -/
def canonNaN : Nat → Nat
  | 0x0 => 0x7F | 0x1 => 0x7E | 0x8 => 0x7FC0 | 0x9 => 0x7E00 | 0xA => 0x7FC00000
  | _ => 0

/-- The infinity code of a format with infinities. -/
def infCode (f : FFmt) (neg : Bool) : Nat :=
  ((b2n neg) <<< (f.eb + f.mb)) + ((2 ^ f.eb - 1) <<< f.mb)

/-! ## FP32 arithmetic (R37) -/

/-- The format FP32. -/
def f32 : FFmt := ⟨8, 23, 127, 1⟩

/-- The value of an FP32 word. -/
def val32 (x : W32) : Val := decodeF f32 x.toNat

/-- The canonical FP32 NaN (R29). -/
def nan32 : W32 := 0x7FC00000

/-- An FP32 infinity. -/
def inf32 (neg : Bool) : W32 := if neg then 0xFF800000 else 0x7F800000

/-- An FP32 zero with a sign. -/
def zero32 (neg : Bool) : W32 := if neg then 0x80000000 else 0

/-- Round a signed magnitude to FP32: beyond the largest finite value it is an infinity; a result that
rounds to zero keeps its sign (R37). -/
def pack32 (neg : Bool) (mag : Nat) (ex : Int) : W32 :=
  let (c, ovf) := roundMag f32 mag ex
  if ovf then inf32 neg else BitVec.ofNat 32 (c + (b2n neg <<< 31))

/-- Round an exact sum to FP32; `zneg` is the sign an exact zero takes. -/
def packDy (v : Dy) (zneg : Bool) : W32 :=
  if v.man = 0 then zero32 zneg else pack32 (decide (v.man < 0)) v.man.natAbs v.ex

/-- A signed magnitude as a dyadic. -/
def dyOf (neg : Bool) (mag : Nat) (ex : Int) : Dy := ⟨if neg then -(mag : Int) else mag, ex⟩

/-- The exact sum of two dyadics. -/
def dyAdd (a b : Dy) : Dy :=
  let e := if a.ex ≤ b.ex then a.ex else b.ex
  ⟨a.man * 2 ^ (a.ex - e).toNat + b.man * 2 ^ (b.ex - e).toNat, e⟩

/-- The exact product of two dyadics. -/
def dyMul (a b : Dy) : Dy := ⟨a.man * b.man, a.ex + b.ex⟩

/-- Whether a ≤ b. -/
def dyLe (a b : Dy) : Bool :=
  let e := if a.ex ≤ b.ex then a.ex else b.ex
  decide (a.man * 2 ^ (a.ex - e).toNat ≤ b.man * 2 ^ (b.ex - e).toNat)

/-- FP32 addition, nearest, ties to even (R37). -/
def fadd (a b : W32) : W32 :=
  match val32 a, val32 b with
  | .nan, _ => nan32
  | _, .nan => nan32
  | .inf s, .inf t => if s = t then inf32 s else nan32
  | .inf s, _ => inf32 s
  | _, .inf t => inf32 t
  | .fin s m e, .fin t n f => packDy (dyAdd (dyOf s m e) (dyOf t n f)) (s && t)

/-- FP32 negation of the sign bit. -/
def fneg (a : W32) : W32 := a ^^^ 0x80000000

/-- FP32 subtraction (R37). -/
def fsub (a b : W32) : W32 :=
  match val32 b with
  | .nan => nan32
  | _ => fadd a (fneg b)

/-- FP32 multiplication (R37). -/
def fmul (a b : W32) : W32 :=
  match val32 a, val32 b with
  | .nan, _ => nan32
  | _, .nan => nan32
  | .inf s, .inf t => inf32 (s != t)
  | .inf s, .fin t n _ => if n = 0 then nan32 else inf32 (s != t)
  | .fin s m _, .inf t => if m = 0 then nan32 else inf32 (s != t)
  | .fin s m e, .fin t n f =>
    if m * n = 0 then zero32 (s != t) else pack32 (s != t) (m * n) (e + f)

/-- FP32 fused multiply-add with one rounding (R37). -/
def ffma (a b c : W32) : W32 :=
  match val32 a, val32 b, val32 c with
  | .nan, _, _ => nan32
  | _, .nan, _ => nan32
  | _, _, .nan => nan32
  | .fin s m e, .fin t n f, .fin u k g =>
    packDy (dyAdd (dyOf (s != t) (m * n) (e + f)) (dyOf u k g)) ((s != t) && u)
  | .fin _ _ _, .fin _ _ _, .inf u => inf32 u
  | x, y, z =>
    let zero : Bool := match x, y with
      | .fin _ _ _, .fin _ _ _ => false
      | .fin _ m _, _ => m == 0
      | _, .fin _ n _ => n == 0
      | _, _ => false
    if zero then nan32
    else
      let sg := match x, y with
        | .inf s, .inf t => s != t
        | .inf s, .fin t _ _ => s != t
        | .fin s _ _, .inf t => s != t
        | .fin s _ _, .fin t _ _ => s != t
        | _, _ => false
      match z with
      | .inf u => if u = sg then inf32 sg else nan32
      | _ => inf32 sg

/-- The order of VMAX and VMIN (R123): −∞ below every finite value, −0 below +0. A key that rises with
the value of a lane that is not NaN. -/
def ordKey (a : W32) : Int :=
  if bit a 31 then -((a.toNat - 0x80000000 : Nat) : Int) - 1 else (a.toNat : Int)

/-- Whether an FP32 word is a NaN. -/
def isNaN (a : W32) : Bool := match val32 a with | .nan => true | _ => false

/-- FP32 maximum: NaN if either input is NaN, −0 below +0 (R123). -/
def fmax (a b : W32) : W32 :=
  if isNaN a || isNaN b then nan32 else if ordKey a < ordKey b then b else a

/-- FP32 minimum (R123). -/
def fmin (a b : W32) : W32 :=
  if isNaN a || isNaN b then nan32 else if ordKey b < ordKey a then b else a

/-- The numerical comparison of two FP32 words: none when one is NaN; zeros are equal (IEEE 754). -/
def fcmp (a b : W32) : Option Ordering :=
  if isNaN a || isNaN b then none
  else
    let ka := if ordKey a = -1 then 0 else ordKey a
    let kb := if ordKey b = -1 then 0 else ordKey b
    some (compare ka kb)

/-! ## Rounding to element formats (R29 to R31, R123) -/

/-- Round a finite value to an element code without a block scale; the second part says whether it lies
beyond the largest finite value (R31). An exact zero is +0 (R29). A nonzero value that rounds to zero keeps its sign
(DESIGN CHOICE, log 86). For INT the magnitude is rounded to
an integer and codes −128 and −8 are never written. -/
def roundEl (f : Nat) (neg : Bool) (mag : Nat) (ex : Int) : Nat × Bool :=
  match ffmt f with
  | some ff =>
    if mag = 0 then (0, false)
    else
      let (c, ovf) := roundMag ff mag ex
      (c + (b2n neg <<< (ff.eb + ff.mb)), ovf)
  | none =>
    let w := fmtBits f
    let lim := 2 ^ (w - 1) - 1
    let k := roundTo mag ex 0
    let ovf := decide (k > lim)
    (if neg ∧ k ≠ 0 then 2 ^ w - k else k, ovf)

/-- The largest finite element of a sign (R31). -/
def largestEl (f : Nat) (neg : Bool) : Nat :=
  match ffmt f with
  | some ff => maxMag ff + (b2n neg <<< (ff.eb + ff.mb))
  | none =>
    let w := fmtBits f
    if neg then 2 ^ w - (2 ^ (w - 1) - 1) else 2 ^ (w - 1) - 1

/-- Round and saturate to the largest finite element (R30 step 3). -/
def satEl (f : Nat) (neg : Bool) (mag : Nat) (ex : Int) : Nat :=
  let (c, ovf) := roundEl f neg mag ex
  if ovf then largestEl f neg else c

/-- An element of a format without block scales in the overflow mode `nanMode` (R123's table; for FP32,
BF16 and FP16 it is R31's). -/
def storeEl (f : Nat) (nanMode : Bool) (v : Val) : Nat :=
  match v with
  | .nan => canonNaN f
  | .inf s =>
    match ffmt f with
    | some ff =>
      if ff.spec = 1 then infCode ff s
      else if f = 0 then (if nanMode then 0x7F else largestEl f s)
      else largestEl f s
    | none => largestEl f s
  | .fin s m e =>
    let (c, ovf) := roundEl f s m e
    if ovf then
      if nanMode then
        match ffmt f with
        | some ff => if ff.spec = 1 then infCode ff s else if f = 0 then 0x7F else largestEl f s
        | none => largestEl f s
      else largestEl f s
    else c

/-- floor(log2) of a positive dyadic magnitude. -/
def magLog (mag : Nat) (ex : Int) : Int := ex + mag.log2

/-- One block of outputs with an E8M0 scale (R30, R31): the scale byte and the element codes. -/
def roundBlock (f : Nat) (nanMode : Bool) (vs : List Val) : Nat × List Nat :=
  let logs := vs.filterMap (fun v => match v with
    | .fin _ m e => if m = 0 then none else some (magLog m e)
    | _ => none)
  let x0 : Int := match logs with
    | [] => 0
    | l :: t => t.foldl max l - fmtEmax f
  let ovf := decide (x0 > 127)
  let x : Int := if x0 > 127 then 127 else if x0 < -127 then -127 else x0
  let hasNan := vs.any (fun v => match v with | .nan => true | _ => false)
  let hasInf := vs.any (fun v => match v with | .inf _ => true | _ => false)
  let noSpecial := decide (2 ≤ f ∧ f ≤ 6)
  let kill := (ovf && nanMode) || (noSpecial && hasNan) || (noSpecial && nanMode && hasInf)
  if kill then (0xFF, vs.map (fun _ => 0))
  else
    ((x + 127).toNat, vs.map (fun v => match v with
      | .nan => canonNaN f
      | .inf s =>
        if f = 1 then infCode ⟨5, 2, 15, 1⟩ s
        else if f = 0 ∧ nanMode then 0x7F else largestEl f s
      | .fin s m e => satEl f s m (e - x)))

/-! ## Packing elements (R115) -/

/-- Read element `e` of a packed array at byte `o` of a byte list. -/
def unpackEl (f : Nat) (bs : List Byte) (o e : Nat) : Nat :=
  let w := fmtBits f
  let b := e * w
  let lo := o + b / 8
  let v := leNat ((bs.drop lo).take 5)
  nbits v (b % 8 + w - 1) (b % 8)

/-- Pack element codes (R115). -/
def packEls (f : Nat) (es : List Nat) : List Byte :=
  let w := fmtBits f
  let v := (es.zipIdx).foldl (fun acc p => acc + ((p.1 % 2 ^ w) <<< (p.2 * w))) 0
  natLE ((es.length * w + 7) / 8) v

/-- The value of an element times its E8M0 block scale; 0xFF makes it NaN (R18). -/
def scaleVal (x : Nat) (v : Val) : Val :=
  if x = 0xFF then .nan
  else match v with
    | .fin s m e => .fin s m (e + (x : Int) - 127)
    | v => v

/-- A value rounded to FP32 (R123): beyond the range it is an infinity, a zero keeps its sign. -/
def toF32 (v : Val) : W32 :=
  match v with
  | .nan => nan32
  | .inf s => inf32 s
  | .fin s m e => if m = 0 then zero32 s else pack32 s m e

end Sys2Proof.Machine
end

