-- ==== Sys2Proof/Machine/Legal.lean ====
section
/-! DEFINITION. Which instructions are illegal (R96): for each, the most significant offending field, named
by the bit offset of its most significant bit (R337); and the decoding of the 128-bit words of a kernel
image (R92 to R95). -/

namespace Sys2Proof.Machine

open Sys2Proof

/-- The highest bit among the conditions that hold. -/
def worst (l : List (Bool × Nat)) : Option Nat :=
  l.foldl (fun acc x => if x.1 then (match acc with | none => some x.2 | some a => some (Nat.max a x.2)) else acc) none

/-- Header conditions: TIMED where it is not allowed, and OFFSET in a wait form (R94, R96). -/
def hdrBad (h : Hdr) (timedOk : Bool) : List (Bool × Nat) :=
  [(h.timed && !timedOk, 115), (!h.timed && h.offset != 0, 111)]

/-- SQ fields an instruction does not name, as a choice of (SD, SA, SB, IF, PD, PA, PB, FN, IMM) (R104). -/
def sqUnused (o : SqArgs) (sd sa sb immf pd pa pb fn imm : Bool) : List (Bool × Nat) :=
  [(!sd && o.sd != 0, 95), (!sa && o.sa != 0, 90), (!sb && o.sb != 0, 85), (!immf && o.immf, 80), (!pd && o.pd != 0, 79),
   (!pa && o.pa != 0, 76), (!pb && o.pb != 0, 73), (!fn && o.fn != 0, 70), (!imm && o.imm != 0, 63)]

/-- An SQ form of an ALU instruction (R104). -/
def aluBad (h : Hdr) (o : SqArgs) : Option Nat :=
  worst (hdrBad h false ++ sqUnused o true true true true false false false false true)

/-- LD and ST class conditions (R107): the pads the engine has no port on, PART, and the fields that the payload names
for other instructions only (`rb` a memory form, `kv` a form with keys or values). -/
def ldBad (h : Hdr) (o : LdArgs) (store kv rb : Bool) : Option Nat :=
  worst (hdrBad h false ++
    [(o.sref.pad == 3 || (store && o.sref.pad == 0), 95), (rb && o.sd != 0, 71), (if rb then o.rbytes == 0 || o.rbytes.toNat % 16 != 0 else o.rbytes != 0, 51),
     (rb && o.grp != 0, 23), (if kv then o.part == 0 else o.part != 0, 15)])

/-- Operand format conditions of an MX-class instruction (R17). -/
def fmtBad (fa fw : Nat) : List (Bool × Nat) :=
  [(fmtGroup fa == 3, 23), (fmtGroup fw == 3, 19), (fmtGroup fa != 3 && fmtGroup fw != 3 && fmtGroup fa != fmtGroup fw, 23)]

/-- Whether a slot reference is all zero. -/
def srefZero (r : SRef) : Bool := !r.flag && r.pad == 0 && r.slot == 0

/-- MX conditions (R113, R114, R17, R47). -/
def mxBad (h : Hdr) (o : MxArgs) : Option Nat :=
  let fa := o.fa.toNat
  let fw := o.fw.toNat
  worst (hdrBad h true ++ fmtBad fa fw ++
    [(o.sa.pad != 1, 95), (o.sw.pad != 0, 86), (o.so.pad != (if o.spill then 2 else 1), 77),
     (if o.pcs then o.sc.pad != 1 else !srefZero o.sc, 68),
     (o.is && (o.mm.toNat + 1) % 16 != 0, 59), (!o.is && (o.nn.toNat + 1) % 16 != 0, 47), ((o.kk.toNat + 1) % 16 != 0, 35),
     (if o.spill then o.fo != 0 else fmtReserved o.fo.toNat, 15), (o.sp && (fmtGroup fa == 2 || fmtGroup fw == 2), 10),
     (o.acc && !o.spill, 7), (o.pcs && !(fmtGroup fa == 1 && fmtGroup fw == 1), 6)])

/-- MXSCAN conditions (R119). -/
def scanBad (h : Hdr) (o : MxArgs) : Option Nat :=
  let fa := o.fa.toNat
  let fw := o.fw.toNat
  worst (hdrBad h true ++ fmtBad fa fw ++
    [(o.sa.pad != 1, 95), (o.sw.pad != 0, 86), (o.so.pad != 2, 77), (!srefZero o.sc, 68), (!fmtBlock fa, 23), (!fmtBlock fw, 19),
     (o.fo != 0, 15), (o.sp, 10), (o.ovf, 9), (o.spill, 8), (o.acc, 7), (o.pcs, 6)])

/-- MXCMB conditions (R120). -/
def cmbBad (h : Hdr) (o : MxArgs) : Option Nat :=
  worst (hdrBad h true ++
    [(o.sa.pad != 2, 95), (!srefZero o.sw, 86), (o.so.pad != 2, 77), (!srefZero o.sc, 68), (o.kk != 0, 35), (o.fa != 0, 23),
     (o.fw != 0, 19), (o.fo != 0, 15), (o.is, 11), (o.sp, 10), (o.ovf, 9), (o.spill, 8), (o.acc, 7), (o.pcs, 6)])

/-- MXCVT conditions (R121). -/
def cvtBad (h : Hdr) (o : MxArgs) : Option Nat :=
  worst (hdrBad h true ++
    [(o.sa.pad != 2, 95), (!srefZero o.sw, 86), (o.so.pad != 1, 77), (if o.pcs then o.sc.pad != 1 else !srefZero o.sc, 68),
     (o.kk != 0, 35), (o.fa != 0, 23), (o.fw != 0, 19), (fmtReserved o.fo.toNat, 15), (o.is, 11), (o.sp, 10), (o.spill, 8), (o.acc, 7)])

/-- VX conditions: slot pad, format and function codes (R122 to R129). -/
def vxBad (h : Hdr) (o : VxArgs) (slot fmt : Bool) (fnMax : Nat) : Option Nat :=
  worst (hdrBad h true ++
    [(slot && (o.sref.pad == 0 || o.sref.pad == 3), 65), (fmt && fmtReserved o.fmt.toNat, 39),
     (fmt && bit o.fn 0 && !fmtBlock o.fmt.toNat, 39), (decide (fnMax < o.fn.toNat), 35)])

/-- Bits of a bank map above the bank count of the port's pad (R132). -/
def mapBad (port map : Nat) : Bool :=
  match port with
  | 0 => false | 2 => false | 4 => false | 7 => false | 9 => false
  | _ => decide (map ≥ 2 ^ 16)

/-- One MARK or WAIT condition names a reserved pad (R133). -/
def condBad (c : Cond) : Bool := c.v && c.pad == 3

/-- MARK and WAIT conditions (R133). -/
def markBad (h : Hdr) (o : MarkArgs) : Option Nat :=
  worst (hdrBad h false ++ [(condBad o.c0, 95), (condBad o.c1, 84), (condBad o.c2, 73), (condBad o.c3, 62)])

/-- The most significant offending field of an instruction, or none when it is legal by itself (R96). Targets
of BR and LOOP, and timed forms without a MARK, are conditions of the image. -/
def illegalField (i : Instr) : Option Nat :=
  match i with
  | .nop _ h => worst (hdrBad h false)
  | .end_ _ h => worst (hdrBad h false)
  | .movi _ h o => worst (hdrBad h false ++ sqUnused o true false false false false false false false true)
  | .add _ h o => aluBad h o
  | .sub _ h o => aluBad h o
  | .mul _ h o => aluBad h o
  | .and _ h o => aluBad h o
  | .or _ h o => aluBad h o
  | .xor _ h o => aluBad h o
  | .shl _ h o => aluBad h o
  | .shr _ h o => aluBad h o
  | .sra _ h o => aluBad h o
  | .min _ h o => aluBad h o
  | .max _ h o => aluBad h o
  | .setp _ h o => worst (hdrBad h false ++ sqUnused o false true true true true false false true true ++ [(decide (7 < o.fn.toNat), 70)])
  | .plog _ h o => worst (hdrBad h false ++ sqUnused o false false false false true true true true false ++ [(decide (3 < o.fn.toNat), 70)])
  | .spr _ h o => worst (hdrBad h false ++ sqUnused o true false false false false false false true false ++ [(decide (6 < o.fn.toNat), 70)])
  | .br _ h o => worst (hdrBad h false ++ sqUnused o false false false false false false false false true)
  | .loop _ h o => worst (hdrBad h false ++ sqUnused o false true false false false false false false true ++ [(bits o.imm 63 16 != 0, 63)])
  | .lds _ h o => worst (hdrBad h false ++ sqUnused o true true false false false false false true true ++
      [(bit o.fn 3, 70), (bits o.imm 62 61 != 1, 63), (bits o.imm 54 32 != 0, 54)])
  | .sts _ h o => worst (hdrBad h false ++ sqUnused o false true true false false false false true true ++
      [(bit o.fn 3 || bit o.fn 2, 70), (bits o.imm 62 61 != 1, 63), (bits o.imm 54 32 != 0, 54)])
  | .shw _ h o => worst (hdrBad h false ++ sqUnused o true true false false false false false false true)
  | .ld _ h o => ldBad h o false false true
  | .ldkv _ h o => ldBad h o false true false
  | .ldsk _ h o => ldBad h o false false false
  | .st _ h o => ldBad h o true false true
  | .stkv _ h o => ldBad h o true true false
  | .stsh _ h o => worst (hdrBad h false ++
      [(!srefZero o.sref, 95), (o.sc != 0, 76), (o.sd != 0, 71), (o.nrows != 0, 63), (o.rbytes != 0, 51), (o.row != 0, 35), (o.grp != 0, 23), (o.part != 0, 15)])
  | .mx _ h o => mxBad h o
  | .mxscan _ h o => scanBad h o
  | .mxcmb _ h o => cmbBad h o
  | .mxcvt _ h o => cvtBad h o
  | .vld _ h o => vxBad h o true true 3
  | .vst _ h o => vxBad h o true true 3
  | .vadd _ h o => vxBad h o false false 15
  | .vsub _ h o => vxBad h o false false 15
  | .vmul _ h o => vxBad h o false false 15
  | .vfma _ h o => vxBad h o false false 15
  | .vmax _ h o => vxBad h o false false 15
  | .vmin _ h o => vxBad h o false false 15
  | .vcmp _ h o => vxBad h o false false 3
  | .vsel _ h o => vxBad h o false false 15
  | .vspl _ h o => vxBad h o false false 1
  | .vcvt _ h o => vxBad h o false true 3
  | .vexp2 _ h o => vxBad h o false false 15
  | .vrcp _ h o => vxBad h o false false 15
  | .vrsq _ h o => vxBad h o false false 15
  | .vrot _ h o => vxBad h o true false 1
  | .vbias _ h o => vxBad h o true false 15
  | .vmsk _ h o => worst ([(o.fn == 0 && o.imm.toNat % 16 != 0, 31)] ++
      (match vxBad h o (o.fn == 0) false 1 with | some b => [(true, b)] | none => []))
  | .vsmx _ h o => worst ([(o.sref.pad != 2, 65)] ++ (match vxBad h o true false 1 with | some b => [(true, b)] | none => []))
  | .vred _ h o => vxBad h o false false 3
  | .vrng _ h o => vxBad h o false false 1
  | .slot _ h o => worst (hdrBad h false ++
      [(o.pad == 3, 95), (o.producer == 5 || o.producer == 6, 81), (decide (128 < o.rowCount.toNat), 78),
       (decide (128 < o.firstRow.toNat + o.rowCount.toNat), 78),
       (decide ((if o.pad == 1 then 32 else 16) < o.firstBank.toNat + o.bankCount.toNat), 63), (o.rowCount != 0 && o.bankCount == 0, 63)])
  | .bmap _ h o => worst (hdrBad h false ++
      [(decide (10 < o.port0.toNat), 95), (mapBad o.port0.toNat o.map0.toNat, 91), (if o.v1 then decide (10 < o.port1.toNat) else o.port1 != 0, 58),
       (if o.v1 then mapBad o.port1.toNat o.map1.toNat else o.map1 != 0, 54)])
  | .mark _ h o => markBad h o
  | .wait _ h o => markBad h o
  | .sqry _ h o => worst (hdrBad h false ++ [(o.pad == 3, 90)])
  | .perf _ h o => worst (hdrBad h false ++ [(decide (4 < o.sel.toNat), 90)])
  | .fenceInstr _ h => worst (hdrBad h false)
  | .sclr _ h o => worst (hdrBad h false ++ [(o.pad == 3, 95)])
  | _ => none

/-! ## Words of a kernel image -/

/-- The header fields of an instruction word (R94). -/
def hdrOf (w : W128) : Hdr :=
  { pneg := bit w 119, pred := BitVec.ofNat 3 (bits w 118 116), timed := bit w 115, offset := BitVec.ofNat 16 (bits w 111 96) }

/-- A slot reference at bits [lo + 8:lo] (R95). -/
def srefOf (w : W128) (lo : Nat) : SRef :=
  { flag := bit w (lo + 8), pad := BitVec.ofNat 2 (bits w (lo + 7) (lo + 6)), slot := BitVec.ofNat 6 (bits w (lo + 5) lo) }

/-- The SQ payload (R104). -/
def sqOf (w : W128) : SqArgs :=
  { sd := BitVec.ofNat 5 (bits w 95 91), sa := BitVec.ofNat 5 (bits w 90 86), sb := BitVec.ofNat 5 (bits w 85 81), immf := bit w 80,
    pd := BitVec.ofNat 3 (bits w 79 77), pa := BitVec.ofNat 3 (bits w 76 74), pb := BitVec.ofNat 3 (bits w 73 71),
    fn := BitVec.ofNat 4 (bits w 70 67), imm := BitVec.ofNat 64 (bits w 63 0) }

/-- The LD and ST payload (R107). -/
def ldOf (w : W128) : LdArgs :=
  { sref := srefOf w 87, sa := BitVec.ofNat 5 (bits w 86 82), sb := BitVec.ofNat 5 (bits w 81 77), sc := BitVec.ofNat 5 (bits w 76 72),
    sd := BitVec.ofNat 5 (bits w 71 67), nrows := BitVec.ofNat 12 (bits w 63 52), rbytes := BitVec.ofNat 16 (bits w 51 36),
    row := BitVec.ofNat 12 (bits w 35 24), grp := BitVec.ofNat 8 (bits w 23 16), part := BitVec.ofNat 2 (bits w 15 14) }

/-- The MX payload (R113). -/
def mxOf (w : W128) : MxArgs :=
  { sa := srefOf w 87, sw := srefOf w 78, so := srefOf w 69, sc := srefOf w 60, mm := BitVec.ofNat 12 (bits w 59 48),
    nn := BitVec.ofNat 12 (bits w 47 36), kk := BitVec.ofNat 12 (bits w 35 24), fa := BitVec.ofNat 4 (bits w 23 20),
    fw := BitVec.ofNat 4 (bits w 19 16), fo := BitVec.ofNat 4 (bits w 15 12), is := bit w 11, sp := bit w 10, ovf := bit w 9,
    spill := bit w 8, acc := bit w 7, pcs := bit w 6, sr := BitVec.ofNat 5 (bits w 5 1) }

/-- The VX payload (R122). -/
def vxOf (w : W128) : VxArgs :=
  { vd := BitVec.ofNat 5 (bits w 95 91), va := BitVec.ofNat 5 (bits w 90 86), vb := BitVec.ofNat 5 (bits w 85 81),
    vc := BitVec.ofNat 5 (bits w 80 76), sa := BitVec.ofNat 5 (bits w 75 71), sb := BitVec.ofNat 5 (bits w 70 66),
    sref := srefOf w 57, row := BitVec.ofNat 12 (bits w 56 45), sr := BitVec.ofNat 5 (bits w 44 40),
    fmt := BitVec.ofNat 4 (bits w 39 36), fn := BitVec.ofNat 4 (bits w 35 32), imm := BitVec.ofNat 32 (bits w 31 0) }

/-- The SLOT payload (R131). -/
def slotArgsOf (w : W128) : SlotArgs :=
  { pad := BitVec.ofNat 2 (bits w 95 94), slot := BitVec.ofNat 6 (bits w 93 88), retain := bit w 87,
    consumers := BitVec.ofNat 5 (bits w 86 82), producer := BitVec.ofNat 3 (bits w 81 79), rowCount := BitVec.ofNat 8 (bits w 78 71),
    firstRow := BitVec.ofNat 7 (bits w 70 64), bankCount := BitVec.ofNat 6 (bits w 63 58), firstBank := BitVec.ofNat 5 (bits w 57 53) }

/-- The BMAP payload (R132). -/
def bmapOf (w : W128) : BmapArgs :=
  { port0 := BitVec.ofNat 4 (bits w 95 92), map0 := BitVec.ofNat 32 (bits w 91 60), v1 := bit w 59,
    port1 := BitVec.ofNat 4 (bits w 58 55), map1 := BitVec.ofNat 32 (bits w 54 23) }

/-- A slot condition whose top bit is `hi` (R133). -/
def condOf (w : W128) (hi : Nat) : Cond :=
  { v := bit w hi, pad := BitVec.ofNat 2 (bits w (hi - 1) (hi - 2)), slot := BitVec.ofNat 6 (bits w (hi - 3) (hi - 8)),
    st := BitVec.ofNat 2 (bits w (hi - 9) (hi - 10)) }

/-- The MARK and WAIT payload (R133). -/
def markOf (w : W128) : MarkArgs := { c0 := condOf w 95, c1 := condOf w 84, c2 := condOf w 73, c3 := condOf w 62 }

/-- The instruction a word encodes for core `c`, none for a reserved opcode (R94, R95). -/
def decodeWord (c : Nat) (w : W128) : Option Instr :=
  let h := hdrOf w
  match bits w 127 120 with
  | 0x00 => some (.nop c h) | 0x01 => some (.end_ c h) | 0x02 => some (.movi c h (sqOf w)) | 0x03 => some (.br c h (sqOf w))
  | 0x04 => some (.loop c h (sqOf w)) | 0x05 => some (.setp c h (sqOf w)) | 0x06 => some (.plog c h (sqOf w))
  | 0x07 => some (.spr c h (sqOf w)) | 0x08 => some (.lds c h (sqOf w)) | 0x09 => some (.sts c h (sqOf w))
  | 0x0A => some (.shw c h (sqOf w)) | 0x10 => some (.add c h (sqOf w)) | 0x11 => some (.sub c h (sqOf w))
  | 0x12 => some (.mul c h (sqOf w)) | 0x13 => some (.and c h (sqOf w)) | 0x14 => some (.or c h (sqOf w))
  | 0x15 => some (.xor c h (sqOf w)) | 0x16 => some (.shl c h (sqOf w)) | 0x17 => some (.shr c h (sqOf w))
  | 0x18 => some (.sra c h (sqOf w)) | 0x19 => some (.min c h (sqOf w)) | 0x1A => some (.max c h (sqOf w))
  | 0x20 => some (.ld c h (ldOf w)) | 0x21 => some (.ldkv c h (ldOf w)) | 0x22 => some (.ldsk c h (ldOf w))
  | 0x40 => some (.st c h (ldOf w)) | 0x41 => some (.stkv c h (ldOf w)) | 0x42 => some (.stsh c h (ldOf w))
  | 0x60 => some (.mx c h (mxOf w)) | 0x61 => some (.mxscan c h (mxOf w)) | 0x62 => some (.mxcmb c h (mxOf w))
  | 0x63 => some (.mxcvt c h (mxOf w))
  | 0x80 => some (.vld c h (vxOf w)) | 0x81 => some (.vst c h (vxOf w)) | 0x82 => some (.vadd c h (vxOf w))
  | 0x83 => some (.vsub c h (vxOf w)) | 0x84 => some (.vmul c h (vxOf w)) | 0x85 => some (.vfma c h (vxOf w))
  | 0x86 => some (.vmax c h (vxOf w)) | 0x87 => some (.vmin c h (vxOf w)) | 0x88 => some (.vcmp c h (vxOf w))
  | 0x89 => some (.vsel c h (vxOf w)) | 0x8A => some (.vspl c h (vxOf w)) | 0x8B => some (.vcvt c h (vxOf w))
  | 0x8C => some (.vexp2 c h (vxOf w)) | 0x8D => some (.vrcp c h (vxOf w)) | 0x8E => some (.vrsq c h (vxOf w))
  | 0x8F => some (.vrot c h (vxOf w)) | 0x90 => some (.vbias c h (vxOf w)) | 0x91 => some (.vmsk c h (vxOf w))
  | 0x92 => some (.vsmx c h (vxOf w)) | 0x93 => some (.vred c h (vxOf w)) | 0x94 => some (.vrng c h (vxOf w))
  | 0xA0 => some (.slot c h (slotArgsOf w)) | 0xA1 => some (.bmap c h (bmapOf w)) | 0xA2 => some (.mark c h (markOf w))
  | 0xA3 => some (.wait c h (markOf w))
  | 0xA4 => some (.sqry c h { sd := BitVec.ofNat 5 (bits w 95 91), pad := BitVec.ofNat 2 (bits w 90 89), slot := BitVec.ofNat 6 (bits w 88 83) })
  | 0xA5 => some (.perf c h { sd := BitVec.ofNat 5 (bits w 95 91), sel := BitVec.ofNat 4 (bits w 90 87) })
  | 0xA6 => some (.fenceInstr c h)
  | 0xA7 => some (.sclr c h { pad := BitVec.ofNat 2 (bits w 95 94), slot := BitVec.ofNat 6 (bits w 93 88) })
  | _ => none

/-- Reserved bits of a word by its opcode: the most significant field that holds a nonzero one (R94 to R135). -/
def reservedBad (w : W128) : List (Bool × Nat) :=
  let z := fun hi lo => (bits w hi lo != 0, hi)
  let op := bits w 127 120
  [z 114 112] ++
  (if op ≤ 0x01 then [z 95 91, z 90 86, z 85 81, z 80 80, z 79 77, z 76 74, z 73 71, z 70 67, z 66 64, z 63 0]
   else if op < 0x20 then [z 66 64]
   else if op < 0x60 then [z 66 64, z 13 0]
   else if op < 0x80 then [z 0 0]
   else match op with
    | 0xA0 => [z 52 0] | 0xA1 => [z 22 0] | 0xA2 => [z 51 0] | 0xA3 => [z 51 0] | 0xA4 => [z 82 0] | 0xA5 => [z 86 0]
    | 0xA6 => [z 95 0] | 0xA7 => [z 87 0]
    | _ => [])

/-- The most significant offending field of an instruction word by itself (R96). -/
def wordBad (w : W128) : Option Nat :=
  match decodeWord 0 w with
  | none => some 127
  | some i => worst (reservedBad w ++ (match illegalField i with | some b => [(true, b)] | none => []))

/-! ## The load check of an image (R96, R105) -/

/-- The loop bodies of an image: address of the LOOP, first and last address of its body. -/
def loopBodies (ws : List W128) : List (Nat × Nat × Nat) :=
  ws.zipIdx.filterMap (fun p => if bits p.1 127 120 == 0x04 && bits p.1 15 0 != 0 then some (p.2, p.2 + 1, p.2 + bits p.1 15 0) else none)

/-- The bodies that hold an address, innermost last by nesting. -/
def bodiesAt (bs : List (Nat × Nat × Nat)) (a : Nat) : List (Nat × Nat × Nat) := bs.filter (fun b => decide (b.2.1 ≤ a) && decide (a ≤ b.2.2))

/-- Target of the BR at an address (R104). -/
def brTarget (w : W128) (a : Nat) : Int := (a : Int) + (BitVec.ofNat 64 (bits w 63 0)).toInt

/-- Whether the BR or LOOP at address `a` breaks R105. -/
def flowBad (ws : List W128) (w : W128) (a : Nat) : Bool :=
  let bs := loopBodies ws
  let here := bodiesAt bs a
  match bits w 127 120 with
  | 0x03 =>
    let t := brTarget w a
    if t < 0 ∨ t ≥ ws.length then true
    else bodiesAt bs t.toNat != here
  | 0x04 =>
    let n := bits w 15 0
    decide (ws.length ≤ a + n) || here.any (fun b => decide (b.2.2 < a + n)) || (n != 0 && decide (4 ≤ here.length))
  | _ => false

/-- Whether an instruction word is a timed form. -/
def wordTimed (w : W128) : Bool := bit w 115

/-- The most significant offending field of the instruction at address `a` of an image (R96). -/
def addrBad (ws : List W128) (w : W128) (a : Nat) : Option Nat :=
  let marked := (ws.take a).any (fun x => bits x 127 120 == 0xA2)
  let last := decide (a + 1 = ws.length) && !(bits w 127 120 == 0x01 || (bits w 127 120 == 0x03 && bits w 119 116 == 0))
  worst ((match wordBad w with | some b => [(true, b)] | none => []) ++
    [(flowBad ws w a, 63), (wordTimed w && !marked, 115), (last, 127)])

/-- The lowest address at which an image is illegal, with its field (R96). -/
def imageBad (ws : List W128) : Option (Nat × Nat) :=
  ws.zipIdx.findSome? (fun p => (addrBad ws p.1 p.2).map (fun b => (p.2, b)))

end Sys2Proof.Machine
end

