-- ==== Sys2Proof/Config.lean ====
section
/-! DEFINITION. What an implementation fixes and what the manual leaves open: constants with no body,
so that a statement about the block holds whatever they are. `State.fresh` numbers the free values of
a run: every use takes the next index. -/

namespace Sys2Proof.Config

/-- A free value (log 5): the manual gives an effect and leaves this value open. -/
opaque freeNat : Nat → Nat

/-- Whether a memory line with three or more bad symbols is detected as uncorrectable (R220, log 60): free index, and
frame × 1,024 + line. -/
opaque lineSeen : Nat → Nat → Bool

/-- A byte of such a line that is delivered all the same (R220, log 60): free index, and frame × 65,536 + byte. -/
opaque lineByte : Nat → Nat → BitVec 8

/-- What the ECC of the far tier meets in a line from its write on (R222, log 99), modulo 3: nothing, a corrected event, an uncorrectable
one; free index, time, and frame × 1,024 + line. -/
opaque farFault : Nat → Nat → Nat → Nat

/-- The channel of a line of near memory, which the interleave hides (R217): frame × 1,024 + line. -/
opaque lineChannel : Nat → Nat

/-- Whether a pad row with three or more bad symbols is detected as uncorrectable (R60, log 60): free index, pad, row. -/
opaque rowSeen : Nat → Nat → Nat → Bool

/-- A byte of such a row that is delivered all the same (R60, log 60): free index, pad, row, byte. -/
opaque rowByte : Nat → Nat → Nat → Nat → BitVec 8

/-- The hidden row of a token at a position: the manual does not define the model kernels (log 7). Every
model function takes the digests of the pinned set's plates, which hold its weights (R170, R294). -/
opaque embed : List (BitVec 256) → BitVec 32 → Nat → List (BitVec 32)

/-- The FP32 outputs of the query, key and value projections of a layer (R167, log 7): plates, layer, hidden
row, projection (0 query, 1 key, 2 value), element. -/
opaque qkv : List (BitVec 256) → Nat → List (BitVec 32) → Nat → Nat → BitVec 32

/-- Whether a layer's KV head groups lie on the devices of a job, so that its output projection is reduced
(R181, log 7). -/
opaque headsSplit : List (BitVec 256) → Nat → Bool

/-- The FP32 output projection of a row's attention output, or this member's partial of it (R181, log 7). -/
opaque project : List (BitVec 256) → Nat → List (BitVec 32) → List (BitVec 32)

/-- This member's partial of the output projection accumulated into preset entries with the given anchors: the 96-bit WINDOW, and the
flags NAN, PINF and NINF in bits 2 to 0, of each element (R182, log 7). -/
opaque projectWin : List (BitVec 256) → Nat → List (BitVec 32) → List Int → List (BitVec 96 × BitVec 3)

/-- The E8M0 block scales of a row's attention output as the operand of the output projection (R182, log 7). -/
opaque actScales : List (BitVec 256) → Nat → List (BitVec 32) → List (BitVec 8)

/-- The weight scales of a layer's output projection over the whole K, which every member's plates hold (XSCALES of R166, R182, log 7):
plate set, layer, column, block. -/
opaque projScale : BitVec 16 → Nat → Nat → Nat → BitVec 8

/-- Pa + Pw of a layer's output projection (R21, log 7): plate set, layer. -/
opaque projOffset : BitVec 16 → Nat → Int

/-- The hidden row after a layer's projection and its dense part (log 7): plates, layer, hidden row, projected
attention output. -/
opaque layerOut : List (BitVec 256) → Nat → List (BitVec 32) → List (BitVec 32) → List (BitVec 32)

/-- Byte `i` of the row a layer hands to the Separator (R191, log 7). -/
opaque dispatchRow : List (BitVec 256) → Nat → List (BitVec 32) → Nat → BitVec 8

/-- The hidden row after the combined expert row has been added (R205, log 7). -/
opaque expertOut : List (BitVec 256) → Nat → List (BitVec 32) → List (BitVec 8) → List (BitVec 32)

/-- The FP32 logit of a vocabulary index for a hidden row (R277, log 7). -/
opaque logit : List (BitVec 256) → List (BitVec 32) → Nat → BitVec 32

/-- The result row an expert kernel computes (R203, log 7): plates, layer, local expert, dispatched row, byte. -/
opaque expertRow : List (BitVec 256) → Nat → Nat → List (BitVec 8) → Nat → BitVec 8

/-- The 40-bit frame marker (R308), whose value the manual does not give. -/
opaque frameMarker : BitVec 40

/-- The body bytes of a message whose layout the manual does not give (log 28), for this free index. -/
opaque wireBytes : Nat → List (BitVec 8)

/-- Firmware structure frames of each stack (R151, R480 item 5), fewer than 65,536 of its 1,179,648 (log 10). -/
opaque fwFrames : BitVec 16

/-- Whether the governor withholds a cycle from a core it throttles (R12, R55, log 105): free index, core. -/
opaque withheld : Nat → Nat → Bool

/-- The entropy source of Proof sampling (R347): whether the draw with this free index hits 1/N. -/
opaque entropy : Nat → Nat → Bool

/-- ML-DSA-44 verification (FIPS 204, R399, R406): key, message, signature. -/
opaque mlDsaVerify : List Byte → List Byte → List Byte → Bool

/-- ML-DSA-44 signing (R409, R413): secret, message. -/
opaque mlDsaSign : BitVec 256 → List Byte → List Byte

/-- The ML-DSA-44 public key of a seed (R409, R410). -/
opaque mlDsaKey : BitVec 256 → List Byte

/-- The ML-KEM-768 response share of a key exchange with this free index (R413, R414). -/
opaque mlKemShare : Nat → List Byte

/-- The SHA3-256 of the Gyvowell firmware-signing public key held in both ROMs (R400). -/
opaque romKeyDigest : BitVec 256

/-- The measurement of the boot ROM (R412, index 1). -/
opaque romMeasurement : BitVec 256

/-- The device secret the fuzzy extractor forms from the PUF (R409). -/
opaque deviceSecret : BitVec 256

/-- The Alias certificate the ROM issues for a seed (R410). -/
opaque aliasCert : BitVec 256 → List Byte

end Sys2Proof.Config
end

