-- ==== Sys2Proof/Machine/Hash.lean ====
section
/-! DEFINITION. The digests, ciphers, checks and generators the manual names: SHA3-256 (FIPS 202),
AES-256 in XTS mode (FIPS 197, IEEE 1619), CRC-32C, and the counter-based generator of R394. The
manual names these functions and does not restate them (log 9, PRESUMED from the standards named). -/

namespace Sys2Proof.Machine

open Sys2Proof

/-! ## SHA3-256 -/

/-- Rotate a 64-bit word left. -/
def rotl64 (x : W64) (n : Nat) : W64 := x.rotateLeft n

/-- The 24 round constants of Keccak-f[1600]. -/
def keccakRC : List W64 :=
  [0x1, 0x8082, 0x800000000000808A, 0x8000000080008000, 0x808B, 0x80000001, 0x8000000080008081,
   0x8000000000008009, 0x8A, 0x88, 0x80008009, 0x8000000A] ++
  [0x8000808B, 0x800000000000008B, 0x8000000000008089, 0x8000000000008003, 0x8000000000008002,
   0x8000000000000080, 0x800A, 0x800000008000000A, 0x8000000080008081, 0x8000000000008080, 0x80000001,
   0x8000000080008008]

/-- Rotation offsets of ρ for lane x + 5y. -/
def keccakRot : List Nat :=
  [0, 1, 62, 28, 27, 36, 44, 6, 55, 20, 3, 10, 43, 25, 39, 41, 45, 15, 21, 8, 18, 2, 61, 56, 14]

/-- One round of Keccak-f[1600] on 25 lanes. -/
def keccakRound (a : List W64) (rc : W64) : List W64 :=
  let g := fun (l : List W64) i => nth (0 : W64) l i
  let c := (List.range 5).map (fun x => g a x ^^^ g a (x + 5) ^^^ g a (x + 10) ^^^ g a (x + 15) ^^^ g a (x + 20))
  let d := (List.range 5).map (fun x => g c ((x + 4) % 5) ^^^ rotl64 (g c ((x + 1) % 5)) 1)
  let t := (List.range 25).map (fun i => rotl64 (g a i ^^^ g d (i % 5)) (nth 0 keccakRot i))
  -- π moves lane (x, y) to (y, 2x + 3y)
  let b := (List.range 25).map (fun j =>
    let x' := j % 5
    let y' := j / 5
    -- the source (x, y) has y = x' and 2x + 3y ≡ y' (mod 5)
    let y := x'
    let x := (y' + 10 - (3 * y) % 5) * 3 % 5
    g t (x + 5 * y))
  (List.range 25).map (fun i =>
    let y := i / 5
    let x := i % 5
    let v := g b i ^^^ (~~~ g b ((x + 1) % 5 + 5 * y) &&& g b ((x + 2) % 5 + 5 * y))
    if i = 0 then v ^^^ rc else v)

/-- Keccak-f[1600]. -/
def keccakF (a : List W64) : List W64 := keccakRC.foldl keccakRound a

/-- Absorb one block of 136 bytes. -/
def keccakAbsorb (a : List W64) (blk : List Byte) : List W64 :=
  keccakF ((List.range 25).map (fun i =>
    nth 0 a i ^^^ (if i < 17 then BitVec.ofNat 64 (leNat ((blk.drop (8 * i)).take 8)) else 0)))

/-- The message padded to whole blocks of 136 bytes. -/
def sha3Pad (m : List Byte) : List Byte :=
  let z := 135 - m.length % 136
  if z = 0 then m ++ [0x86]
  else m ++ [0x06] ++ List.replicate (z - 1) 0 ++ [0x80]

/-- SHA3-256 as 32 bytes. -/
def sha3 (m : List Byte) : List Byte :=
  let a := (chunks 136 (sha3Pad m)).foldl keccakAbsorb (List.replicate 25 0)
  ((a.take 4).flatMap (fun x => natLE 8 x.toNat))

/-- A digest as a 256-bit field value: byte 0 in bits [7:0] (R6). -/
def sha3w (m : List Byte) : W256 := BitVec.ofNat 256 (leNat (sha3 m))

/-! ## AES-256 and XTS -/

/-- Multiplication by x in GF(2^8). -/
def xtime (a : Nat) : Nat := if a < 128 then 2 * a else (2 * a % 256) ^^^ 0x1B

/-- Multiplication in GF(2^8), `n` bits of the second factor. -/
def gmulGo (a b : Nat) : Nat → Nat
  | 0 => 0
  | n + 1 => (if b % 2 = 1 then a else 0) ^^^ gmulGo (xtime a) (b / 2) n

/-- Multiplication in GF(2^8). -/
def gmul (a b : Nat) : Nat := gmulGo a b 8

/-- The inverse in GF(2^8): a^254, and 0 for 0. -/
def ginv (a : Nat) : Nat :=
  let sq := fun x => gmul x x
  let a2 := sq a
  let a4 := sq a2
  let a8 := sq a4
  let a16 := sq a8
  let a32 := sq a16
  let a64 := sq a32
  let a128 := sq a64
  gmul a2 (gmul a4 (gmul a8 (gmul a16 (gmul a32 (gmul a64 a128)))))

/-- The AES S-box. -/
def sbox (a : Nat) : Nat :=
  let b := ginv a
  let r := fun k => (b <<< k ||| b >>> (8 - k)) % 256
  (b ^^^ r 1 ^^^ r 2 ^^^ r 3 ^^^ r 4) ^^^ 0x63

/-- The S-box table. -/
def sboxT : List Nat := (List.range 256).map sbox

/-- The inverse S-box table. -/
def invSboxT : List Nat := (List.range 256).map (fun y => (sboxT.findIdx? (· == y)).getD 0)

/-- Round keys: the words of the AES-256 key schedule, `n` more after the reversed list `ws` of `i`. -/
def aesExpand (ws : List (List Nat)) (i rcon : Nat) : Nat → List (List Nat)
  | 0 => ws.reverse
  | n + 1 =>
    let t := nth [] ws 0
    let sub := fun (l : List Nat) => l.map (fun x => nth 0 sboxT x)
    let (t, rcon) :=
      if i % 8 = 0 then
        let r := sub (t.drop 1 ++ t.take 1)
        ((nth 0 r 0 ^^^ rcon) :: r.drop 1, xtime rcon)
      else if i % 8 = 4 then (sub t, rcon)
      else (t, rcon)
    aesExpand (List.zipWith (· ^^^ ·) t (nth [] ws 7) :: ws) (i + 1) rcon n

/-- The 15 round keys of 16 bytes. -/
def aesKeys (k : List Nat) : List (List Nat) :=
  (chunks 4 (aesExpand ((chunks 4 k).reverse) 8 1 52)).map List.flatten

/-- MixColumns with the given coefficients. -/
def mixCols (m : List Nat) (st : List Nat) : List Nat :=
  (chunks 4 st).flatMap (fun c => (List.range 4).map (fun r =>
    (List.range 4).foldl (fun acc j => acc ^^^ gmul (nth 0 m ((j + 4 - r) % 4)) (nth 0 c j)) 0))

/-- ShiftRows by `k` columns per row (1 forward, 3 back). -/
def shiftRows (k : Nat) (st : List Nat) : List Nat :=
  (List.range 16).map (fun i => nth 0 st (((i / 4 + k * (i % 4)) % 4) * 4 + i % 4))

/-- AES encryption of one block under round keys. -/
def aesEnc (ks : List (List Nat)) (b : List Nat) : List Nat :=
  let add := fun (x y : List Nat) => List.zipWith (· ^^^ ·) x y
  let st := (rangeFrom 1 13).foldl (fun st r =>
    add (mixCols [2, 3, 1, 1] (shiftRows 1 (st.map (fun x => nth 0 sboxT x)))) (nth [] ks r)) (add b (nth [] ks 0))
  add (shiftRows 1 (st.map (fun x => nth 0 sboxT x))) (nth [] ks 14)

/-- AES decryption of one block under round keys. -/
def aesDec (ks : List (List Nat)) (b : List Nat) : List Nat :=
  let add := fun (x y : List Nat) => List.zipWith (· ^^^ ·) x y
  let inv := invSboxT
  let st := (List.range 13).foldl (fun st r =>
    mixCols [14, 11, 13, 9] (add ((shiftRows 3 st).map (fun x => nth 0 inv x)) (nth [] ks (13 - r))))
    (add b (nth [] ks 14))
  add ((shiftRows 3 st).map (fun x => nth 0 inv x)) (nth [] ks 0)

/-- Multiplication of an XTS tweak by α. -/
def xtsMul (t : Nat) : Nat := if t < 2 ^ 127 then 2 * t else (2 * t % 2 ^ 128) ^^^ 0x87

/-- One XTS pass over whole 16-byte blocks with a running tweak. -/
def xtsGo (f : List Nat → List Nat) (t : Nat) : List (List Nat) → List (List Nat)
  | [] => []
  | b :: r =>
    let tw := (natLE 16 t).map (·.toNat)
    List.zipWith (· ^^^ ·) (f (List.zipWith (· ^^^ ·) b tw)) tw :: xtsGo f (xtsMul t) r

/-- AES-XTS-256 over data of a multiple of 16 bytes: a 512-bit key whose low half encrypts data and whose
high half encrypts the 128-bit tweak (R231, log 9). -/
def xts (enc : Bool) (key : W512) (tweak : Nat) (d : List Byte) : List Byte :=
  let kb := (natLE 64 key.toNat).map (·.toNat)
  let k1 := aesKeys (kb.take 32)
  let k2 := aesKeys (kb.drop 32)
  let t := leNat ((aesEnc k2 ((natLE 16 tweak).map (·.toNat))).map (BitVec.ofNat 8))
  ((xtsGo (if enc then aesEnc k1 else aesDec k1) t (chunks 16 (d.map (·.toNat)))).flatten).map (BitVec.ofNat 8)

/-! ## CRC-32C -/

/-- One bit step of the reflected CRC-32C. -/
def crcStep (c : Nat) : Nat := if c % 2 = 1 then (c / 2) ^^^ 0x82F63B78 else c / 2

/-- CRC-32C (Castagnoli) of bytes. -/
def crc32c (d : List Byte) : W32 :=
  let c := d.foldl (fun c b =>
    let c := c ^^^ b.toNat
    crcStep (crcStep (crcStep (crcStep (crcStep (crcStep (crcStep (crcStep c)))))))) 0xFFFFFFFF
  BitVec.ofNat 32 (c ^^^ 0xFFFFFFFF)

end Sys2Proof.Machine
end

