-- ==== Sys2Proof/Machine/Ops.lean ====
section
/-! DEFINITION. Operations over the whole device shared by every family: units by index, MSI-X messages,
error records with their queues and latches (13), and the entry into a domain reset (R365). -/

namespace Sys2Proof.Machine

open Sys2Proof

/-! ## Units -/

/-- Core `c` of the device. -/
def getCore (s : State) (c : Nat) : Core := tget {} s.cores c

/-- Put core `c`. -/
def setCore (s : State) (c : Nat) (k : Core) : State := { s with cores := tset s.cores c k }

/-- Ring `r`. -/
def getRing (s : State) (r : Nat) : Ring := tget {} s.rings r

/-- Put ring `r`. -/
def setRing (s : State) (r : Nat) (x : Ring) : State := { s with rings := tset s.rings r x }

/-- Partition `p`. -/
def getPart (s : State) (p : Nat) : Part := tget {} s.parts p

/-- Put partition `p`. -/
def setPart (s : State) (p : Nat) (x : Part) : State := { s with parts := tset s.parts p x }

/-- The session record of index `i` (R141); an index never opened is FREE at generation 1. -/
def getSess (s : State) (i : Nat) : Sess := tget {} s.sess i

/-- Put the session record of index `i`. -/
def setSess (s : State) (i : Nat) (x : Sess) : State := { s with sess := tset s.sess i x }

/-- Key slot `k` (R230). -/
def getKey (s : State) (k : Nat) : KeySlot := tget {} s.keys k

/-- Put key slot `k`. -/
def setKey (s : State) (k : Nat) (x : KeySlot) : State := { s with keys := tset s.keys k x }

/-- Zhevlink port `p` (R310). -/
def getPort (s : State) (p : Nat) : Port := tget {} s.fab.ports p

/-- Put Zhevlink port `p`. -/
def setPort (s : State) (p : Nat) (x : Port) : State := { s with fab := { s.fab with ports := tset s.fab.ports p x } }

/-- Job entry `j` (R326). -/
def getJob (s : State) (j : Nat) : Job := tget {} s.fab.jobs j

/-- Put job entry `j`. -/
def setJob (s : State) (j : Nat) (x : Job) : State := { s with fab := { s.fab with jobs := tset s.fab.jobs j x } }

/-- A free value: the next index of the model's counter (log 5). -/
def freeNow (s : State) : Nat × State := (s.fresh, { s with fresh := s.fresh + 1 })

/-- Tiles of a partition: 1, 2, 4 or 8 (R224). -/
def tileCount (p : Part) : Nat := 2 ^ p.tiles.toNat

/-- Whether tile `t` lies in the partition's tile run (R223). -/
def hasTile (p : Part) (t : Nat) : Bool :=
  decide (p.tileBase.toNat ≤ t) && decide (t < p.tileBase.toNat + tileCount p)

/-- A partition entry that holds its tiles: SETTING_UP, READY, TEARING_DOWN, or FAULT reached from READY. -/
def partLive (p : Part) : Bool :=
  match p.st with
  | .off => false
  | .fault => p.fromReady
  | _ => true

/-- The partition that holds tile `t`. -/
def partOfTile (s : State) (t : Nat) : Option Nat :=
  (List.range 8).find? (fun n => let p := getPart s n; partLive p && hasTile p t)

/-- Fenced cores of DEV_FENCED: excluded by configuration, failed in self-test, or quarantined
(R352, R406, R437, R472). -/
def fenced (s : State) : W128 := s.dev.cfgGyv ||| s.dev.cfgDev ||| s.dev.stFenced ||| s.dev.quar

/-- Whether core `c` is fenced. -/
def isFenced (s : State) (c : Nat) : Bool := bit (fenced s) c

/-- The cores of a partition, tile by tile. -/
def partCores (p : Part) : List Nat := rangeFrom (p.tileBase.toNat * 16) (tileCount p * 16)

/-- The unfenced cores of a partition. -/
def liveCores (s : State) (p : Part) : List Nat := (partCores p).filter (fun c => !isFenced s c)

/-! ## MSI-X (R242, R258) -/

/-- Index of an MSI-X table entry in the device's tables. -/
def msixKey (fn vec : Nat) : Nat := fn * 32 + vec

/-- Send the message of a vector, or set its pending bit while it is masked (R258). -/
def sendMsix (s : State) (fn vec : Nat) : State :=
  let k := msixKey fn vec
  let e : MsixEntry := tget {} s.hif.msix k
  if e.mask then { s with hif := { s.hif with pba := addSorted k s.hif.pba } }
  else { s with hif := { s.hif with msgs := s.hif.msgs ++ [⟨fn, vec, e.addr, e.data⟩] } }

/-! ## Error records (R333 to R345) -/

/-- Unit type codes of R333. -/
def uCore : Byte := 0x01
def uTile : Byte := 0x02
def uWalker : Byte := 0x03
def uStack : Byte := 0x04
def uFar : Byte := 0x05
def uHub : Byte := 0x06
def uSep : Byte := 0x07
def uColl : Byte := 0x08
def uPort : Byte := 0x09
def uPcie : Byte := 0x0A
def uPower : Byte := 0x0B
def uMgc : Byte := 0x0C

/-- Severities (R333). -/
def sevCorrected : BitVec 2 := 0
def sevContained : BitVec 2 := 1
def sevDomain : BitVec 2 := 2
def sevDevice : BitVec 2 := 3

/-- Put record `r` in one queue (R339). -/
def enqueue (q : ErrQueue) (r : Rec) : ErrQueue :=
  if q.prod - q.cons < 256 then
    { q with prod := q.prod + 1, slots := tset q.slots (q.prod % 256) r }
  else
    -- the oldest unconsumed record of corrected severity
    match (rangeFrom q.cons 256).find? (fun i => (tget {} q.slots (i % 256)).sev == sevCorrected) with
    | none => { q with lost := q.lost + 1 }
    | some d =>
      -- every older record moves one slot on, the newest of them first
      let moved := ((List.range (d - q.cons)).map (fun k => d - k)).foldl
        (fun sl i => tset sl (i % 256) (tget {} sl ((i - 1) % 256))) q.slots
      { q with cons := q.cons + 1, prod := q.prod + 1, lost := q.lost + 1,
               slots := tset moved (q.prod % 256) r }

/-- The reading of a partition's temperature in isolation mode (R237): kept for a second, then taken anew in 1 °C steps. The die
temperature is a free value (log 5). -/
def readTemp (s : State) (p : Nat) : State × BitVec 12 :=
  match tfind s.err.temps p with
  | some (t, x) => if s.time.ftime < t + 1050000000 then (s, x) else again
  | none => again
where
  again : State × BitVec 12 :=
    let x := BitVec.ofNat 12 (Config.freeNat s.fresh) &&& ~~~3
    ({ s with fresh := s.fresh + 1, err := { s.err with temps := tset s.err.temps p (s.time.ftime, x) } }, x)

/-- The copy of a record in partition `p`'s queue in isolation mode (R334): the partition's own temperature reading, and no voltage. -/
def isolated (s : State) (p : Nat) (r : Rec) : State × Rec :=
  let x := readTemp s p
  (x.1, { r with temp := x.2, volt := 0 })

/-- The queues a record goes to (R338): 8 is the device queue. -/
def queuesOf (r : Rec) (wide : Bool) : List Nat :=
  if r.sev == sevDevice || wide then [8, 0, 1, 2, 3, 4, 5, 6, 7]
  else match r.part with
    | some p => [p]
    | none => [8]

/-- Append to an export list, keeping the last 4,096 (R340). -/
def exportRec (l : List Rec) (r : Rec) : List Rec := ((l ++ [r]).reverse.take 4096).reverse

/-- Put a finished record into its queues and the export, and signal it (R338 to R340). -/
def fileRec (s : State) (r : Rec) (wide : Bool) : State :=
  let s := (queuesOf r wide).foldl (fun s n =>
    let x := if s.dev.isolate && n != 8 then isolated s n r else (s, r)
    let e := x.1.err
    { x.1 with err := { e with queues := tset e.queues n (enqueue (tget {} e.queues n) x.2),
                               cper := tset e.cper n (exportRec (tget [] e.cper n) r) } }) s
  if s.err.irqEn && decide (s.err.irqSev.toNat ≤ r.sev.toNat) then
    sendMsix s 0 s.err.irqVec.toNat
  else s

/-- The reset domain a unit belongs to directly: core, tile or hub (R362). -/
def unitDomain (r : Rec) : Domain :=
  if r.unitType == uCore then .core r.unitId.toNat
  else if r.unitType == uTile || r.unitType == uWalker || r.unitType == uStack then .tile r.unitId.toNat
  else if r.unitType == uPower || r.unitType == uMgc || r.unitType == uPcie then .module
  else .hub

/-- Whether domain `d` lies within domain `e` or is `e` (R362). -/
def within (d e : Domain) : Bool :=
  match d, e with
  | _, .module => true
  | .module, _ => false
  | _, .device => true
  | .device, _ => false
  | .hub, .hub => true
  | .core c, .core k => c == k
  | .core c, .tile t => c / 16 == t
  | .tile t, .tile u => t == u
  | _, _ => false

/-- Whether domain `d` is covered by a reset under way (R344). -/
def underReset (s : State) (d : Domain) : Bool :=
  match d with
  | .module => false
  | _ => s.dev.recovery.any (fun r => within d r.dom)

/-- The latch of a unit (R344). -/
def latchOf (s : State) (ut : Byte) (ui : W16) : Option Latch :=
  s.err.latches.find? (fun l => l.unitType == ut && l.unitId == ui)

/-- Advance COUNT of the record with SEQ `n` wherever it stands (R344). -/
def bumpCount (s : State) (n : Nat) : State :=
  let f := fun (r : Rec) => if r.seq = n then { r with count := Nat.min (r.count + 1) (2 ^ 32 - 1) } else r
  { s with err := { s.err with
      queues := s.err.queues.map (fun e => (e.1, { e.2 with slots := e.2.slots.map (fun x => (x.1, f x.2)) })),
      cper := s.err.cper.map (fun e => (e.1, e.2.map f)) } }

/-- Generation tag of a domain (R363). -/
def domainTag (s : State) (d : Domain) : Byte :=
  match d with
  | .core c => (getCore s c).tag
  | .tile t => tget 0 s.dev.tileTags t
  | _ => s.dev.hubTag

/-- The code of a reset domain in DOMAIN (R333). -/
def domainCode (d : Domain) : BitVec 3 :=
  match d with
  | .core _ => 0
  | .tile _ => 1
  | .hub => 2
  | .device => 3
  | .module => 4

/-- The outcome of raising a record: the state, the record's SEQ, and whether the error is acted on. -/
structure Raised where
  st  : State
  seq : Nat
  act : Bool
  deriving DecidableEq, Repr

/-- Raise an error record (R333, R338, R344). The caller gives code, severity, unit, command and detail; SEQ,
FTIME, TEMP and VOLT, the latch and the queues are formed here; a queued error acts on no domain. `stops` says that a record of code 0 stops
a core (R344); `wide` that it reports a device-wide event (R338); `on` names the domain that the error resets, with its tag (R333, R363).
With DOMAIN 7 the tag is that of the unit's own domain (log 73). -/
def raise (s : State) (r : Rec) (stops : Bool := false) (wide : Bool := false) (on : Option Domain := none) : Raised :=
  let n := s.err.nextSeq
  let q := { r with queued := true, domain := 7, seq := n, ftime := s.time.ftime, gen := domainTag s (unitDomain r),
                    temp := BitVec.ofNat 12 (Config.freeNat s.fresh), volt := BitVec.ofNat 16 (Config.freeNat (s.fresh + 1)) }
  let r := { r with seq := n, ftime := s.time.ftime, gen := domainTag s (on.getD (unitDomain r)), domain := (on.map domainCode).getD r.domain,
                    temp := BitVec.ofNat 12 (Config.freeNat s.fresh), volt := BitVec.ofNat 16 (Config.freeNat (s.fresh + 1)) }
  let s := { s with fresh := s.fresh + 2, err := { s.err with nextSeq := n + 1 } }
  let latches := r.sev != sevCorrected && (r.code != 0 || stops)
  if underReset s (unitDomain r) then ⟨fileRec s q wide, n, false⟩
  else
    match latchOf s r.unitType r.unitId with
    | none =>
      let s := if !latches then s else { s with err := { s.err with latches := s.err.latches ++ [⟨r.unitType, r.unitId, r.sev, n⟩] } }
      ⟨fileRec s r wide, n, true⟩
    | some l =>
      if r.sev.toNat ≤ l.sev.toNat then
        ⟨fileRec (bumpCount s l.seq) q wide, n, false⟩
      else
        let ls := updFirst (fun x => x.unitType == r.unitType && x.unitId == r.unitId)
          (fun x => { x with sev := r.sev, seq := n }) s.err.latches
        let s := { s with err := { s.err with latches := ls } }
        ⟨fileRec s { r with esc := true, related := l.seq } wide, n, true⟩

/-- Raise a record and keep only the state. -/
def raise' (s : State) (r : Rec) : State := (raise s r).st

/-- Clear the latch that the record with SEQ `n` has set (R344). -/
def dropLatch (s : State) (n : Nat) : State := { s with err := { s.err with latches := s.err.latches.filter (fun l => l.seq != n) } }

/-- Raise a record of an error whose handling ends in the same step: its latch is cleared again (R344). -/
def raiseDone (s : State) (r : Rec) : State :=
  let x := raise s r
  dropLatch x.st x.seq

/-- Clear the latch of a unit (R344). -/
def clearLatch (s : State) (ut : Byte) (ui : W16) : State :=
  { s with err := { s.err with latches := s.err.latches.filter (fun l => !(l.unitType == ut && l.unitId == ui)) } }

/-- Clear the latches of every unit inside a domain. -/
def clearLatches (s : State) (d : Domain) : State :=
  { s with err := { s.err with latches := s.err.latches.filter (fun l =>
      !within (unitDomain { unitType := l.unitType, unitId := l.unitId }) d) } }

/-- A record with no named error, known by its syndrome (R335, R336): FIELD and ADDR of R337. -/
def synRec (syn : Nat) (part : Option Nat) (ut : Byte) (field addr : Nat) : Rec :=
  { code := 0, sev := sevContained, part := part, unitType := ut, syn := BitVec.ofNat 16 syn,
    detail := BitVec.ofNat 496 ((field % 65536) <<< 480) ||| BitVec.ofNat 496 ((addr % 2 ^ 64) <<< 416) }

/-- Device SEQ cut to the 24 bits of an ERR_REF (R333). -/
def errRef (n : Nat) : BitVec 24 := BitVec.ofNat 24 n

/-! ## Key state of frames -/

/-- Page frame table entry of a page frame number (R149). -/
def getFrame (s : State) (f : Nat) : Frame := tget {} s.mem.frames f

/-- Put a page frame table entry. -/
def setFrame (s : State) (f : Nat) (x : Frame) : State := { s with mem := { s.mem with frames := tset s.mem.frames f x } }

/-- First far page frame number (R218). -/
def farBase : Nat := 0x80000000

/-- Frames of one stack (R217). -/
def stackFrames : Nat := 0x120000

/-- Whether a page frame number lies in the far tier (R218). -/
def isFar (f : Nat) : Bool := decide (farBase ≤ f)

/-- The tile whose stack or far part holds a page frame (R217, R218). -/
def frameTile (f : Nat) : Nat := if isFar f then (f - farBase) / 0x200000 else f / stackFrames

/-- Session record frames of stack `t` (R219). -/
def sessFrames (t : Nat) : Nat := (782 + 7 - t) / 8

/-- Reserved frames of stack `t` (R480). -/
def reservedFrames (t : Nat) : Nat := (if t = 0 then 1 else 0) + 800 + 1600 + sessFrames t + Config.fwFrames.toNat

/-- First unreserved frame of stack `t` (R480). -/
def firstFrame (t : Nat) : Nat := t * stackFrames + reservedFrames t

/-- Whether a frame can be allocated: FREE and not withdrawn (R149, R343, R154). -/
def frameFree (s : State) (f : Nat) : Bool :=
  (getFrame s f).st == 0 && !s.dev.withdrawn.contains f

/-- Free frames in the range [lo, lo + n): the range less the table entries that are not free. -/
def freeIn (s : State) (lo n : Nat) : Nat :=
  let used := (s.mem.frames.filter (fun e => decide (lo ≤ e.1) && decide (e.1 < lo + n) && (e.2.st != 0))).length
  let gone := (s.dev.withdrawn.filter (fun f => decide (lo ≤ f) && decide (f < lo + n) && (getFrame s f).st == 0)).length
  n - used - gone

/-- The least free frame at or above `lo` in at most `n` tries (log 10). -/
def findFree (s : State) (lo : Nat) : Nat → Option Nat
  | 0 => none
  | n + 1 => if frameFree s lo then some lo else findFree s (lo + 1) n

/-- The least free near frame of stack `t` (log 10). -/
def freeNear (s : State) (t : Nat) : Option Nat :=
  let lo := firstFrame t
  let n := stackFrames - reservedFrames t
  if freeIn s lo n = 0 then none else findFree s lo (Nat.min n (s.mem.frames.length + s.dev.withdrawn.length + 1))

/-- The least free far frame of far part `k` (log 10). -/
def freeFar (s : State) (k : Nat) : Option Nat :=
  let lo := farBase + k * 0x100000
  if freeIn s lo 0x100000 = 0 then none else findFree s lo (Nat.min 0x100000 (s.mem.frames.length + s.dev.withdrawn.length + 1))

/-- Remove from a rising list every block of frame `f`. -/
def clearBlocks (w : List Nat) (f : Nat) : List Nat := w.filter (fun b => b / 256 != f)

/-- Allocate frame `f` (R149, R150): LIVE with one reference and a clear written-bitmap. -/
def allocFrame (s : State) (f : Nat) (kind part prot slot : Nat) : State :=
  let s := setFrame s f { refcnt := 1, kind := BitVec.ofNat 4 kind, st := 1, part := BitVec.ofNat 3 part,
                          prot := BitVec.ofNat 2 prot, keySlot := BitVec.ofNat 6 (if isFar f then slot else 0) }
  let s := { s with mem := { s.mem with written := clearBlocks s.mem.written f,
                                        bad := s.mem.bad } }
  if isFar f then
    let k := getKey s slot
    setKey s slot { k with frames := k.frames + 1 }
  else s

/-- Free a frame at once: it reaches FREE, leaves the count of its key slot, and a RETIRED slot whose
count comes to zero returns to EMPTY (R154, R232). -/
def freeFrame (s : State) (f : Nat) : State :=
  let x := getFrame s f
  let s := { s with mem := { s.mem with frames := tdel s.mem.frames f } }
  if isFar f then
    let k := getKey s x.keySlot.toNat
    let k := { k with frames := k.frames - 1 }
    let k := if k.st = .retired ∧ k.frames = 0 then ({} : KeySlot) else k
    setKey s x.keySlot.toNat k
  else s

end Sys2Proof.Machine
end

