-- ==== Sys2Proof/Machine/Mem.lean ====
section
/-! DEFINITION. Near and far memory (09): reads and writes under the written-bitmap, encryption of far
frames, line errors, partition addresses, epochs and reclaim, KV geometry, table blocks and page tables
(06). -/

namespace Sys2Proof.Machine

open Sys2Proof

/-! ## Frames as bytes -/

/-- Whether block `b` of frame `f` has been written since allocation (R150). -/
def isWritten (s : State) (f b : Nat) : Bool := s.mem.written.contains (f * 256 + b)

/-- XTS tweak of a far block (R231). -/
def farTweak (f b : Nat) : Nat := ((f - farBase) % 2 ^ 24) * 256 + b

/-- Byte address of a near frame in `near`, or of a far frame in `far` (R217, R218). -/
def frameAddr (f : Nat) : Nat := (if isFar f then f - farBase else f) * 65536

/-- The 256 bytes of block `b` of frame `f` as a reader sees them: zeros while its bit is clear, plaintext
under the frame's key slot in the far tier (R150, R231). -/
def readBlock (s : State) (f b : Nat) : List Byte :=
  if !isWritten s f b then List.replicate 256 0
  else if isFar f then
    xts false (getKey s (getFrame s f).keySlot.toNat).key (farTweak f b) (mreadN s.mem.far (frameAddr f + b * 256) 256)
  else mreadN s.mem.near (frameAddr f + b * 256) 256

/-- Lines of a block whose stored symbols are all good again after a write (R343). -/
def clearBad (t : Tbl Nat) (f lo hi : Nat) : Tbl Nat :=
  t.filter (fun e => !(e.1 / 1024 == f && decide (lo ≤ e.1 % 1024) && decide (e.1 % 1024 ≤ hi)))

/-- The armed memory injections that name near frame `f` and a line in [lo, hi] (R357). -/
def memInjections (s : State) (f lo hi : Nat) : List Inject :=
  s.err.armed.filter (fun i => i.kind == 3 && nbits i.target.toNat 46 23 == f &&
    decide (lo ≤ nbits i.target.toNat 22 13) && decide (nbits i.target.toNat 22 13 ≤ hi))

/-- An armed memory injection takes effect on its line of frame `f` (R357). -/
def injectLine (f : Nat) (s : State) (i : Inject) : State :=
  { s with err := { s.err with armed := s.err.armed.erase i },
           mem := { s.mem with bad := tset s.mem.bad (f * 1024 + nbits i.target.toNat 22 13) i.nsym.toNat } }

/-- What the link and on-die ECC of the far tier will meet in the lines [lo, hi] just written (R222): a free value for each line (log
99). -/
def farEvents (s : State) (f lo hi : Nat) : Tbl Nat :=
  (rangeFrom lo (hi + 1 - lo)).foldl (fun t l =>
    let n := Config.farFault s.fresh s.time.ftime (f * 1024 + l) % 3
    if n = 0 then t else tset t (f * 1024 + l) n) s.mem.bad

/-- Note a write of lines [lo, hi] of frame `f`: their errors go, and every armed injection on one of those
lines takes effect, once (R343, R357); a far line has what its ECC will meet (R222). -/
def touchLines (s : State) (f lo hi : Nat) : State :=
  let s := { s with mem := { s.mem with bad := clearBad s.mem.bad f lo hi } }
  if isFar f then { s with mem := { s.mem with bad := farEvents s f lo hi } } else (memInjections s f lo hi).foldl (injectLine f) s

/-- Note a write of `n` lines of frame `f` whose bytes nothing reads: the check lines of a strong group (R221). -/
def touchChecks (s : State) (f n : Nat) : State :=
  if n = 0 then s
  else touchLines { s with mem := { s.mem with written := (List.range (ceilDiv n 4)).foldl (fun w b => addSorted (f * 256 + b) w) s.mem.written } } f 0 (n - 1)

/-- Write bytes inside one 256 B block: the other bytes of a block whose bit is clear become zeros, so that all its lines are written
(R150). -/
def writeBlock (s : State) (f b o : Nat) (d : List Byte) : State :=
  let whole := !isWritten s f b
  let old := readBlock s f b
  let new := old.take o ++ d ++ old.drop (o + d.length)
  let a := frameAddr f + b * 256
  let m := s.mem
  let w := addSorted (f * 256 + b) m.written
  let s := if isFar f then
      { s with mem := { m with far := mwriteN m.far a (xts true (getKey s (getFrame s f).keySlot.toNat).key (farTweak f b) new), written := w } }
    else { s with mem := { m with near := mwriteN m.near a new, written := w } }
  if whole then touchLines s f (b * 4) (b * 4 + 3)
  else if d.isEmpty then s
  else touchLines s f ((b * 256 + o) / 64) ((b * 256 + o + d.length - 1) / 64)

/-- `len` bytes of frame `f` from byte `o`, within the frame. -/
def readFrame (s : State) (f o len : Nat) : List Byte :=
  if len = 0 then []
  else
    let b0 := o / 256
    let n := (o + len - 1) / 256 - b0 + 1
    (((rangeFrom b0 n).flatMap (readBlock s f)).drop (o - b0 * 256)).take len

/-- Write block by block from byte `o` of frame `f`. -/
def writeFrameGo (s : State) (f o : Nat) (d : List Byte) : Nat → State
  | 0 => s
  | k + 1 =>
    if d.isEmpty then s
    else
      let n := Nat.min (256 - o % 256) d.length
      writeFrameGo (writeBlock s f (o / 256) (o % 256) (d.take n)) f (o + n) (d.drop n) k

/-- Write bytes of frame `f` from byte `o`, within the frame. -/
def writeFrame (s : State) (f o : Nat) (d : List Byte) : State := writeFrameGo s f o d 257

/-- The written-bitmap of a frame as bit numbers (R150). -/
def frameBits (s : State) (f : Nat) : List Nat := (s.mem.written.filter (fun k => k / 256 == f)).map (· % 256)

/-! ## Line errors on reads (R220, R221, R343) -/

/-- The frames of the strong group that frame `f` lies in: its eight data frames and its check frame (R221). -/
def strongGroup (s : State) (f : Nat) : List Nat :=
  match (s.psets.flatMap (fun x => x.plates.map (·.2))).find? (fun p => p.frames.contains f || p.checks.contains f) with
  | none => []
  | some p =>
    let g := if p.frames.contains f then (p.frames.findIdx? (· == f)).getD 0 / 8 else (p.checks.findIdx? (· == f)).getD 0
    ((p.frames.drop (g * 8)).take 8) ++ ((p.checks.drop g).take 1)

/-- The other frames of a strong group (R221). -/
def strongPeers (s : State) (f : Nat) : List Nat := (strongGroup s f).filter (· != f)

/-- The channel of a line: that of the far frame's part (R218), or the one the interleave gives a near line, which it hides (R217);
the nine lines of a strong group at one offset lie on nine channels (R221). -/
def lineChannel (s : State) (f line : Nat) : Nat :=
  if isFar f then (f - farBase) >>> 20
  else match strongGroup s f with
    | [] => Config.lineChannel (f * 1024 + line) % 24
    | g => (Config.lineChannel (g.headD 0 * 1024 + line) + (g.findIdx? (· == f)).getD 0) % 24

/-- The record of a memory line error (R337). -/
def memRec (s : State) (code : W16) (f line syms : Nat) (syn : W16) : Rec :=
  let fr := getFrame s f
  let d := ((if isFar f then 1 else 0) <<< 495) + ((f % 2 ^ 24) <<< 471) + (line <<< 461) +
           (lineChannel s f line <<< 456) + (syms <<< 448) + (fr.kind.toNat <<< 444)
  { code := code, sev := if code == 0x0201 then sevCorrected else sevContained, part := some fr.part.toNat,
    unitType := if isFar f then uFar else uStack,
    unitId := BitVec.ofNat 16 (if isFar f then (f - farBase) >>> 20 else frameTile f), syn := syn, inj := true,
    detail := BitVec.ofNat 496 d }

/-- What a read of the lines [lo, hi] of frame `f` raises: corrected records, and the uncorrectable one if
there is one (R220, R221). Lines in blocks never written raise nothing (R150). -/
def lineErrors (s : State) (f lo hi : Nat) : List Rec × Option Rec :=
  (s.mem.bad.filter (fun e => e.1 / 1024 == f && decide (lo ≤ e.1 % 1024) && decide (e.1 % 1024 ≤ hi) && e.2 != 0 &&
      isWritten s f (e.1 % 1024 / 4))).foldl
    (fun acc e =>
      let line := e.1 % 1024
      let ue := e.2 == 2 || (decide (e.2 > 2) && Config.lineSeen s.fresh e.1)
      if !ue then (acc.1 ++ [memRec s 0x0201 f line e.2 0], acc.2)
      else if (getFrame s f).prot == 1 && !(strongPeers s f).any (fun g => decide (tget 0 s.mem.bad (g * 1024 + line) ≥ 2)) then
        (acc.1 ++ [memRec s 0x0201 f line e.2 0x000C], acc.2)
      else (acc.1, acc.2.orElse (fun _ => some (memRec s 0x0202 f line e.2 0)))) ([], none)

/-- Bytes of a line with three or more bad symbols that is delivered miscorrected are free (R220). -/
def miscorrect (s : State) (f o : Nat) (d : List Byte) : List Byte :=
  if s.mem.bad.any (fun e => e.1 / 1024 == f && decide (e.2 > 2)) then
    d.zipIdx.map (fun p => if decide (tget 0 s.mem.bad (f * 1024 + (o + p.2) / 64) > 2) &&
        !Config.lineSeen s.fresh (f * 1024 + (o + p.2) / 64) then
      Config.lineByte s.fresh (f * 65536 + o + p.2) else p.1)
  else d

/-- Bytes of a frame as a read delivers them (R220). -/
def readOut (s : State) (f o n : Nat) : List Byte := miscorrect s f o (readFrame s f o n)

/-- Copy the set blocks and the bitmap of frame `x` to frame `y` (R150). -/
def copyFrame (s : State) (x y : Nat) : State :=
  (frameBits s x).foldl (fun t b => writeBlock t y b 0 (miscorrect s x (b * 256) (readBlock t x b))) s

/-- Note a frame that raised E_MEM_UE: withdrawn when it reaches FREE (R343). -/
def withdraw (s : State) (f : Nat) : State := { s with dev := { s.dev with withdrawn := addSorted f s.dev.withdrawn } }

/-! ## Partition addresses (R228, R229) -/

/-- Where a partition address lies: a frame, or a page of the plate image that no plate covers (R295). -/
inductive PLoc where
  | frame (f : Nat)
  | zeros
  deriving DecidableEq, Repr, Inhabited

/-- Why a partition address is refused (R229). -/
inductive AddrErr where
  | outside
  | retired (slot : Nat)
  deriving DecidableEq, Repr, Inhabited

/-- A plate set of a partition by its 16-bit id. -/
def findSet (s : State) (p : Nat) (id : W16) : Option PlateSet := s.psets.find? (fun x => x.part == p && x.setId == id)

/-- IMAGE_PAGES of a set's manifest header (R294). -/
def imagePages (x : PlateSet) : Nat := bits x.header 447 416

/-- Pages of a plate: ceil(LENGTH / 64 KiB). -/
def platePages (p : Plate) : Nat := ceilDiv p.length 65536

/-- The frame that backs a page of a set's plate image, if a plate covers it. -/
def imageFrame (x : PlateSet) (page : Nat) : PLoc :=
  match x.plates.find? (fun e => decide (e.2.page ≤ page) && decide (page < e.2.page + platePages e.2)) with
  | none => .zeros
  | some e => match e.2.frames[page - e.2.page]? with
    | some f => .frame f
    | none => .zeros

/-- Resolve a partition address for an access that stays inside its page (R228, R229). -/
def resolve (s : State) (p : Nat) (pset : W16) (write : Bool) (a : Nat) : Except AddrErr PLoc :=
  let pt := getPart s p
  let page := nbits a 45 16
  if a ≥ 2 ^ 48 then .error .outside
  else match nbits a 47 46 with
    | 0 => match pt.nearPages[page]? with
      | some f => .ok (.frame f)
      | none => .error .outside
    | 1 =>
      if write then .error .outside
      else match findSet s p pset with
        | none => .error .outside
        | some x => if page < imagePages x then .ok (imageFrame x page) else .error .outside
    | 2 => match pt.farPages[page]? with
      | some f => if (getKey s pt.keySlot.toNat).st = .active then .ok (.frame f) else .error (.retired pt.keySlot.toNat)
      | none => .error .outside
    | _ => .error .outside

/-- Split an access of `len` bytes at `a` into parts that stay inside 64 KiB pages. -/
def pieces (a len : Nat) : List (Nat × Nat) :=
  if len = 0 then []
  else
    let n := (a + len - 1) / 65536 - a / 65536 + 1
    (List.range n).map (fun i =>
      let lo := if i = 0 then a else (a / 65536 + i) * 65536
      let hi := Nat.min (a + len) ((a / 65536 + i + 1) * 65536)
      (lo, hi - lo))

/-- What a partition access of many bytes gives: bytes, corrected records, and the first thing that stops it. -/
structure MemRead where
  bytes : List Byte := []
  ces   : List Rec := []
  ue    : Option (Rec × Nat) := none
  err   : Option AddrErr := none
  deriving DecidableEq, Repr, Inhabited

/-- Read `len` bytes at partition address `a` (R109, R228). -/
def readPart (s : State) (p : Nat) (pset : W16) (a len : Nat) : MemRead :=
  (pieces a len).foldl (fun acc pc =>
    if acc.err.isSome then acc
    else match resolve s p pset false pc.1 with
      | .error e => { acc with err := some e }
      | .ok .zeros => { acc with bytes := acc.bytes ++ List.replicate pc.2 0 }
      | .ok (.frame f) =>
        let o := pc.1 % 65536
        let le := lineErrors s f (o / 64) ((o + pc.2 - 1) / 64)
        { acc with bytes := acc.bytes ++ readOut s f o pc.2, ces := acc.ces ++ le.1,
                   ue := acc.ue.orElse (fun _ => le.2.map (fun r => (r, f))) }) {}

/-- The first refusal of a write of `len` bytes at `a`, if there is one (R229). -/
def writeErr (s : State) (p : Nat) (pset : W16) (a len : Nat) : Option AddrErr :=
  (pieces a len).findSome? (fun pc => match resolve s p pset true pc.1 with | .error e => some e | .ok _ => none)

/-- Write bytes at partition address `a`; parts that R229 refuses are left out. -/
def writePart (s : State) (p : Nat) (a : Nat) (d : List Byte) : State :=
  (pieces a d.length).foldl (fun s pc => match resolve s p 0 true pc.1 with
    | .ok (.frame f) => writeFrame s f (pc.1 % 65536) ((d.drop (pc.1 - a)).take pc.2)
    | _ => s) s

/-! ## Epochs and reclaim (R153, R154) -/

/-- Whether epoch `r` is at or before epoch `e` in the 16-bit window (R153). -/
def epochLe (r e : Nat) : Bool := decide ((e + 65536 - r % 65536) % 65536 < 32768)

/-- Whether epoch `e` of a partition is drained (R153). -/
def drained (p : Part) (e : Nat) : Bool := !p.running.any (fun x => epochLe x.2 e)

/-- The start of a step of partition `p` under identity `id` (R153): the counter advances after 50 µs
(52,500 ticks of fabric time), never 32,768 or more ahead of the oldest running epoch. -/
def startStep (s : State) (p id : Nat) : State :=
  let x := getPart s p
  let far := x.running.any (fun r => (x.epoch + 1 + 65536 - r.2) % 65536 ≥ 32768)
  let x := if s.time.ftime ≥ x.lastAdv + 52500 && !far then
      { x with epoch := (x.epoch + 1) % 65536, lastAdv := s.time.ftime } else x
  setPart s p { x with running := x.running ++ [(id, x.epoch)] }

/-- The end of a step (R153). -/
def endStep (s : State) (p id : Nat) : State :=
  let x := getPart s p
  setPart s p { x with running := x.running.filter (fun r => r.1 != id) }

/-- Identity of a copy of the page walker or the exposure copier, which begins and ends within a command's effect (R153). -/
def copyId : Nat := 2 ^ 128

/-- Identity of a kernel launch by its launch number (R153). -/
def launchStep (n : Nat) : Nat := 2 ^ 129 + n

/-- Identity of the transfer of a migration by its exposure (R153). -/
def transferStep (n : Nat) : Nat := 2 ^ 130 + n

/-- A copy begins: a copy-on-write, eviction, recall or exposure copy is a step (R153). -/
def beginCopy (s : State) (p : Nat) : State := startStep s p copyId

/-- A copy ends. -/
def endCopy (s : State) (p : Nat) : State := endStep s p copyId

/-- Give back a 1 KiB block of a block frame; a frame with no block in use is freed (R148, R154). -/
def freeBlock (s : State) (p a : Nat) : State :=
  if a = 0 then s
  else
    let f := nbits a 29 6
    let x := getPart s p
    let used := setBit (tget 0 x.blkFrames f) (a % 64) false
    if used = 0 then freeFrame (setPart s p { x with blkFrames := tdel x.blkFrames f }) f
    else setPart s p { x with blkFrames := tset x.blkFrames f used }

/-- Retire a block: free at once when its epoch is drained, else it waits (R154). -/
def retireBlock (s : State) (p a : Nat) : State :=
  if a = 0 then s
  else
    let x := getPart s p
    if drained x x.epoch then freeBlock s p a
    else setPart s p { x with retiring := x.retiring ++ [⟨0, some a, x.epoch⟩] }

/-- Retire a frame whose last reference is gone (R154). -/
def retireFrame (s : State) (p f : Nat) : State :=
  let x := getPart s p
  if drained x x.epoch then freeFrame s f
  else
    let s := setFrame s f { getFrame s f with st := 2, refcnt := 0, epoch := x.epoch }
    setPart s p { x with retiring := x.retiring ++ [⟨f, none, x.epoch⟩] }

/-- Drop one reference on a frame with summary block `sm` (R155). -/
def dropRef (s : State) (p f sm : Nat) : State :=
  let x := getFrame s f
  if x.refcnt ≤ 1 then retireBlock (retireFrame s p f) p sm
  else setFrame s f { x with refcnt := x.refcnt - 1, shr := true, epoch := (getPart s p).epoch }

/-- Add one reference on a frame. -/
def addRef (s : State) (f : Nat) : State :=
  let x := getFrame s f
  setFrame s f { x with refcnt := x.refcnt + 1 }

/-- Reclaim every RETIRING frame and block of a partition whose epoch is drained (R154). -/
def reclaim (s : State) (p : Nat) : State :=
  let x := getPart s p
  let go := x.retiring.filter (fun r => drained x r.epoch)
  let s := setPart s p { x with retiring := x.retiring.filter (fun r => !drained x r.epoch) }
  go.foldl (fun s r => match r.block with
    | some a => freeBlock s p a
    | none => freeFrame s r.frame) s

/-! ## Allocation in a partition -/

/-- A free near frame of the partition's stacks, the first stack with one (log 10). -/
def pickNear (s : State) (p : Nat) : Option Nat :=
  let x := getPart s p
  (rangeFrom x.tileBase.toNat (tileCount x)).findSome? (freeNear s)

/-- A free far frame of the partition's far parts (log 10). -/
def pickFar (s : State) (p : Nat) : Option Nat :=
  let x := getPart s p
  (rangeFrom (2 * x.tileBase.toNat) (2 * tileCount x)).findSome? (freeFar s)

/-- Free near frames of a partition. -/
def nearFree (s : State) (p : Nat) : Nat :=
  let x := getPart s p
  (rangeFrom x.tileBase.toNat (tileCount x)).foldl (fun n t => n + freeIn s (firstFrame t) (stackFrames - reservedFrames t)) 0

/-- Free far frames of a partition. -/
def farFree (s : State) (p : Nat) : Nat :=
  let x := getPart s p
  (rangeFrom (2 * x.tileBase.toNat) (2 * tileCount x)).foldl (fun n k => n + freeIn s (farBase + k * 0x100000) 0x100000) 0

/-- Allocate a near frame of a partition. -/
def newNear (s : State) (p kind prot : Nat) : Option (State × Nat) :=
  (pickNear s p).map (fun f => (allocFrame s f kind p prot 0, f))

/-- Allocate a far frame of a partition under a key slot (R161). -/
def newFar (s : State) (p kind slot : Nat) : Option (State × Nat) :=
  (pickFar s p).map (fun f => (allocFrame s f kind p 0 slot, f))

/-- The least clear bit of a 64-bit mask. -/
def firstClear (w : W64) : Option Nat := (List.range 64).find? (fun i => !bit w i)

/-- Allocate a 1 KiB block, in a block frame with room or in a new one (R148): its block address. -/
def newBlock (s : State) (p : Nat) : Option (State × Nat) :=
  let x := getPart s p
  let zero := fun (s : State) (f b : Nat) =>
    { s with mem := { s.mem with written := s.mem.written.filter (fun k => !(k / 256 == f && k % 256 / 4 == b)) } }
  match x.blkFrames.find? (fun e => e.2 != (0 - 1 : W64)) with
  | some (f, w) =>
    (firstClear w).map (fun b => (zero (setPart s p { x with blkFrames := tset x.blkFrames f (setBit w b true) }) f b, f * 64 + b))
  | none =>
    (newNear s p 2 0).map (fun (s, f) =>
      let x := getPart s p
      (setPart s p { x with blkFrames := tset x.blkFrames f 1 }, f * 64))

/-- Bytes of a block. -/
def readBlk (s : State) (a o n : Nat) : List Byte := readFrame s (nbits a 29 6) ((a % 64) * 1024 + o) n

/-- What a read of the line that holds byte `o` of a block raises (R220). -/
def blkErrors (s : State) (a o n : Nat) : List Rec × Option (Rec × Nat) :=
  let f := nbits a 29 6
  let e := lineErrors s f (a % 64 * 16 + o / 64) (a % 64 * 16 + (o + n - 1) / 64)
  (e.1, e.2.map (fun r => (r, f)))

/-- What two reads raise, one after the other. -/
def bothErrors (a b : List Rec × Option (Rec × Nat)) : List Rec × Option (Rec × Nat) := (a.1 ++ b.1, a.2.orElse (fun _ => b.2))

/-- A summary block as a read delivers it (R146, R220). -/
def readSum (s : State) (a : Nat) : List Byte := readOut s (nbits a 29 6) (a % 64 * 1024) 1024

/-- Write bytes of a block. -/
def writeBlk (s : State) (a o : Nat) (d : List Byte) : State := writeFrame s (nbits a 29 6) ((a % 64) * 1024 + o) d

/-! ## KV geometry and page tables (R143 to R148) -/

/-- The counts of a KV geometry record (R144). -/
structure Geo where
  p     : Nat
  nl    : Nat
  ng    : Nat
  hg    : Nat
  d     : Nat
  lg    : Nat
  nleaf : Nat
  kfmt  : Nat
  ks    : Nat
  vs    : Nat
  deriving DecidableEq, Repr, Inhabited

/-- The counts a geometry record encodes (R143, R144). -/
def geoOf (w : W128) : Geo :=
  { p := 16 * 2 ^ bits w 99 96, nl := bits w 95 84 + 1, ng := bits w 83 80 + 1, hg := bits w 79 72, d := bits w 71 64 + 1,
    lg := bits w 63 56 + 1, nleaf := bits w 55 48, kfmt := bits w 103 100, ks := bits w 111 104, vs := bits w 119 112 }

/-- Whether a geometry record meets R144. -/
def geoOk (w : W128) : Bool :=
  let g := geoOf w
  g.p * g.hg * g.d == 32768 && g.d % 32 == 0 && decide (ceilDiv g.nl g.lg ≤ 32) && decide (g.lg * g.ng * g.nleaf ≤ 256) &&
  bits w 127 120 == 0 && bits w 47 0 == 0 && (g.kfmt == 0 || g.kfmt == 1 || g.kfmt == 5) && decide (bits w 99 96 ≤ 4) &&
  g.hg != 0 && g.nleaf != 0

/-- G, the key width of a group (R145). -/
def Geo_width (g : Geo) : Nat := g.hg * g.d

/-- The geometry of a set that carries one (R479). -/
def setGeo (x : PlateSet) : Option Geo := if bits x.header 383 352 = 0 then none else some (geoOf x.geo)

/-- The geometry of a session's pinned set. -/
def sessGeo (s : State) (i : Nat) : Option Geo :=
  let x := getSess s i
  (findSet s x.part.toNat x.plateset).bind setGeo

/-- A page table entry (R148). -/
structure Pte where
  host : Bool
  sum  : Nat
  pfn  : Nat
  deriving DecidableEq, Repr, Inhabited

/-- The 64-bit word of a mapped entry (R148). -/
def pteWord (e : Pte) : Nat := 2 ^ 63 + (b2n e.host <<< 62) + ((e.sum % 2 ^ 30) <<< 32) + e.pfn % 2 ^ 32

/-- Where the entry of (layer, group, page index) stands: directory slot number in ROOT, entry in the
directory, entry in the leaf (R147). -/
def pteIndex (g : Geo) (l grp i : Nat) : Nat × Nat × Nat :=
  (l / g.lg, ((l % g.lg) * g.ng + grp) * g.nleaf + i / 128, i % 128)

/-- Whether (layer, group, page index) lies inside the geometry (R147). -/
def pteIn (g : Geo) (l grp i : Nat) : Bool := decide (l < g.nl) && decide (grp < g.ng) && decide (i < g.nleaf * 128)

/-- The leaf block of a page, 0 when there is none. -/
def leafOf (s : State) (x : Sess) (g : Geo) (l grp i : Nat) : Nat :=
  let (j, e, _) := pteIndex g l grp i
  let dir := (tget 0 x.root j).toNat
  if dir = 0 then 0 else leNat (readBlk s dir (4 * e) 4)

/-- What the page walker meets in the directory and leaf entries it reads on the way to a page (R147, R220). -/
def tableErrors (s : State) (x : Sess) (g : Geo) (l grp i : Nat) : List Rec × Option (Rec × Nat) :=
  let (j, e, k) := pteIndex g l grp i
  let dir := (tget 0 x.root j).toNat
  if !pteIn g l grp i || dir == 0 then ([], none)
  else
    let leaf := leafOf s x g l grp i
    bothErrors (blkErrors s dir (4 * e) 4) (if leaf = 0 then ([], none) else blkErrors s leaf (8 * k) 8)

/-- What the walks to many pages meet, each line once. -/
def tablesErrors (s : State) (x : Sess) (g : Geo) (ks : List (Nat × Nat × Nat)) : List Rec × Option (Rec × Nat) :=
  let e := ks.foldl (fun acc k => bothErrors acc (tableErrors s x g k.1 k.2.1 k.2.2)) ([], none)
  (e.1.eraseDups, e.2)

/-- Walk to the entry of (layer, group, page index) (R147). -/
def walk (s : State) (x : Sess) (g : Geo) (l grp i : Nat) : Option Pte :=
  if !pteIn g l grp i then none
  else
    let leaf := leafOf s x g l grp i
    if leaf = 0 then none
    else
      let w := leNat (readBlk s leaf (8 * (i % 128)) 8)
      if w.testBit 63 then some ⟨w.testBit 62, nbits w 61 32, nbits w 31 0⟩ else none

/-- Write the entry of a page whose leaf exists. -/
def setPte (s : State) (x : Sess) (g : Geo) (l grp i : Nat) (w : Nat) : State :=
  let leaf := leafOf s x g l grp i
  if leaf = 0 then s else writeBlk s leaf (8 * (i % 128)) (natLE 8 w)

/-- Make the directory and the leaf of a page exist (R152). -/
def ensureLeaf (s : State) (si : Nat) (g : Geo) (l grp i : Nat) : Option State :=
  let x := getSess s si
  let p := x.part.toNat
  let (j, e, _) := pteIndex g l grp i
  let mkDir : Option State :=
    if tget 0 x.root j != 0 then some s
    else (newBlock s p).map (fun (s, a) => setSess s si { getSess s si with root := tset x.root j (BitVec.ofNat 32 a) })
  mkDir.bind (fun s =>
    let dir := (tget 0 (getSess s si).root j).toNat
    if leNat (readBlk s dir (4 * e) 4) != 0 then some s
    else (newBlock s p).map (fun (s, a) => writeBlk s dir (4 * e) (natLE 4 a)))

/-- Map one page of a session at a new near frame, with a summary block when G ≤ 512 (R152). -/
def mapPage (s : State) (si : Nat) (g : Geo) (l grp i : Nat) : Option State :=
  let p := (getSess s si).part.toNat
  (ensureLeaf s si g l grp i).bind (fun s =>
    (newNear s p 1 0).bind (fun (s, f) =>
      let withSum : Option (State × Nat) := if Geo_width g ≤ 512 then newBlock s p else some (s, 0)
      withSum.map (fun (s, sm) =>
        let x := getSess s si
        setSess (setPte s x g l grp i (pteWord ⟨false, sm, f⟩)) si { x with pages := x.pages + 1 })))

/-- Every mapped page of a session: layer, group, page index and entry. -/
def mappedPages (s : State) (si : Nat) (g : Geo) : List ((Nat × Nat × Nat) × Pte) :=
  let x := getSess s si
  let n := g.nleaf * 128
  (List.range g.nl).flatMap (fun l => (List.range g.ng).flatMap (fun grp =>
    if (tget 0 x.root (l / g.lg)) = 0 then []
    else (List.range n).filterMap (fun i => (walk s x g l grp i).map (fun e => ((l, grp, i), e)))))

/-- Copy a summary block to a new block; 0 stays 0. -/
def copySummary (s : State) (p sm : Nat) : Option (State × Nat) :=
  if sm = 0 then some (s, 0)
  else (newBlock s p).map (fun (s, a) => (writeBlk s a 0 (readSum s sm), a))

/-- What a read of a summary block meets; 0 is none (R146, R220). -/
def sumErrors (s : State) (sm : Nat) : List Rec × Option (Rec × Nat) := if sm = 0 then ([], none) else blkErrors s sm 0 1024

/-- What the page walker meets when it reads a page of frame `f` and its summary block `sm` to copy them (R88, R220): the
corrected records, and the uncorrectable one with its frame. -/
def pageErrors (s : State) (f sm : Nat) : List Rec × Option (Rec × Nat) :=
  let x := lineErrors s f 0 1023
  bothErrors (x.1, x.2.map (fun r => (r, f))) (sumErrors s sm)

/-- Directory and leaf blocks of a session (R148). -/
def tableBlocks (s : State) (x : Sess) : List Nat :=
  x.root.flatMap (fun e =>
    let dir := e.2.toNat
    if dir = 0 then []
    else dir :: ((List.range 256).map (fun k => leNat (readBlk s dir (4 * k) 4))).filter (· != 0))

end Sys2Proof.Machine
end

