-- ==== Sys2Proof/Machine/Walker.lean ====
section
/-! DEFINITION. Host memory as the device reads and writes it, page records (R375, R376), and the page
walker's moves: recall, copy-on-write and eviction (R158, R161, R162). -/

namespace Sys2Proof.Machine

open Sys2Proof

/-! ## Host memory (R475, log 1) -/

/-- Whether a host read of [a, a + n) meets an unreadable range (R475). -/
def hostFails (s : State) (a n : Nat) : Bool := n != 0 && s.hif.hostBad.any (fun r => decide (r.lo < a + n) && decide (a < r.hi))

/-- A whole read of host memory, or nothing (R475). -/
def hostRead (s : State) (a n : Nat) : Option (List Byte) :=
  if hostFails s a n then none else some (mreadN s.hif.host a n)

/-- A write of host memory. -/
def hostWrite (s : State) (a : Nat) (d : List Byte) : State :=
  { s with hif := { s.hif with host := mwriteN s.hif.host a d } }

/-! ## Page records (R375 to R378) -/

/-- Bit numbers of a written-bitmap as its 256-bit word. -/
def bitsWord (bs : List Nat) : W256 := bs.foldl (fun w b => setBit w b true) 0

/-- Set bits of a 256-bit written-bitmap, rising. -/
def wordBits (w : W256) : List Nat := (List.range 256).filter (bit w)

/-- DIGEST of a record (R376). -/
def recDigest (id : W64) (bm : W256) (plain sum : List Byte) (sumv : Bool) : W256 :=
  sha3w (natLE 8 id.toNat ++ natLE 32 bm.toNat ++ plain ++ (if sumv then sum else []))

/-- XTS tweak of a host-image block (R231). -/
def hostTweak (handle : W32) (recNo blk : Nat) : Nat := 2 ^ 127 + (handle.toNat <<< 64) + (recNo <<< 8) + blk

/-- Encrypt or decrypt the set blocks of a record under the host-image tweak (R378). -/
def hostCrypt (enc : Bool) (key : W512) (handle : W32) (recNo : Nat) (bm : W256) (d : List Byte) : List Byte :=
  (List.zip (wordBits bm) (chunks 256 d)).flatMap (fun p => xts enc key (hostTweak handle recNo p.1) p.2)

/-- ID of a KV page record (R375). -/
def kvId (l grp i : Nat) : W64 := BitVec.ofNat 64 ((l <<< 48) + (grp <<< 40) + (i <<< 8))

/-- The plain page record of a frame and its summary block (R375). -/
def makeRec (s : State) (kind : Byte) (id : W64) (f sm : Nat) : PageRec :=
  let bs := frameBits s f
  let bm := bitsWord bs
  let plain := (wordBits bm).flatMap (fun b => readOut s f (b * 256) 256)
  let sum := if sm = 0 then [] else readSum s sm
  { digest := recDigest id bm plain sum (sm != 0), bitmap := bm, id := id, kind := kind, enc := false, sumv := sm != 0,
    summary := sum, payload := plain }

/-- Encrypt a record for host memory (R378). -/
def sealRec (key : W512) (handle : W32) (recNo : Nat) (r : PageRec) : PageRec :=
  { r with enc := true, payload := hostCrypt true key handle recNo r.bitmap r.payload }

/-- The plaintext of a record's set blocks. -/
def openRec (key : W512) (handle : W32) (recNo : Nat) (r : PageRec) : List Byte :=
  if r.enc then hostCrypt false key handle recNo r.bitmap r.payload else r.payload

/-- Whether the plaintext of a record matches its DIGEST (R376). -/
def recOk (r : PageRec) (plain : List Byte) : Bool := recDigest r.id r.bitmap plain r.summary r.sumv == r.digest

/-- The 128-byte page record header (R375). -/
def recHeader (r : PageRec) : List Byte :=
  natLE 128 ((r.digest.toNat <<< 768) + (r.bitmap.toNat <<< 512) + (r.id.toNat <<< 448) + (r.kind.toNat <<< 440) +
    (b2n r.enc <<< 439) + (b2n r.sumv <<< 438))

/-- The writes of a record placed at byte `a`: the 4 KiB header page, then the set blocks (R375). -/
def recWrites (a : Nat) (r : PageRec) : List (Nat × List Byte) :=
  (a, padTo 1024 (recHeader r) ++ padTo 1024 r.summary ++ List.replicate 2048 0) ::
  (List.zip (wordBits r.bitmap) (chunks 256 r.payload)).map (fun p => (a + 4096 + 256 * p.1, p.2))

/-- Write a record to host memory. -/
def writeRecHost (s : State) (a : Nat) (r : PageRec) : State := (recWrites a r).foldl (fun s w => hostWrite s w.1 w.2) s

/-- Read the pieces of a list one after the other, up to the first that fails. -/
def readEach {ε : Type} (f : Nat → Except ε (List Byte)) : List Nat → Except ε (List (List Byte))
  | [] => .ok []
  | b :: bs => match f b with
    | .error e => .error e
    | .ok d => match readEach f bs with
      | .error e => .error e
      | .ok ds => .ok (d :: ds)

/-- Read a record from bytes given by a reader of (offset, length) that may fail (R375). -/
def parseRecE {ε : Type} (rd : Nat → Nat → Except ε (List Byte)) (a : Nat) : Except ε PageRec :=
  match rd a 4096 with
  | .error e => .error e
  | .ok h =>
    let w := leNat (h.take 128)
    let bm : W256 := BitVec.ofNat 256 (nbits w 767 512)
    match readEach (fun b => rd (a + 4096 + 256 * b) 256) (wordBits bm) with
    | .error e => .error e
    | .ok bl => .ok { digest := BitVec.ofNat 256 (nbits w 1023 768), bitmap := bm, id := BitVec.ofNat 64 (nbits w 511 448),
                      kind := BitVec.ofNat 8 (nbits w 447 440), enc := w.testBit 439, sumv := w.testBit 438,
                      summary := if w.testBit 438 then (h.drop 1024).take 1024 else [], payload := bl.flatten }

/-- Read a record from bytes given by a reader of (offset, length). -/
def parseRec (rd : Nat → Nat → Option (List Byte)) (a : Nat) : Option PageRec :=
  match parseRecE (fun x n => match rd x n with | some d => Except.ok d | none => Except.error ()) a with
  | .ok r => some r
  | .error _ => none

/-- Read record `k` of a host image at `base` (R163). -/
def readRecHost (s : State) (base k : Nat) : Option PageRec := parseRec (hostRead s) (base + 69632 * k)

/-- Put a record's page into a fresh frame (R381). -/
def fillFrame (s : State) (f : Nat) (r : PageRec) (plain : List Byte) : State :=
  (List.zip (wordBits r.bitmap) (chunks 256 plain)).foldl (fun s p => writeBlock s f p.1 0 p.2) s

/-! ## Recall, copy-on-write, eviction -/

/-- Why the walker could not bring a page to near memory (R158, R162). -/
inductive WalkErr where
  | noFrame
  | digest
  | retired (slot : Nat)
  | line (ces : List Rec) (r : Rec) (frame : Nat)
  deriving DecidableEq, Repr, Inhabited

/-- The corrected lines met beside the uncorrectable one (R109). -/
def WalkErr.ces (e : WalkErr) : List Rec := match e with | .line cs _ _ => cs | _ => []

/-- The frame an uncorrectable line lies in is withdrawn once it is free (R343). -/
def noteWalk (e : WalkErr) (s : State) : State := match e with | .line _ _ f => withdraw s f | _ => s

/-- Lines the walker reads (R109): corrected errors are raised, an uncorrectable one ends its work. -/
def readLines (s : State) (e : List Rec × Option (Rec × Nat)) : Except WalkErr State :=
  match e.2 with
  | some (r, x) => .error (.line e.1 r x)
  | none => .ok (e.1.foldl raise' s)

/-- The lines of a page that the walker copies (R109). -/
def readToCopy (s : State) (f sm : Nat) : Except WalkErr State := readLines s (pageErrors s f sm)

/-- The handle of session index `i` (R139). -/
def handleOf (i : Nat) (x : Sess) : W32 := BitVec.ofNat 32 ((x.gen.toNat <<< 18) + i)

/-- Map a page at near frame `f` in place of its old entry: the summary goes to a new block, and the reference on the old frame is
dropped (R155, R158, R162). -/
def remap (s : State) (si : Nat) (g : Geo) (l grp i : Nat) (e : Pte) (f : Nat) : Except WalkErr (State × Nat) :=
  let p := (getSess s si).part.toNat
  match copySummary s p e.sum with
  | none => .error .noFrame
  | some (s, a) => .ok (dropRef (setPte s (getSess s si) g l grp i (pteWord ⟨false, a, f⟩)) p e.pfn e.sum, a)

/-- Copy a page to a new near frame and map it there: one step of the partition (R153, R158, R162). -/
def copyNear (s : State) (si : Nat) (g : Geo) (l grp i : Nat) (e : Pte) : Except WalkErr (State × Nat × Nat) :=
  let p := (getSess s si).part.toNat
  match readToCopy (beginCopy s p) e.pfn e.sum with
  | .error x => .error x
  | .ok s => match newNear s p 1 0 with
    | none => .error .noFrame
    | some (s, f) => match remap (copyFrame s e.pfn f) si g l grp i e f with
      | .error x => .error x
      | .ok (s, a) => .ok (endCopy s p, f, a)

/-- Bring a page of the host image to near memory (R162): it is checked against its digest before anything is mapped. -/
def recallHost (s : State) (si : Nat) (g : Geo) (l grp i : Nat) (e : Pte) : Except WalkErr State :=
  let x := getSess s si
  let p := x.part.toNat
  let key := getKey s x.keySlot.toNat
  if key.st ≠ .active then .error (.retired x.keySlot.toNat)
  else match readRecHost s x.hostImage.toNat e.pfn with
    | none => .error .digest
    | some r =>
      let plain := openRec key.key (handleOf si x) e.pfn r
      if !(recOk r plain) || r.id != kvId l grp i then .error .digest
      else match newNear (beginCopy s p) p 1 0 with
        | none => .error .noFrame
        | some (s, f) =>
          let s := fillFrame s f r plain
          let sm : Option (State × Nat) := if r.sumv then (newBlock s p).map (fun (s, a) => (writeBlk s a 0 r.summary, a)) else some (s, 0)
          match sm with
          | none => .error .noFrame
          | some (s, a) =>
            let s := setPte s (getSess s si) g l grp i (pteWord ⟨false, a, f⟩)
            let s := retireBlock s p e.sum
            let x := getSess s si
            .ok (endCopy (setSess s si { x with hostUsed := x.hostUsed.filter (· != e.pfn) }) p)

/-- Recall the page of a mapped entry to near memory (R162), after the walk to its entry (R147). A far page that LDKV meets is recalled
as R162 says, where R110 lets the hub read it in place (DEDUCED, log 89). -/
def recallPage (s : State) (si : Nat) (g : Geo) (l grp i : Nat) (e : Pte) : Except WalkErr State :=
  match readLines s (tableErrors s (getSess s si) g l grp i) with
  | .error x => .error x
  | .ok s =>
    if e.host then recallHost s si g l grp i e
    else if isFar e.pfn then
      let slot := (getFrame s e.pfn).keySlot.toNat
      if (getKey s slot).st ≠ .active then .error (.retired slot)
      else match copyNear s si g l grp i e with
        | .error x => .error x
        | .ok x => .ok x.1
    else .ok s

/-- Make the mapped page writable in place by this session: recall it, and copy it unless no other holder
or running step can still see it (R158). The frame and summary to write to. -/
def writablePage (s : State) (si : Nat) (g : Geo) (l grp i : Nat) (e : Pte) : Except WalkErr (State × Nat × Nat) :=
  match recallPage s si g l grp i e with
  | .error r => .error r
  | .ok s =>
    match walk s (getSess s si) g l grp i with
    | none => .error .noFrame
    | some e =>
      let fr := getFrame s e.pfn
      if fr.refcnt == 1 && (!fr.shr || drained (getPart s (getSess s si).part.toNat) fr.epoch) then
        .ok (setFrame s e.pfn { fr with shr := false }, e.pfn, e.sum)
      else copyNear s si g l grp i e

/-- Evict one page from near to far (R161). -/
def evictFar (s : State) (si : Nat) (g : Geo) (l grp i : Nat) (e : Pte) : Option State :=
  let x := getSess s si
  let p := x.part.toNat
  (newFar s p 1 x.keySlot.toNat).bind (fun (s, f) =>
    let s := copyFrame s e.pfn f
    (copySummary s p e.sum).map (fun (s, a) =>
      dropRef (setPte s (getSess s si) g l grp i (pteWord ⟨false, a, f⟩)) p e.pfn e.sum))

/-- The least record number a session's host image has free (R163). -/
def nextRec (x : Sess) : Nat := ((List.range (x.hostUsed.length + 1)).find? (fun k => !x.hostUsed.contains k)).getD 0

/-- Evict one page to the session's host image (R161); the first one sets HOST_IMAGE to `base` (R163). -/
def evictHost (s : State) (base : W64) (si : Nat) (g : Geo) (l grp i : Nat) (e : Pte) : Option State :=
  let x := getSess s si
  let p := x.part.toNat
  let image := if x.hostImage = 0 then base else x.hostImage
  let k := nextRec x
  let r := sealRec (getKey s x.keySlot.toNat).key (handleOf si x) k (makeRec s 1 (kvId l grp i) e.pfn e.sum)
  let s := writeRecHost s (image.toNat + 69632 * k) r
  (copySummary s p e.sum).map (fun (s, a) =>
    let s := setPte s (getSess s si) g l grp i (pteWord ⟨true, a, k⟩)
    let x := getSess s si
    dropRef (setSess s si { x with hostImage := image, hostUsed := addSorted k x.hostUsed }) p e.pfn e.sum)

/-- Make near working page `n` of a partition writable: a page an exposure still holds is copied to a new
frame of the same stack first (R373, R158). -/
def writableWork (s : State) (p n : Nat) : Option State :=
  let x := getPart s p
  match x.nearPages[n]? with
  | none => some s
  | some f =>
    let fr := getFrame s f
    if fr.refcnt ≤ 1 then some s
    else (freeNear s (frameTile f)).map (fun y =>
      let s := copyFrame (allocFrame (beginCopy s p) y 4 p 0 0) f y
      let x := getPart s p
      let s := setPart s p { x with nearPages := x.nearPages.set n y }
      endCopy (setFrame s f { getFrame s f with refcnt := (getFrame s f).refcnt - 1 }) p)

/-- What is met in the exposed working pages that a store of `n` bytes at `a` copies first (R373, R109). -/
def workErrors (s : State) (p a n : Nat) : List Rec × Option (Rec × Nat) :=
  ((pieces a n).filter (fun pc => nbits pc.1 47 46 == 0)).foldl (fun acc pc =>
    match (getPart s p).nearPages[nbits pc.1 45 16]? with
    | none => acc
    | some f =>
      if (getFrame s f).refcnt ≤ 1 then acc
      else
        bothErrors acc (pageErrors s f 0)) ([], none)

/-- Write bytes at a partition address, copying exposed near working pages first (R373). -/
def storePart (s : State) (p a : Nat) (d : List Byte) : Option State :=
  (((pieces a d.length).filter (fun pc => nbits pc.1 47 46 == 0)).foldl
    (fun (acc : Option State) pc => acc.bind (fun s => writableWork s p (nbits pc.1 45 16))) (some s)).map
      (fun s => writePart s p a d)

/-! ## Handles (R140) -/

/-- The index of a valid handle of partition `p` (R140); a shadow's handle is not one (R384). -/
def openHandle (s : State) (p : Nat) (h : W32) : Option Nat :=
  let i := bits h 17 0
  let x := getSess s i
  if i < 200000 ∧ x.st = .open_ ∧ x.gen.toNat = bits h 31 18 ∧ x.part.toNat = p ∧ x.shadow = false then some i else none

end Sys2Proof.Machine
end

