-- ==== Sys2Proof/Machine/Complete.lean ====
section
/-! DEFINITION. The journal and completions (R256 to R263), ring quiescing (R248), plate-set pins (R300),
and how a command ends when its work fails (R342). -/

namespace Sys2Proof.Machine

open Sys2Proof

/-- Completion status codes (R256). -/
def stOk : Byte := 0x00
def stRejected : Byte := 0x01
def stCancelled : Byte := 0x02
def stAborted : Byte := 0x03
def stDeadline : Byte := 0x04
def stPlateMissing : Byte := 0x05
def stPlateCorrupt : Byte := 0x06
def stFault : Byte := 0x07
def stMigrated : Byte := 0x08
def stShapeZero : Byte := 0x09

/-- Ring classes (R245). -/
def clsOpen : BitVec 2 := 0
def clsTimed : BitVec 2 := 1
def clsFixed : BitVec 2 := 2

/-- Entries of a ring: 2^LOG2SIZE (R245). -/
def ringSize (r : Ring) : Nat := 2 ^ r.log2size.toNat

/-- Entries of a ring's journal (R245): JLOG2 0 selects 256. -/
def journalSize (r : Ring) : Nat := if r.jlog2 = 0 then 256 else 2 ^ r.jlog2.toNat

/-- NEXT_SEQ of a ring (R252): adopted commands take sequence numbers too (R388, log 29). -/
def nextSeq (r : Ring) : Nat := (r.seqBase.toNat + r.fetched + r.adopt) % 2 ^ 64

/-- The accepted command of (ring, sequence number). -/
def findCmd (s : State) (r q : Nat) : Option Cmd := s.cmds.find? (fun c => c.ring == r && c.seq == q)

/-- Replace the accepted command of (ring, sequence number). -/
def updCmd (s : State) (r q : Nat) (f : Cmd → Cmd) : State :=
  { s with cmds := updFirst (fun c => c.ring == r && c.seq == q) f s.cmds }

/-- The journal entry that sequence number `q` would occupy (R262). -/
def journalAt (x : Ring) (q : Nat) : JEntry := tget {} x.journal (q % journalSize x)

/-- Change the journal entry of a command. -/
def updJournal (s : State) (r q : Nat) (f : JEntry → JEntry) : State :=
  let x := getRing s r
  setRing s r { x with journal := tset x.journal (q % journalSize x) (f (journalAt x q)) }

/-- A command moves to STARTED (R263). -/
def startCmd (s : State) (r q : Nat) : State :=
  let s := updCmd s r q (fun c => { c with started := true, moved := s.time.ftime })
  let s := updJournal s r q (fun j => if j.st = .accepted then { j with st := .started } else j)
  let x := getRing s r
  setRing s r { x with moved := s.time.ftime }

/-- What a command ends with. -/
structure Done where
  status : Byte
  result : Nat := 0
  route  : Bool := false
  proof  : Bool := false
  degr   : Bool := false
  err    : BitVec 24 := 0
  deriving DecidableEq, Repr, Inhabited

/-- The 32 bytes of a completion (R256). -/
def completionBytes (x : Ring) (r q : Nat) (d : Done) : List Byte :=
  let phase := if (x.written >>> x.log2size.toNat) % 2 = 0 then 1 else 0
  natLE 32 ((phase <<< 255) + (d.status.toNat <<< 240) + (b2n d.degr <<< 239) + (b2n d.proof <<< 238) +
    (b2n d.route <<< 237) + (r <<< 217) + (d.err.toNat <<< 192) + ((q % 2 ^ 64) <<< 128) + d.result % 2 ^ 128)

/-- The moderation of R258 after a completion: count it, and send the message when a bound is met. -/
def signalRing (s : State) (r : Nat) (irq : Bool) : State :=
  let x := getRing s r
  if !x.ien || x.mute then s
  else
    let n := x.pendCnt + 1
    let at_ := if x.pendCnt = 0 then s.time.ftime else x.pendAt
    if irq || decide (n ≥ Nat.max 1 x.ccount.toNat) then
      sendMsix (setRing s r { x with pendCnt := 0 }) x.func.toNat x.vector.toNat
    else setRing s r { x with pendCnt := n, pendAt := at_ }

/-- A QUIESCING ring whose last accepted command has ended becomes OFF (R248). -/
def settleRing (s : State) (r : Nat) : State :=
  let x := getRing s r
  if x.st = .quiescing && !s.cmds.any (fun c => c.ring == r) then
    setRing s r { x with st := .off, enable := false, lastNext := nextSeq x }
  else s

/-! ## Plate-set pins (R300) -/

/-- Whether a session or an accepted command still pins the set (R300). -/
def pinned (s : State) (x : PlateSet) : Bool :=
  s.sess.any (fun e => (e.2.st == .open_ || e.2.st == .fenced) && e.2.part.toNat == x.part && e.2.plateset == x.setId) ||
  s.cmds.any (fun c => c.part == x.part && c.pin == some x.setId)

/-- Frames of a plate set: data and check frames of every plate. -/
def setFrames (x : PlateSet) : List Nat := x.plates.flatMap (fun e => e.2.frames ++ e.2.checks)

/-- Free a plate set: its frames retire under R154 and the set is no longer resident (R300). -/
def freeSet (s : State) (x : PlateSet) : State :=
  let s := (setFrames x).foldl (fun s f => retireFrame s x.part f) s
  { s with psets := s.psets.filter (fun y => !(y.part == x.part && y.setId == x.setId)) }

/-- Free every RETIRED or BROKEN set that no pin holds (R300). -/
def sweepSets (s : State) : State :=
  (s.psets.filter (fun x => (x.st == .retired || x.st == .broken) && !pinned s x)).foldl freeSet s

/-! ## Completion -/

/-- The plate set a command pins; 0 where it pins none. -/
def Cmd.set (c : Cmd) : W16 := c.pin.getD 0

/-- Command code of an accepted descriptor (R249). -/
def opcodeOf (c : Cmd) : Nat := bits c.desc 127 120

/-- The session handle a command names: HANDLE or PARENT, and HANDLE of the launch block of KERNEL_RUN. -/
def handleIn (c : Cmd) : Option W32 :=
  let op := opcodeOf c
  if c.adopted.isSome then some c.handle
  else if ([0x02, 0x03, 0x04, 0x05, 0x06, 0x07, 0x32] : List Nat).contains op then some (BitVec.ofNat 32 (bits c.desc 511 480))
  else if op = 0x30 then (let h := bits c.desc 511 480; if h = 0 then none else some (BitVec.ofNat 32 h))
  else if op = 0x20 then (let h := leNat ((c.launchBlk.drop 12).take 4); if h = 0 then none else some (BitVec.ofNat 32 h))
  else none

/-- Whether a completion carries DEGRADED (R287): its session, the one it names or the one it has opened, is a
degraded Fixed session. -/
def degradedCmd (s : State) (c : Cmd) : Bool :=
  let h := if c.handle != 0 then some c.handle else handleIn c
  match h with
  | none => false
  | some h =>
    let x := getSess s (bits h 17 0)
    x.degraded && x.cls == clsFixed && x.st != .free && x.gen.toNat == bits h 31 18 && x.part.toNat == c.part

/-- The hub's latch is cleared once the command that its record ended has its status (R344). -/
def endHandling (s : State) (e : BitVec 24) : State :=
  if e = 0 then s
  else { s with err := { s.err with latches := s.err.latches.filter (fun l => !(l.unitType == uHub && errRef l.seq == e)) } }

/-- Whether a session is paired with a partner that serves it (R383). -/
def paired (x : Sess) : Bool := x.pstate == 1 && !x.shadow

/-- A Fixed step put back for its replay (R286): nothing of the run that failed counts for the next one. -/
def replayed (y : StepRec) : StepRec :=
  { y with phase := .gather, suspect := false, proven := false, acked := false, runs := [], partnerDig := none, shares := [], writes := [],
           inputs := [], runInj := false, replays := y.replays + 1 }

/-- The scratch frames of a step's rotated run are given back (R348). -/
def freeScratch (s : State) (r q : Nat) : State :=
  match s.steps.find? (fun x => x.ring == r && x.seq == q) with
  | none => s
  | some st => st.scratch.foldl (fun s f => retireFrame s st.part f)
      { s with steps := updFirst (fun x => x.ring == r && x.seq == q) (fun y => { y with scratch := [] }) s.steps }

/-- Add to what a DRAIN under way in partition `p` counts (R283). -/
def noteDrain (s : State) (p n : Nat) : State :=
  { s with cmds := updAll (fun k => k.part == p && k.wait == .drain) (fun k => { k with res := k.res + n }) s.cmds }

/-- Whether a partition refuses new work (R283): a DRAIN has begun, or one that begins it is accepted and has not been cancelled. -/
def refusesWork (s : State) (p : Nat) : Bool :=
  (getPart s p).draining || s.cmds.any (fun c => c.part == p && opcodeOf c == 0x43 && bits c.desc 511 510 != 3)

/-- When a gather window of a partition that opens now closes, plus 1 (R179, R292). -/
def gatherEnd (s : State) (x : Part) : Nat := s.time.ftime + Nat.min 1000 x.gatherUs.toNat * 1050 + 1

/-- Whether an admitted Timed command is still not released 2 µs before its deadline (R290). -/
def lateCmd (s : State) (c : Cmd) : Bool := c.timed && decide (bits c.desc 63 0 ≤ s.time.ftime + 2100)

/-- What a command ends with at its deadline: an admitted Timed command whose work or failure comes too late is DEADLINE_FAIL (R290). -/
def byDeadline (s : State) (c : Cmd) (d : Done) : Done :=
  if lateCmd s c && d.status != stCancelled && d.status != stAborted && d.status != stDeadline then
    { d with status := stDeadline, result := 0, route := false, proof := false } else d

/-- What a command ends with in all: its status by the deadline, its first record and DEGRADED (R287, R290, R342). -/
def doneOf (s : State) (c : Cmd) (d : Done) : Done :=
  let d := byDeadline s c d
  { d with err := if c.errRef != 0 then c.errRef else d.err, degr := c.degr || degradedCmd s c }

/-- Whether a status ends a command COMPLETED (R262). -/
def endsWell (status : Byte) : Bool := status == stOk || status == stMigrated || status == stShapeZero

/-- Write the end of a command: journal first, then its completion, then the message (R256, R259, R262). -/
def writeEnd (s : State) (c : Cmd) (r q : Nat) (d : Done) : State :=
  let s := updJournal s r q (fun j =>
    { j with st := if endsWell d.status then .completed else .failed, status := d.status, result := BitVec.ofNat 128 d.result,
             ended := s.time.ftime, degr := d.degr, proof := d.proof, route := d.route, errRef := d.err })
  let x := getRing s r
  let s := if x.mute then s
    else hostWrite s (x.cqBase.toNat + 32 * (x.written % ringSize x)) (completionBytes x r q d)
  let n := if x.mute then x.written else x.written + 1
  signalRing (setRing s r { x with written := n, moved := if c.started then s.time.ftime else x.moved }) r c.irq

/-- Take a command out of what is accepted, with its step. -/
def dropCmd (s : State) (r q : Nat) : State :=
  { s with cmds := s.cmds.filter (fun k => !(k.ring == r && k.seq == q)),
           steps := s.steps.filter (fun k => !(k.ring == r && k.seq == q)) }

/-- A Timed command that ends counts into a DRAIN under way (R283). -/
def noteTimed (s : State) (c : Cmd) (d : Done) : State :=
  if c.cls == clsTimed && d.status != stCancelled then noteDrain s c.part (2 ^ 64) else s

/-- End an accepted command (R256, R259, R262). -/
def complete (s : State) (r q : Nat) (d : Done) : State :=
  match findCmd s r q with
  | none => s
  | some c =>
    let d := doneOf s c d
    endHandling (sweepSets (settleRing (dropCmd (noteTimed (writeEnd (freeScratch s r q) c r q d) c d) r q) r)) c.errRef

/-- End a command with a status and nothing else. -/
def finish (s : State) (r q : Nat) (status : Byte) : State := complete s r q { status := status }

/-- Raise a record about a command. -/
def raiseCmd (s : State) (c : Cmd) (r : Rec) : State × Nat :=
  let x := raise s { r with part := some c.part, cmd := some (c.ring, c.seq) }
  (updCmd x.st c.ring c.seq (fun k => if k.errRef = 0 then { k with errRef := errRef x.seq } else k), x.seq)

/-- Raise a record about a command, whose handling ends in the same step (R344). -/
def raiseCmdDone (s : State) (c : Cmd) (r : Rec) : State × Nat :=
  let x := raiseCmd s c r
  (dropLatch x.1 x.2, x.2)

/-- Complete a command FAULT with a record known by its syndrome (R251, R336). -/
def faultCmd (s : State) (c : Cmd) (syn field addr : Nat) : State :=
  finish (raiseCmd s c (synRec syn (some c.part) uHub field addr)).1 c.ring c.seq stFault

/-- Complete a command FAULT with a record that names no field. -/
def faultSyn (s : State) (c : Cmd) (syn : Nat) : State := faultCmd s c syn 0 0

/-- Note the first error record of a command (R342). -/
def noteErr (s : State) (r q n : Nat) : State :=
  updCmd s r q (fun k => if k.errRef = 0 then { k with errRef := errRef n } else k)

/-- The step of a command, if one is under way. -/
def findStep (s : State) (r q : Nat) : Option StepRec := s.steps.find? (fun x => x.ring == r && x.seq == q)

/-- Change the step of a command. -/
def updStep (s : State) (r q : Nat) (f : StepRec → StepRec) : State :=
  { s with steps := updFirst (fun x => x.ring == r && x.seq == q) f s.steps }

/-- Add entries to the input logs of armed steps (R348). -/
def logInputs (s : State) (ks : List (Nat × Nat)) (xs : List StepInput) : State :=
  ks.foldl (fun s k => updStep s k.1 k.2 (fun y => if y.armed then { y with inputs := y.inputs ++ xs } else y)) s

/-- A command whose work failed ends by the class of its ring (R342): Open and Timed FAULT; a Fixed step goes
back to be replayed, and its result is not used. -/
def failCmd (s : State) (r q n : Nat) (status : Byte) : State :=
  match findCmd s r q with
  | none => s
  | some c =>
    if c.cls == clsFixed then updStep s r q replayed
    else complete (noteErr s r q n) r q { status := status }

/-- Fields of a descriptor. -/
def dfield (c : Cmd) (hi lo : Nat) : Nat := bits c.desc hi lo

/-- The most significant bit of the highest nonzero range among reserved ranges (R251, R96). -/
def badBits (w : Nat) (rs : List (Nat × Nat)) : Option Nat :=
  (rs.filterMap (fun p => if nbits w p.1 p.2 != 0 then some p.1 else none)).foldl
    (fun acc h => match acc with | none => some h | some a => some (Nat.max a h)) none

end Sys2Proof.Machine
end

