-- ==== Sys2Proof/Machine/Frames.lean ====
section
/-! DEFINITION. The bit stream of a port (R308, R312): the bytes of a flit, the RS(544,514) codewords of a frame, and the lanes
that carry its symbols. -/

namespace Sys2Proof.Machine

open Sys2Proof

/-! ## Flits (R312) -/

/-- Bytes 0 to 251 of a data flit (R312), over which its CRC is formed. -/
def flitBytes (f : Flit) : List Byte :=
  natLE 8 ((1 <<< 62) + (f.vc.toNat <<< 60) + (b2n f.sop <<< 59) + (b2n f.eop <<< 58) + (f.nb.toNat <<< 50) + (f.seq.toNat <<< 38)) ++
  padTo 240 f.payload ++
  natLE 4 ((f.ack.toNat <<< 20) + (b2n f.ackv <<< 19) + (f.cvc.toNat <<< 17) + (f.credits.toNat <<< 9))

/-- A whole flit: bytes 0 to 251 and their CRC (R312). -/
def withCrc (d : List Byte) : List Byte := d ++ natLE 4 (crc32c d).toNat

/-- An idle flit (R312): an acknowledgement and the credits of a virtual channel. -/
def idleBytes (ackv : Bool) (ack : BitVec 12) (vc credits : Nat) : List Byte :=
  withCrc (List.replicate 248 (0 : Byte) ++ natLE 4 ((ack.toNat <<< 20) + (b2n ackv <<< 19) + (vc % 4 <<< 17) + (credits % 256 <<< 9)))

/-- A link control flit (R312): its code in payload byte 0, then its content, of which the manual gives no layout (log 28). -/
def controlBytes (code : Byte) (fresh : Nat) : List Byte :=
  withCrc (natLE 8 (2 <<< 62) ++ padTo 240 (code :: Config.wireBytes fresh) ++ List.replicate 4 0)

/-- The bytes of what a port sends beside data flits; the training exchange of NEGOTIATE is no flit (R310). -/
def linkBytes (fresh : Nat) : TxLink → Option (Nat × List Byte)
  | .nak p _ => some (p, controlBytes 0x01 fresh)
  | .timeReq p => some (p, withCrc (natLE 8 (2 <<< 62) ++ padTo 240 [0x02] ++ List.replicate 4 0))
  | .timeRsp p _ _ _ _ => some (p, controlBytes 0x03 fresh)
  | .retrainReq p => some (p, controlBytes 0x04 fresh)
  | .creditInit p _ => some (p, controlBytes 0x05 fresh)
  | .idle p a v n => some (p, idleBytes true a v n)
  | .negotiate _ _ _ _ => none

/-! ## RS(544,514) of IEEE Std 802.3 (R308, log 94) -/

/-- A symbol times x in GF(2¹⁰), modulo x¹⁰ + x³ + 1. -/
def gfDouble (a : BitVec 10) : BitVec 10 := if a.msb then (a <<< 1) ^^^ 0x009 else a <<< 1

/-- A product in GF(2¹⁰). -/
def gfMul (a b : BitVec 10) : BitVec 10 :=
  (List.range 10).foldl (fun acc i => gfDouble acc ^^^ (if b.getLsbD (9 - i) then a else 0)) 0

/-- The coefficients of a polynomial times x + r, from the highest. -/
def timesRoot (g : List (BitVec 10)) (r : BitVec 10) : List (BitVec 10) := List.zipWith (· ^^^ ·) (g ++ [0]) (0 :: g.map (gfMul r))

/-- The generator of the code, with the roots 1, x, …, x²⁹: its coefficients from the highest, which is 1. -/
def rsGenerator : List (BitVec 10) :=
  ((List.range 30).foldl (fun (x : List (BitVec 10) × BitVec 10) _ => (timesRoot x.1 x.2, gfDouble x.2)) ([1], 1)).1

/-- The 30 parity symbols of a message: the remainder of its polynomial times x³⁰. -/
def rsParity (m : List (BitVec 10)) : List (BitVec 10) :=
  let g := rsGenerator.drop 1
  m.foldl (fun r d =>
    let f := d ^^^ r.headD 0
    List.zipWith (· ^^^ ·) (r.drop 1 ++ [0]) (g.map (gfMul f))) (List.replicate 30 0)

/-- A codeword: 514 message symbols and their parity. -/
def codeword (m : List (BitVec 10)) : List (BitVec 10) := m ++ rsParity m

/-! ## Frames (R308) -/

/-- The 1,028 data symbols of a frame: the 40-bit marker and five flits. -/
def frameData (flits : List (List Byte)) : List (BitVec 10) :=
  let n := leNat (natLE 5 Config.frameMarker.toNat ++ flits.flatten)
  (List.range 1028).map (fun i => BitVec.ofNat 10 (n / 2 ^ (10 * i)))

/-- Every second element, from the first. -/
def evens {α : Type} : List α → List α
  | [] => []
  | [a] => [a]
  | a :: _ :: t => a :: evens t

/-- The 1,088 symbols of a frame (R308): two codewords that interleave symbol by symbol, starting with codeword 0. -/
def frameSymbols (flits : List (List Byte)) : List (BitVec 10) :=
  let d := frameData flits
  ((codeword (evens d)).zip (codeword (evens (d.drop 1)))).flatMap (fun x => [x.1, x.2])

/-- The active lanes of a port, in order. -/
def activeLanes (x : Port) : List Nat := (List.range 8).filter (bit x.lanes)

/-- The frame of five flits on the active lanes (R308): symbol j on active lane j mod nl. -/
def frameOf (p : Nat) (lanes : List Nat) (flits : List (List Byte)) : LinkFrame :=
  let sy := frameSymbols flits
  { port := p, lanes := lanes.zipIdx.map (fun l => (l.1, (sy.zipIdx.filter (fun e => e.2 % lanes.length == l.2)).map (·.1))) }

/-- Send flits on a port in frames of five, the last filled with idle flits (R308, log 94). -/
def sendFrames (s : State) (p : Nat) (flits : List (List Byte)) : State :=
  let lanes := activeLanes (getPort s p)
  let fs := (chunks 5 flits).map (fun c => frameOf p lanes (c ++ List.replicate (5 - c.length) (idleBytes false 0 0 0)))
  { s with fab := { s.fab with frames := s.fab.frames ++ fs } }

end Sys2Proof.Machine
end

