-- ==== Sys2Proof/Machine/Wire.lean ====
section
/-! DEFINITION. Packets as flits on a port (R312 to R315): the bytes of a packet, its flits, virtual channels,
credits and the replay buffer of a sender, the shares of the partitions (R321), and the path of a channel (R319). -/

namespace Sys2Proof.Machine

open Sys2Proof

/-- Packet kinds (R315). -/
def pkWrite : Byte := 0x01
def pkReadReq : Byte := 0x02
def pkReadRsp : Byte := 0x03
def pkMessage : Byte := 0x04
def pkAck : Byte := 0x05
def pkCollective : Byte := 0x06
def pkOpen : Byte := 0x07
def pkStop : Byte := 0x08
def pkMove : Byte := 0x09
def pkPlateReq : Byte := 0x0A
def pkPlateRsp : Byte := 0x0B

/-- Channel uses (R315), with stream 0. -/
def chSep : W16 := 0x0000
def chColl : W16 := 0x1000
def chExp : W16 := 0x2000
def chPlate : W16 := 0x3000
def chMem : W16 := 0x4000
def chJob : W16 := 0x5000

/-! ## Paths (R319) -/

/-- Planes with a live port, in order (R319): port p lies on plane p / 2. -/
def livePlanes (s : State) : List Nat :=
  [0, 1, 2].filter (fun pl => (getPort s (2 * pl)).st == .active || (getPort s (2 * pl + 1)).st == .active)

/-- The live ports of a plane, in order. -/
def livePorts (s : State) (pl : Nat) : List Nat := [2 * pl, 2 * pl + 1].filter (fun p => (getPort s p).st == .active)

/-- The path of a channel (R319). -/
def pathOf (s : State) (dst ch : W16) : Option Nat :=
  let lp := livePlanes s
  if lp.isEmpty then none
  else
    let x := (dst ^^^ ch).toNat
    match livePorts s (nth 0 lp (x % lp.length)) with
    | [a, b] => some (if x / lp.length % 2 = 0 then a else b)
    | a :: _ => some a
    | [] => none

/-! ## Packets as bytes (R315) -/

/-- The 32 bytes of a Separator header (R197). -/
def sepHdrBytes (kind : Byte) (src dst : W16) (nlocal : Nat) (h : SepHdr) : List Byte :=
  natLE 32 ((h.tag.toNat <<< 240) + (h.layer.toNat <<< 224) + (src.toNat <<< 208) + (dst.toNat <<< 192) + (kind.toNat <<< 184) +
    (h.status.toNat <<< 176) + (h.gen.toNat <<< 168) + (h.msgIndex.toNat <<< 144) + (h.msgCount.toNat <<< 128) + (h.nrows.toNat <<< 112) +
    ((nlocal % 65536) <<< 96) + (h.rowBase.toNat <<< 64) + (h.credits.toNat <<< 56) + (h.fmt.toNat <<< 52) + h.job.toNat)

/-- The count table of a dispatch: 16-bit counts padded to a multiple of 16 bytes (R196). -/
def countBytes (cs : List W16) : List Byte := padTo (ceilDiv (2 * cs.length) 16 * 16) (cs.flatMap (fun c => natLE 2 c.toNat))

/-- The 32 bytes of a collective header (R328). -/
def collHdrBytes (h : CollHdr) : List Byte :=
  natLE 32 ((h.seq.toNat <<< 240) + (h.op.toNat <<< 232) + (h.dtype.toNat <<< 228) + (h.phase.toNat <<< 224) + (h.rank.toNat <<< 212) +
    (h.nranks.toNat <<< 200) + (h.base.toNat <<< 160) + (h.nelem.toNat <<< 128) + (h.total.toNat <<< 96))

/-- The 32 bytes of a Stop bath body (R331). -/
def stopBytes (b : StopBody) : List Byte :=
  natLE 32 ((b.origin.toNat <<< 240) + (b.stopNum.toNat <<< 224) + (b.reason.toNat <<< 216) + (b.errRef.toNat <<< 192) + (b.ftime.toNat <<< 128))

/-- The body bytes of a packet; a layout the manual does not give is a free value (log 28). -/
def bodyBytes (src dst : W16) (fresh : Nat) : Body → List Byte
  | .bytes b => b
  | .digest d => natLE 8 d.toNat
  | .stop b => stopBytes b
  | .sep kind h counts rows => sepHdrBytes kind src dst counts.length h ++ countBytes counts ++ rows.flatten
  | .coll h b => collHdrBytes h ++ b
  | _ => Config.wireBytes fresh

/-- The bytes of a packet: header, body and ECRC (R315). -/
def packetBytes (s : State) (k : TxPkt) : List Byte :=
  let src := (getPart s k.part).endpoint
  let body := bodyBytes src k.dst s.fresh k.body
  let h := natLE 32 ((k.dst.toNat <<< 240) + (src.toNat <<< 224) + (k.chan.toNat <<< 208) + (k.kind.toNat <<< 200) + (k.gen.toNat <<< 192) +
    ((k.cseq % 2 ^ 32) <<< 160) + (k.job.toNat <<< 128) + ((body.length % 2 ^ 17) <<< 111) + (k.status.toNat <<< 96) + k.addr.toNat)
  h ++ body ++ natLE 4 (crc32c (h ++ body)).toNat

/-! ## Flits (R312 to R314) -/

/-- Virtual channel of a packet kind (R313). -/
def vcOf (kind : Byte) : BitVec 2 :=
  if kind == pkStop || kind == pkMove then 0
  else if kind == pkReadRsp || kind == pkAck || kind == pkPlateRsp then 2
  else if kind == pkCollective then 3
  else 1

/-- Receive buffer of a virtual channel in flits (R313). -/
def vcBuf (vc : Nat) : Nat := if vc = 0 then 16 else 256

/-- The flits of a packet, each carrying up to 240 of its bytes (R313, R315). -/
def flitsOf (vc : BitVec 2) (d : List Byte) : List Flit :=
  let cs := chunks 240 d
  (List.range cs.length).map (fun i =>
    let c := nth [] cs i
    { ack := 0, ackv := false, cvc := 0, credits := 0, vc := vc, sop := i == 0, eop := i + 1 == cs.length,
      nb := BitVec.ofNat 8 (c.length - 1), seq := 0, payload := c, crc := 0 })

/-- Take the first flit of partition `p` on a virtual channel out of the waiting flits. -/
def takeFlit (p v : Nat) : List (Nat × Flit) → Option (Flit × List (Nat × Flit))
  | [] => none
  | e :: t => if e.1 == p && e.2.vc.toNat == v then some (e.2, t) else (takeFlit p v t).map (fun r => (r.1, e :: r.2))

/-- Whether partition `p` can send on virtual channel `v` (R313): a flit waits, a credit is held, and no packet of another partition
is under way there, since a flit does not name its packet. -/
def canSend (x : Port) (p v : Nat) : Bool :=
  x.txq.any (fun e => e.1 == p && e.2.vc.toNat == v) && tget 0 x.credits v != 0 && tget p x.mid v == p

/-- The partition whose packet on virtual channel 0 comes first among those that can send. -/
def firstUrgent (x : Port) : Option Nat := (x.txq.find? (fun e => e.2.vc.toNat == 0 && canSend x e.1 0)).map (·.1)

/-- The virtual channel of a partition that sends next: 1 to 3 in turn after the last one (R313). -/
def nextVc (x : Port) (p : Nat) : Option Nat := ((List.range 3).map (fun i => (x.rr + i) % 3 + 1)).find? (canSend x p)

/-- The partition that sends next on virtual channels 1 to 3 (R321), among those of `may`: the one whose turn it is while it has
flits left of its weight, else the next one in order that can send; with its new count of flits left. -/
def nextPart (weight : Nat → Nat) (may : List Nat) (x : Port) : Option (Nat × Nat) :=
  let can := fun (p : Nat) => may.contains p && (nextVc x p).isSome
  if x.left != 0 && can x.turn then some (x.turn, x.left)
  else (((List.range 8).map (fun i => (x.turn + 1 + i) % 8)).find? can).map (fun p => (p, max 1 (weight p)))

/-- What sends next (R313, R321): the port with its turn, the partition and the virtual channel; 0 has strict priority. -/
def nextFlit (weight : Nat → Nat) (may : List Nat) (x : Port) : Option (Port × Nat × Nat) :=
  match firstUrgent x with
  | some p => some (x, p, 0)
  | none => match nextPart weight may x with
    | none => none
    | some (p, n) => (nextVc x p).map (fun v => ({ x with turn := p, left := n - 1, rr := v % 3 }, p, v))

/-- Send waiting flits while credits and the replay buffer allow, at most `n` (R313, R314): the port as it then
stands, and the flits sent. -/
def drainPort (weight : Nat → Nat) (may : List Nat) (x : Port) : Nat → Port × List Flit
  | 0 => (x, [])
  | n + 1 =>
    if 1024 ≤ x.replay.length then (x, [])
    else match nextFlit weight may x with
      | none => (x, [])
      | some (x, p, v) => match takeFlit p v x.txq with
        | none => (x, [])
        | some (f, rest) =>
          let f := { f with seq := x.txSeq }
          let f := { f with crc := crc32c (flitBytes f) }
          let y := drainPort weight may { x with txq := rest, credits := tset x.credits v (tget 0 x.credits v - 1), replay := x.replay ++ [f],
                                                 txSeq := x.txSeq + 1, mid := if f.eop then tdel x.mid v else tset x.mid v p } n
          (y.1, f :: y.2)

/-- Send the flits that a retrain left to send again, in order, each for a credit (R313, R314), at most `n`; counted in
FAB_PORT_RETRY. -/
def drainReplay (x : Port) : Nat → Port × List Flit
  | 0 => (x, [])
  | n + 1 =>
    if x.due = 0 then (x, [])
    else match x.replay[x.replay.length - x.due]? with
      | none => (x, [])
      | some f =>
        let v := f.vc.toNat
        if tget 0 x.credits v = 0 then (x, [])
        else
          let y := drainReplay { x with due := x.due - 1, credits := tset x.credits v (tget 0 x.credits v - 1), retry := (x.retry + 1) % 2 ^ 64 } n
          (y.1, f :: y.2)

/-- Virtual channels with a waiting flit and no credit (R358). -/
def waitingVcs (x : Port) : List Nat := [0, 1, 2, 3].filter (fun v => x.txq.any (fun e => e.2.vc.toNat == v) && tget 0 x.credits v == 0)

/-- Put data flits on the wire of a port. -/
def putWire (s : State) (p : Nat) (fs : List Flit) : State :=
  sendFrames { s with fab := { s.fab with wire := s.fab.wire ++ fs.map (fun f => (p, f)) } } p (fs.map (fun f => flitBytes f ++ natLE 4 f.crc.toNat))

/-- The partitions that may use a port now (R321): all of them; in isolation mode the one that holds the tile of the 1 µs slot, a
repeating frame of eight slots of fabric time (R237). -/
def slotParts (s : State) : List Nat :=
  if s.dev.isolate then (partOfTile s (s.time.ftime / 1050 % 8)).toList else List.range 8

/-- Let an ACTIVE port send what it can, once the replay of a retrain is over (R314); a virtual channel that begins to wait notes the
time (R358). -/
def pumpPort (s : State) (p : Nat) : State :=
  let x := getPort s p
  if x.st ≠ .active ∨ x.hold then s
  else
    let was := waitingVcs x
    let (z, again) := drainReplay x x.due
    let (y, fs) := if z.due = 0 then drainPort (fun n => (getPart s n).epWeight.toNat) (slotParts s) z z.txq.length else (z, [])
    let y := { y with crAt := ((waitingVcs y).filter (fun v => !was.contains v)).foldl (fun t v => tset t v s.time.ftime) y.crAt }
    putWire (setPort s p y) p (again ++ fs)

/-- In isolation mode a slot begins: every port sends what the slot's partition has waiting (R237, R321). -/
def pumpSlots (s : State) : State :=
  if s.dev.isolate && s.time.ftime % 1050 == 0 then (List.range 6).foldl (fun s p => if (getPort s p).txq.isEmpty then s else pumpPort s p) s
  else s

/-- Hand a packet to a port (R313, R315). -/
def emitOn (s : State) (port : Nat) (k : TxPkt) : State :=
  let x := getPort s port
  let d := packetBytes s k
  pumpPort { setPort s port { x with txq := x.txq ++ (flitsOf (vcOf k.kind) d).map (fun f => (k.part, f)) } with fresh := s.fresh + 1 } port

/-- Send a packet on a path, or hold it while there is none (R317, R319). -/
def emitVia (s : State) (path : Option Nat) (k : TxPkt) : State :=
  let s := { s with fab := { s.fab with tx := s.fab.tx ++ [k] } }
  match path with
  | some port => emitOn s port k
  | none => s

/-- Send a packet on the path of its destination and channel. -/
def emit (s : State) (k : TxPkt) : State := emitVia s (pathOf s k.dst k.chan) k

/-- Put an idle or link control flit on the wire (R312), or send the exchange of NEGOTIATE (R310). -/
def emitLink (s : State) (k : TxLink) : State :=
  let d := linkBytes s.fresh k
  let s := { s with fab := { s.fab with txLink := s.fab.txLink ++ [k] }, fresh := s.fresh + 1 }
  match d with
  | some (p, b) => sendFrames s p [b]
  | none => s

end Sys2Proof.Machine
end

