-- ==== Sys2Proof/Machine/Fabric.lean ====
section
/-! DEFINITION. Sending over Zhevlink (R315 to R319), step tags (R207 to R209) and the Stop bath (R331, R332,
R371). -/

namespace Sys2Proof.Machine

open Sys2Proof

/-- Whether a sending channel is that of (partition, destination, channel). -/
def isTx (p : Nat) (dst ch : W16) (c : TxChan) : Bool := c.part == p && c.dst == dst && c.chan == ch

/-- Send a packet on the ordered channel (partition, destination, channel): a new channel opens with
CHANNEL_OPEN at CSEQ 0; at most 1,024 packets are unacknowledged on the wire (R317, R318). -/
def send (s : State) (p : Nat) (dst ch : W16) (kind : Byte) (job : W32) (status : Byte) (addr : W64) (body : Body) : State :=
  let gen := s.dev.hubTag
  let mk := fun (n : Nat) (k : Byte) (b : Body) =>
    ({ kind := k, part := p, dst := dst, chan := ch, cseq := n, gen := gen, job := job, status := status, addr := addr, body := b } : TxPkt)
  let put := fun (s : State) (c : TxChan) (k : TxPkt) =>
    let c' := { c with next := c.next + 1, unack := c.unack ++ [k], moved := if c.unack.isEmpty then s.time.ftime else c.moved }
    let s := { s with fab := { s.fab with txCh := updFirst (isTx p dst ch) (fun _ => c') s.fab.txCh } }
    if c.unack.length < 1024 then emit s k else s
  let s := if s.fab.txCh.any (isTx p dst ch) then s
    else
      let c : TxChan := { part := p, dst := dst, chan := ch, path := pathOf s dst ch }
      let s := { s with fab := { s.fab with txCh := s.fab.txCh ++ [c] } }
      if kind == pkOpen then s else put s c { mk 0 pkOpen (.digest 0) with job := 0 }
  match s.fab.txCh.find? (isTx p dst ch) with
  | none => s
  | some c => put s c (mk c.next kind body)

/-- The job entry index with a job id held by partition `p`. -/
def jobById (s : State) (p : Nat) (id : W32) : Option Nat :=
  (List.range 64).find? (fun j => let x := getJob s j; x.st != .idle && x.jobId == id && x.part.toNat == p)

/-- The partition whose endpoint id is `e` (R316). -/
def partOfEp (s : State) (e : W16) : Option Nat :=
  (List.range 8).find? (fun n => (getPart s n).epValid && (getPart s n).endpoint == e)

/-- This device's endpoint id of partition `p` (R316). -/
def epOf (s : State) (p : Nat) : W16 := (getPart s p).endpoint

/-- Members of a job other than this one (R326). -/
def others (j : Job) : List W16 := (j.members.zipIdx.filter (fun e => e.2 != j.rank.toNat)).map (·.1)

/-- The credit units this device holds towards an endpoint (R200): G until some are used. -/
def getCredits (s : State) (ji ep g : Nat) : Nat := match s.sep.credits.find? (fun e => e.1 == (ji, ep)) with | some e => e.2 | none => g

/-- Put the credit units held towards an endpoint. -/
def putCredits (s : State) (ji ep n : Nat) : State :=
  { s with sep := { s.sep with credits := (s.sep.credits.filter (fun e => e.1 != (ji, ep))) ++ [((ji, ep), n)] } }

/-- Credit units come back from an endpoint (R200). -/
def addCredits (s : State) (ji ep n : Nat) : State :=
  match s.sep.credits.find? (fun e => e.1 == (ji, ep)) with
  | some e => putCredits s ji ep (e.2 + n)
  | none => s

/-- A Separator header in flight (R197). -/
def sepHdr (j : Job) (tag : W16) (layer : Nat) (status : Byte) (gen : Byte) : SepHdr :=
  { tag := tag, layer := BitVec.ofNat 16 layer, status := status, gen := gen, msgIndex := 0, msgCount := 0, nrows := 0,
    rowBase := 0, credits := 0, fmt := 0, job := j.jobId }

/-! ## Routing records and the set a destination serves from -/

/-- The counts a routing record encodes (R187). -/
structure Route where
  salt  : W64
  map   : Nat
  wtab  : Nat
  e     : Nat
  k     : Nat
  spare : Nat
  dim   : Nat
  ifmt  : Nat
  ofmt  : Nat
  cfmt  : Nat
  cap   : Nat
  deriving DecidableEq, Repr, Inhabited

/-- The fields of a routing record (R187). -/
def routeOf (w : W256) : Route :=
  { salt := BitVec.ofNat 64 (bits w 255 192), map := bits w 191 160, wtab := bits w 159 128, e := bits w 127 116 + 1,
    k := bits w 115 113 + 1, spare := bits w 112 109, dim := bits w 95 84, ifmt := bits w 83 80, ofmt := bits w 79 76,
    cfmt := bits w 75 72, cap := bits w 71 56 }

/-- The routing record of a layer of a set that has one (R294, R479). -/
def layerRoute (x : PlateSet) (l : Nat) : Option Route :=
  match x.routes[l]? with
  | some w => if w = 0 then none else some (routeOf w)
  | none => none

/-- The plate set a destination serves a dispatch from: the set its own launch of the step pins, else the
partition's current set with experts at the layer (R204, log 23). -/
def destSet (s : State) (p ji : Nat) (tag : W16) (l : Nat) : Option PlateSet :=
  let own := s.launches.findSome? (fun k => if k.part == p && k.job.getD 64 == ji && k.tag == some tag && k.expert.isNone then
    k.steps.findSome? (fun q => (findCmd s q.1 q.2).bind (fun c => findSet s p c.set)) else none)
  match own with
  | some x => some x
  | none => s.psets.find? (fun x => x.part == p && x.st == .current && (layerRoute x l).isSome)

/-- The format of a destination's returned rows: OFMT of the layer it serves; 0 where it holds no such set (R197, log 23). -/
def returnFmt (s : State) (d : DestMsg) : BitVec 4 :=
  match (destSet s d.part ((jobById s d.part d.job).getD 64) d.tag d.layer).bind (fun x => layerRoute x d.layer) with
  | some y => BitVec.ofNat 4 y.ofmt
  | none => 0

/-- Send a return for a held dispatch message (R197, R199, R204, R209). -/
def sendReturn (s : State) (d : DestMsg) (status : Byte) (rows : List (List Byte)) : State :=
  let h : SepHdr := { tag := d.tag, layer := BitVec.ofNat 16 d.layer, status := status, gen := s.dev.hubTag,
                      msgIndex := BitVec.ofNat 16 d.index, msgCount := BitVec.ofNat 16 d.count, nrows := BitVec.ofNat 16 rows.length,
                      rowBase := BitVec.ofNat 32 d.base, credits := BitVec.ofNat 8 d.credits, fmt := returnFmt s d, job := d.job }
  send s d.part d.src chSep pkMessage d.job 0 0 (.sep 0x02 h [] rows)

/-- Whether a launch is an expert launch of a step tag at partition `p`. -/
def isExpert (p : Nat) (job : W32) (tag : W16) (l : Launch) : Bool :=
  l.part == p && (match l.expert with | some e => e.job == job && e.tag == tag | none => false)

/-- Whether row `i` of a held message has its result or runs in a launch (R209). -/
def rowRuns (s : State) (d : DestMsg) (i : Nat) : Bool :=
  (tfind d.out i).isSome || s.launches.any (fun l => l.started && isExpert d.part d.job d.tag l &&
    (match l.expert with | some e => e.layer == d.layer && e.rows.contains (d.src, d.index, i) | none => false))

/-- Whether every row of a held message has been launched. -/
def allRun (s : State) (d : DestMsg) : Bool := (List.range d.rows.length).all (rowRuns s d)

/-- A return for a retired tag or for no open batch is discarded and counted, its credits are released, and a
retired batch ends with its last return (R210, R207). -/
def staleReturn (s : State) (p ji : Nat) (src tag : W16) (layer index credits : Nat) : State :=
  let x := getPart s p
  let s := addCredits (setPart s p { x with stale := x.stale + 1 }) ji src.toNat credits
  let f := fun (b : Batch) => if b.job == ji && b.tag == tag && b.layer == layer && b.failed then
    { b with msgs := b.msgs.filter (fun m => !(m.dst == src && m.index == index)) } else b
  { s with sep := { s.sep with batches := (s.sep.batches.map f).filter (fun b => !(b.failed && b.msgs.isEmpty)) } }

/-- A destination retires a tag: rows of every source that no launch runs are dropped, and each message that has had no return and
whose rows do not all run gets one with no rows and STATUS CANCELLED (R209); its own device takes the return at once. -/
def destRetire (s : State) (p : Nat) (job : W32) (tag : W16) : State :=
  let hit := fun (d : DestMsg) => d.part == p && d.job == job && d.tag == tag && (d.answered || !allRun s d)
  let mine := s.sep.dest.filter (fun d => hit d && !d.answered)
  let s := { s with sep := { s.sep with dest := s.sep.dest.filter (fun d => !hit d) },
                    launches := s.launches.filter (fun l => l.started || !isExpert p job tag l) }
  mine.foldl (fun s d =>
    if d.src == epOf s d.part then staleReturn s d.part ((jobById s d.part job).getD 64) d.src tag d.layer d.index d.credits
    else sendReturn s d 0x02 []) s

/-- Retire the batches of a tag at its source: messages not yet sent are dropped, and the batch stays until the
returns of those sent have arrived (R207, R210). -/
def retireBatches (s : State) (ji : Nat) (tag : W16) : State :=
  let f := fun (b : Batch) => if b.job == ji && b.tag == tag then
    { b with failed := true, msgs := b.msgs.filter (fun m => m.sent && !m.back) } else b
  { s with sep := { s.sep with batches := (s.sep.batches.map f).filter (fun b => !(b.failed && b.msgs.isEmpty)) } }

/-- A member abandons a step: its tag is retired and a tag-retire message goes to every member, itself
included (R208). -/
def retireTag (s : State) (ji : Nat) (tag : W16) : State :=
  let j := getJob s ji
  if !j.openTags.contains tag then s
  else
    let s := setJob s ji { j with openTags := j.openTags.filter (· != tag), retired := j.retired ++ [tag] }
    let s := retireBatches s ji tag
    let h := sepHdr j tag 0 0 s.dev.hubTag
    let s := (others j).foldl (fun s e => send s j.part.toNat e chSep pkMessage j.jobId 0 0 (.sep 0x03 h [] [])) s
    destRetire s j.part.toNat j.jobId tag

/-- Jobs a step belongs to by its record. -/
def stepJob (s : State) (r q : Nat) : Option Nat := (findStep s r q).bind (·.job)

/-- The job whose steps a partition runs: its first ACTIVE entry (R326, log 20). -/
def activeJob (s : State) (p : Nat) : Option Nat :=
  (List.range 64).find? (fun j => (getJob s j).st == .active && (getJob s j).part.toNat == p)

/-- Whether a partition starts no step because its job is STOPPED (R332). -/
def jobHeld (s : State) (p : Nat) : Bool :=
  (activeJob s p).isNone && (List.range 64).any (fun j => (getJob s j).st == .stopped && (getJob s j).part.toNat == p)

/-- Step commands of a partition that have not started complete ABORTED when its job stops; on a Fixed ring they are
held (R371). -/
def abortWaiting (s : State) (p : Nat) : State :=
  (s.cmds.filter (fun c => c.part == p && !c.started && c.cls != clsFixed && ([0x03, 0x04, 0x20] : List Nat).contains (opcodeOf c))).foldl
    (fun s c => finish s c.ring c.seq stAborted) s

/-- End the commands of a stopped job (R371): steps of the origin FAULT, of other members ABORTED, commands
not yet started ABORTED; Fixed steps are held for replay, and at the origin their sessions are given up to their
partners (log 36). -/
def stopCmds (s : State) (ji : Nat) (origin : Bool) (n : Nat) : State :=
  let mine := s.steps.filter (fun x => x.job == some ji && x.phase != .released)
  mine.foldl (fun s x => match findCmd s x.ring x.seq with
    | none => s
    | some c =>
      if c.cls == clsFixed then
        let s := updStep s x.ring x.seq (fun y => { y with phase := .held })
        match (if origin then x.sess else none) with
        | some i => setSess s i { getSess s i with yield_ := (getSess s i).pstate == 1 }
        | none => s
      else
        let s := noteErr s x.ring x.seq n
        let s := { s with launches := s.launches.map (fun l => { l with steps := l.steps.filter (fun k => k != (x.ring, x.seq)) }) }
        complete s x.ring x.seq { status := if origin && c.started then stFault else stAborted }) s

/-- The collective number after those a member has abandoned (R330): a job formed again goes on past them (log 96). -/
def pastAbandoned (q : W16) (gone : List W16) : W16 := gone.foldl (fun q a => if (a - q).toNat < 32768 then a + 1 else q) q

/-- A member acts on a Stop bath (R332): STOPPED, E_STOP_BATH naming the job, ORIGIN, REASON and ERR_REF, tags retired, collectives
abandoned, commands ended. -/
def actStop (s : State) (ji : Nat) (b : StopBody) (origin : Bool) : State :=
  let j := getJob s ji
  let s := if activeJob s j.part.toNat == some ji then abortWaiting s j.part.toNat else s
  let gone := (s.fab.colls.filter (fun c => c.job == ji)).map (·.seq)
  let s := setJob s ji { j with st := .stopped, stop := some (b.origin, b.stopNum), abandoned := j.abandoned ++ gone,
                                collSeq := pastAbandoned j.collSeq gone }
  let x := raise s { code := 0x0503, sev := sevContained, part := some j.part.toNat, unitType := uHub, related := b.errRef.toNat,
                     names := [j.jobId.toNat, b.origin.toNat, b.reason.toNat, b.errRef.toNat] }
  let s := dropLatch x.st x.seq
  let s := j.openTags.foldl (fun s t => retireTag s ji t) s
  let s := { s with fab := { s.fab with colls := s.fab.colls.filter (fun c => c.job != ji) } }
  stopCmds s ji origin (if origin then b.errRef.toNat else x.seq)

/-- Send a Stop bath for an ACTIVE job to every member, itself included, on every live plane (R331). -/
def stopBath (s : State) (ji : Nat) (reason : Byte) (n : Nat) : State :=
  let j := getJob s ji
  if j.st ≠ .active then s
  else
    let p := j.part.toNat
    let b : StopBody := { origin := epOf s p, stopNum := BitVec.ofNat 16 s.dev.stopNum, reason := reason, errRef := errRef n,
                          ftime := BitVec.ofNat 64 s.time.ftime }
    let s := { s with dev := { s.dev with stopNum := s.dev.stopNum + 1 } }
    let s := (others j).foldl (fun s e => (livePlanes s).foldl (fun s pl =>
      let k : TxPkt := { kind := pkStop, part := p, dst := e, chan := chJob, cseq := 0, gen := s.dev.hubTag, job := j.jobId,
                         status := 0, addr := 0, body := .stop b }
      emitVia s (livePorts s pl).head? k) s) s
    actStop s ji b true

end Sys2Proof.Machine
end

