-- ==== Sys2Proof/Machine/Plates.lean ====
section
/-! DEFINITION. A plate found bad after it was loaded (R305), and uncorrectable lines in memory that a command's
work consumed (R88, R343). -/

namespace Sys2Proof.Machine

open Sys2Proof

/-- Whether plate set `x` is set `id` of partition `p`. -/
def isSet (p : Nat) (id : W16) (x : PlateSet) : Bool := x.part == p && x.setId == id

/-- Change set `id` of partition `p`. -/
def updSet (s : State) (p : Nat) (id : W16) (f : PlateSet → PlateSet) : State := { s with psets := updFirst (isSet p id) f s.psets }

/-- Change plate `i` of a set. -/
def updPlate (s : State) (p : Nat) (id : W16) (i : Nat) (f : Plate → Plate) : State :=
  updSet s p id (fun x => { x with plates := tset x.plates i (f (tget {} x.plates i)) })

/-- Plate `i` of set `id` of partition `p`. -/
def getPlate (s : State) (p : Nat) (id : W16) (i : Nat) : Plate :=
  match findSet s p id with | some x => tget {} x.plates i | none => {}

/-- Whether a plate of the set is being reloaded, so that launches that pin the set are held (R305). -/
def reloading (s : State) (p : Nat) (id : W16) : Bool :=
  match findSet s p id with | some x => x.plates.any (fun e => e.2.reload) | none => false

/-- DETAIL of a plate record (R337). -/
def plateDetail (id : W16) (i lastGood attempts : Nat) : BitVec 496 :=
  BitVec.ofNat 496 ((id.toNat <<< 480) + ((i % 2 ^ 20) <<< 460) + ((lastGood % 2 ^ 64) <<< 396) + (attempts <<< 393))

/-- The status of a BROKEN set (R301, R305). -/
def brokenStatus (x : PlateSet) : Byte := if x.corruptB then stPlateCorrupt else stPlateMissing

/-- The first tile of a partition, in UNIT_ID form (log 44). -/
def firstTile (s : State) (p : Nat) : W16 := BitVec.ofNat 16 (getPart s p).tileBase.toNat

/-- A plate record (R298, R305). -/
def plateRec (s : State) (p : Nat) (id : W16) (i : Nat) (x : Plate) (corrupt : Bool) : Rec :=
  { code := if corrupt then 0x0401 else 0x0402, sev := sevContained, part := some p, unitType := uTile, unitId := firstTile s p,
    detail := plateDetail id i x.lastGood x.attempts }

/-- The steps under way whose command pins the set. -/
def stepsOfSet (s : State) (p : Nat) (id : W16) : List StepRec :=
  s.steps.filter (fun x => x.part == p && x.phase != .released && s.cmds.any (fun c => c.ring == x.ring && c.seq == x.seq && c.pin == some id))

/-- Take a step out of every launch. -/
def dropFromLaunches (s : State) (r q : Nat) : State :=
  { s with launches := s.launches.map (fun l => { l with steps := l.steps.filter (fun k => k != (r, q)) }) }

/-- A launch is over: its kernel, where it runs one, is no longer a running step (R153). -/
def removeLaunch (s : State) (l : Launch) : State :=
  let s := if l.started then endStep s l.part (launchStep l.num) else s
  { s with launches := s.launches.filter (fun k => k.id != l.id) }

/-- End the running steps pinned to a set whose plate is bad (R305 step 4); a Fixed step waits for its replay
(R305 step 3). -/
def endSetSteps (s : State) (p : Nat) (id : W16) (n : Nat) : State :=
  (stepsOfSet s p id).foldl (fun s x => match findCmd s x.ring x.seq with
    | none => s
    | some c =>
      if c.cls == clsFixed then updStep (dropFromLaunches s x.ring x.seq) x.ring x.seq replayed
      else if x.phase == .gather then s
      else
        complete (dropFromLaunches (noteErr s x.ring x.seq n) x.ring x.seq) x.ring x.seq { status := stFault }) s

/-- The next source of a plate after `k` attempts, in cyclic order (R298). -/
def sourceAt (srcs : List W64) (k : Nat) : Option W64 :=
  let l := srcs.filter (fun w => bits w 63 62 != 0)
  if l.isEmpty then none else l[k % l.length]?

/-- A plate fails (R298): its record is raised, about the command that loads it. -/
def failPlate (s : State) (p : Nat) (id : W16) (i : Nat) : State :=
  let x := getPlate s p id i
  let cmd := if x.reload then none else x.reading
  let r := raise s { plateRec s p id i x x.corrupt with cmd := cmd }
  let s := dropLatch r.st r.seq
  let s := match cmd with | some k => noteErr s k.1 k.2 r.seq | none => s
  updPlate s p id i (fun y => { y with failed := true, buf := [] })

/-- Start the next attempt of a plate (R298), with a request to a peer source (R296); a plate with no attempt left
fails. -/
def startAttempt (s : State) (p : Nat) (id : W16) (i : Nat) : State :=
  let x := getPlate s p id i
  if 4 ≤ x.attempts then failPlate s p id i
  else match sourceAt x.sources x.attempts with
    | none => failPlate s p id i
    | some src =>
      let s := updPlate s p id i (fun y => { y with attempts := y.attempts + 1, since := s.time.ftime, buf := [], got := false })
      if bits src 63 62 = 2 then send s p (BitVec.ofNat 16 (bits src 61 46)) chPlate pkPlateReq 0 0 0 (.plateReq id i) else s

/-- A resident plate does not match its digest (R305): the record, the running steps, and the reload. -/
def plateMismatch (s : State) (p : Nat) (id : W16) (i : Nat) : State :=
  let x := getPlate s p id i
  if x.reload then s
  else
    let r := raise s (plateRec s p id i x true)
    let s := endSetSteps r.st p id r.seq
    startAttempt (updPlate (dropLatch s r.seq) p id i (fun y =>
      { y with reload := true, resident := false, attempts := 0, corrupt := false, failed := false })) p id i

/-- The plate whose data frames hold frame `f`. -/
def plateOfFrame (s : State) (f : Nat) : Option (Nat × W16 × Nat) :=
  s.psets.findSome? (fun x => x.plates.findSome? (fun e => if e.2.frames.contains f then some (x.part, x.setId, e.1) else none))

/-- A frame has raised E_MEM_UE (R343): it is withdrawn when it reaches FREE, and a plate frame is handled as a
mismatch of its plate. -/
def frameBad (s : State) (f : Nat) : State :=
  let s := withdraw s f
  match plateOfFrame s f with
  | some (p, id, i) => plateMismatch s p id i
  | none => s

end Sys2Proof.Machine
end

