-- ==== Sys2Proof/Machine/Accept.lean ====
section
/-! DEFINITION. The acceptance of a descriptor (R249 to R255): fetch, journal, and the checks made before a
command waits for its start: fields (R251), class (R271), fence (R250, R213), draining (R283), Timed admission
(R288, R289) and the plate-set pin (R271, R302). -/

namespace Sys2Proof.Machine

open Sys2Proof

/-! ## Descriptor fields -/

/-- Command codes (R249). -/
def cmdCodes : List Nat :=
  [0x01, 0x02, 0x03, 0x04, 0x05, 0x06, 0x07, 0x10, 0x11, 0x12, 0x20, 0x30, 0x31, 0x32, 0x33, 0x40, 0x41, 0x42, 0x43, 0x44]

/-- Reserved ranges of a command's body. -/
def bodyReserved (op : Nat) : List (Nat × Nat) :=
  match op with
  | 0x01 => [(435, 432), (367, 128)]
  | 0x02 => [(479, 128)]
  | 0x03 => [(255, 224), (223, 223), (222, 128)]
  | 0x04 => [(447, 384), (222, 128)]
  | 0x05 => [(319, 128)]
  | 0x06 => [(381, 320), (223, 128)]
  | 0x07 => [(383, 382), (381, 320), (319, 256), (223, 128)]
  | 0x10 => [(455, 448)]
  | 0x11 => [(495, 128)]
  | 0x12 => [(495, 128)]
  | 0x20 => [(447, 128)]
  | 0x30 => [(477, 464), (255, 128)]
  | 0x31 => [(509, 496), (319, 128)]
  | 0x32 => [(477, 464), (351, 128)]
  | 0x33 => [(509, 496), (351, 128)]
  | 0x40 => [(511, 128)]
  | 0x41 => [(420, 128)]
  | 0x42 => [(479, 128)]
  | 0x43 => [(509, 128)]
  | 0x44 => [(352, 128)]
  | _ => []

/-- A source descriptor of PLATE_LOAD at bit `lo`: a peer's BASE has its low 46 bits zero (R295). -/
def srcBad (d lo : Nat) : Bool × Nat := (nbits d (lo + 63) (lo + 62) == 2 && nbits d (lo + 45) lo != 0, lo + 45)

/-- Values that a command's section forbids in its body: reserved values, fields required to be zero, and
misaligned addresses (R251), each with its most significant bit. -/
def bodyValues (op d : Nat) : List (Bool × Nat) :=
  match op with
  | 0x03 => [(nbits d 385 384 != 0, 447), (nbits d 325 320 != 0, 383)]
  | 0x04 => [(nbits d 325 320 != 0, 383)]
  | 0x06 => [(nbits d 383 382 == 0 || nbits d 383 382 == 3, 383), (nbits d 383 382 == 1 && nbits d 319 256 != 0, 319)]
  | 0x10 => [(nbits d 389 384 != 0, 447), srcBad d 320, srcBad d 256, srcBad d 192, srcBad d 128]
  | 0x20 => [(nbits d 453 448 != 0, 511)]
  | 0x30 =>
    let t := nbits d 479 478
    let h := nbits d 511 480
    [(t == 0, 479), (t == 2 && nbits d 395 384 != 0, 447), (t == 1 && nbits d 399 384 != 0, 447), (t == 3 && nbits d 383 352 != 0, 383),
     (nbits d 303 288 != 0, 351), (h != 0 && nbits d 351 288 != 0, 351), ((h == 0) == (nbits d 287 256 == 0), 287)]
  | 0x31 => [(nbits d 511 510 == 0, 511), (nbits d 335 320 != 0, 383)]
  | 0x32 => [(decide (nbits d 479 478 < 2), 479), (nbits d 479 478 == 2 && nbits d 395 384 != 0, 447)]
  | 0x33 => [(nbits d 511 510 == 0, 511)]
  | 0x43 => [(nbits d 511 510 == 2, 511)]
  | 0x44 => [(nbits d 453 448 != 0, 511)]
  | _ => []

/-- The most significant offending field of a descriptor on a ring of class `cls` (R251). -/
def descBad (cls : BitVec 2) (d : W512) : Option Nat :=
  let n := d.toNat
  let op := nbits n 127 120
  worst ([(!cmdCodes.contains op, 127), (nbits n 117 112 != 0, 117), (n.testBit 96, 96), (cls != clsTimed && nbits n 63 0 != 0, 63)] ++
    bodyValues op n ++ (match badBits n (bodyReserved op) with | some b => [(true, b)] | none => []))

/-- Whether a ring class accepts a command (R271). -/
def classOk (cls : BitVec 2) (op : Nat) : Bool :=
  if cls == clsOpen then true
  else if cls == clsTimed then !([0x06, 0x07, 0x10, 0x11, 0x12, 0x30, 0x31, 0x32, 0x33, 0x43] : List Nat).contains op
  else !([0x10, 0x11, 0x12, 0x20, 0x30, 0x31] : List Nat).contains op

/-! ## Plate-set generations (R300, R302) -/

/-- The current generation of an id in a partition. -/
def currentSet (s : State) (p id : Nat) : Option PlateSet :=
  s.psets.find? (fun x => x.part == p && x.st == .current && bits x.setId 11 0 == id)

/-- Whether an activation of an id is pending in a partition. -/
def activating (s : State) (p id : Nat) : Bool :=
  s.cmds.any (fun c => c.part == p && opcodeOf c == 0x11 && bits c.desc 507 496 == id)

/-- PSID of a launch block. -/
def blkPsid (c : Cmd) : Nat := leNat ((c.launchBlk.drop 0x9E).take 2) % 4096

/-- The id whose current generation a command pins at acceptance, if it pins by id (R271). -/
def pinId (c : Cmd) : Option Nat :=
  if opcodeOf c = 0x01 then some (bits c.desc 447 436)
  else if opcodeOf c = 0x20 ∧ (handleIn c).isNone then some (blkPsid c)
  else none

/-! ## Timed admission (R288, R289) -/

/-- Exit latencies of the power states in µs (R422). -/
def exitLatency (n : Nat) : Nat := nth 0 [0, 2, 200, 5000, 50000] n

/-- The deepest power state a wake tolerance permits (R284, R422). -/
def deepest (tol : Nat) : Nat := if tol < 2 then 0 else if tol < 200 then 1 else if tol < 5000 then 2 else if tol < 50000 then 3 else 4

/-- Tokens that accepted steps of a session have still to write. -/
def tokensAhead (s : State) (h : W32) : Nat :=
  (s.cmds.filter (fun c => (opcodeOf c == 0x03 || opcodeOf c == 0x04) && handleIn c == some h)).foldl
    (fun n c => n + (if opcodeOf c = 0x03 then bits c.desc 479 448 else 1)) 0

/-- T times the service bound of a Timed command in ns (R289), none when the cost record it needs is absent. A set without geometry
holds no pages (log 100). -/
def timedBound (s : State) (c : Cmd) : Option Nat :=
  let t := tileCount (getPart s c.part)
  let step := fun (prefill : Bool) => (handleIn c).bind (fun h => (openHandle s c.part h).bind (fun i =>
    let x := getSess s i
    (findSet s c.part x.plateset).bind (fun st =>
      if bits st.header 287 256 = 0 then none
      else
        let pe := x.position + tokensAhead s h
        let n := match setGeo st with | some g => ceilDiv pe g.p | none => 0
        if prefill then some (bits c.desc 479 448 * (bits st.cost 255 224 + bits st.cost 223 192 * n))
        else some (bits st.cost 191 160 + bits st.cost 159 128 * n))))
  match opcodeOf c with
  | 0x03 => step true
  | 0x04 => step false
  | 0x20 => let b := leNat ((c.launchBlk.drop 0x98).take 4); if b = 0 then none else some (b * t)
  | 0x05 => some (100000 * t)
  | _ => some (50000 * t)

/-- Order of deadlines: deadline, then ring, then sequence number (R289). -/
def dueBefore (a b : Cmd) : Bool :=
  let x := bits a.desc 63 0
  let y := bits b.desc 63 0
  decide (x < y) || (x == y && (decide (a.ring < b.ring) || (a.ring == b.ring && decide (a.seq ≤ b.seq))))

/-- Insert a command in the order of deadlines. -/
def insertDue (c : Cmd) : List Cmd → List Cmd
  | [] => [c]
  | x :: t => if dueBefore c x then c :: x :: t else x :: insertDue c t

/-- The test of R289 over commands in the order of their deadlines; times in 1 / (20 × pct × T) ticks. -/
def admitGo (unit : Nat) (t : Nat) : List Cmd → Bool
  | [] => true
  | q :: rest =>
    let t := t + q.bound * 2100
    decide (t ≤ bits q.desc 63 0 * unit) && admitGo unit t rest

/-- Whether a Timed command is admitted (R288, R289, R438): its bound, or none. -/
def admitTimed (s : State) (c : Cmd) : Option Nat :=
  let p := getPart s c.part
  let dl := bits c.desc 63 0
  let now := s.time.ftime
  let least := if ([0x03, 0x04, 0x20] : List Nat).contains (opcodeOf c) then 210000 else 52500
  let pct := Nat.min 100 p.timedPct.toNat
  if !(s.time.tstate == 2 || s.time.tstate == 3) || !s.time.everLock then none
  else if dl < now + least ∨ pct = 0 then none
  else match timedBound s c with
    | none => none
    | some b =>
      let unit := 20 * pct * tileCount p
      let q := (s.cmds.filter (fun x => x.timed && x.part == c.part)).foldl (fun l x => insertDue x l) [{ c with bound := b }]
      let t0 := (now + (exitLatency (deepest p.tol) + Nat.min 1000 p.gatherUs.toNat) * 1050) * unit
      if admitGo unit t0 q then some b else none

/-! ## Fences (R213, R250) -/

/-- The full sequence number FENCE_SEQ names on a ring (R250). -/
def fenceSeq (x : Ring) (low : Nat) : Nat :=
  let n := nextSeq x
  let d := (low + 2 ^ 32 - n % 2 ^ 32) % 2 ^ 32
  if d < 2 ^ 31 then (n + d) % 2 ^ 64 else (n + d + 2 ^ 64 - 2 ^ 32) % 2 ^ 64

/-- What a fence predecessor says (R213). -/
inductive FenceState where
  | wait
  | go
  | cancel
  | gone
  deriving DecidableEq, Repr

/-- The state of predecessor `q` of ring `r`. -/
def fenceState (s : State) (r q : Nat) : FenceState :=
  let x := getRing s r
  let ahead := (q + 2 ^ 64 - nextSeq x) % 2 ^ 64
  if ahead < 2 ^ 63 then .wait
  else
    let j := journalAt x q
    if j.seq ≠ q ∨ j.st = .empty then .gone
    else match j.st with
      | .accepted => .wait
      | .started => .wait
      | .completed => .go
      | _ => .cancel

/-! ## The pin and the start of a wait -/

/-- Whether a command needs a launch (R227). -/
def needsLaunch (op : Nat) : Bool := ([0x03, 0x04, 0x20] : List Nat).contains op

/-- What a command waits for once its fence, if any, has passed: the activation that will give it its pin, or nothing. -/
def afterFence (c : Cmd) : Cmd := { c with wait := if c.pinWait then .activation else .none }

/-- A command has its pin; one that waited for it in ACCEPTED goes on. -/
def takePin (x : W16) (c : Cmd) : Cmd := { c with pin := some x, pinWait := false, wait := if c.wait == .activation then .none else c.wait }

/-- Pin the generation of a command at acceptance, fenced or not (R271, R302): by id it waits while an activation of the id is
pending, and is refused where there is none. -/
def pinCmd (s : State) (r q : Nat) : State :=
  match findCmd s r q with
  | none => s
  | some c => match pinId c with
    | some id => match currentSet s c.part id with
      | some x => updCmd s r q (takePin x.setId)
      | none =>
        if activating s c.part id then updCmd s r q (fun c => { c with pinWait := true, wait := if c.wait == .none then .activation else c.wait })
        else finish s r q stRejected
    | none => match (handleIn c).bind (openHandle s c.part) with
      | some i => updCmd s r q (takePin (getSess s i).plateset)
      | none => s

/-- Commands that wait for an activation of an id pin its generation, go on waiting, or are refused (R274, R302). -/
def resolvePins (s : State) (p id : Nat) : State :=
  (s.cmds.filter (fun c => c.part == p && c.pinWait && pinId c == some id)).foldl (fun s c => pinCmd s c.ring c.seq) s

/-- Commands that waited on an activation that has ended look again (R274, R302). -/
def afterActivation (s : State) (c : Cmd) : State := if opcodeOf c = 0x11 then resolvePins s c.part (bits c.desc 507 496) else s

/-- Resolve the fence of a waiting command (R213). -/
def resolveFence (s : State) (r q : Nat) : State :=
  match findCmd s r q with
  | none => s
  | some c => match c.wait with
    | .fence fr fq => match fenceState s fr fq with
      | .wait => s
      | .go => updCmd s r q afterFence
      | .cancel => afterActivation (finish s r q stCancelled) c
      | .gone => afterActivation (faultCmd s c 0x000A 95 0) c
    | _ => s

/-- The end of a command that needs a launch in a partition whose cores are all quarantined (R227, R342): a session
with a partner resumes there, and its command completes when it has been taken over. -/
def endNoCore (s : State) (c : Cmd) : State :=
  let i := match handleIn c with | some h => openHandle s c.part h | none => none
  match i with
  | some i =>
    let x := getSess s i
    if c.cls == clsFixed && x.pstate == 1 then setSess s i { x with yield_ := true }
    else complete (noteErr s c.ring c.seq (getPart s c.part).faultRec) c.ring c.seq
      { status := if c.cls == clsFixed then stMigrated else stFault }
  | none =>
  complete (noteErr s c.ring c.seq (getPart s c.part).faultRec) c.ring c.seq
    { status := if c.cls == clsFixed then stMigrated else stFault }

/-- Whether a PARTNER field is wrong for the class of its ring (R274). -/
def partnerBad (c : Cmd) (partner : Nat) : Bool := (c.cls == clsFixed) != (partner != 0)

/-- The checks made once a descriptor is accepted. A record names the field that is refused (R251, R337, log 44). -/
def decodeCmd (s : State) (r q : Nat) : State :=
  match findCmd s r q with
  | none => s
  | some c =>
    let op := opcodeOf c
    let p := getPart s c.part
    match classOk c.cls op, descBad c.cls c.desc with
    | false, _ => faultCmd s c 0x0018 127 0
    | true, some f => faultCmd s c 0x0013 f 0
    | true, none =>
      if op = 0x01 ∧ partnerBad c (bits c.desc 399 384) then faultCmd s c 0x0019 399 0
      else
        let fr := bits c.desc 111 97
        let fv := bit c.desc 118
        let fx := getRing s fr
        let fq := fenceSeq fx (bits c.desc 95 64)
        if fv && (fx.st == .off || fx.part.toNat != c.part) then faultCmd s c 0x0016 111 0
        else if fv && fenceState s fr fq == .gone then faultCmd s c 0x000A 95 0
        else if refusesWork s c.part && ([0x01, 0x03, 0x04, 0x05] : List Nat).contains op then finish s r q stRejected
        else if p.st == .fault && needsLaunch op then endNoCore s c
        else
          let a := bits c.desc 511 448
          let blk := if op = 0x20 then hostRead s a 256 else some []
          match blk with
          | none => faultCmd s c 0x0026 0 a
          | some b =>
            let c := { c with launchBlk := b, ready := c.ready && !(op == 0x20 && leNat ((b.drop 12).take 4) != 0) }
            let s := updCmd s r q (fun _ => c)
            let lost := c.cls == clsTimed && (op == 0x03 || op == 0x04) && ((handleIn c).bind (openHandle s c.part)).isNone
            let adm : Option (Bool × Nat) := if c.cls == clsTimed then (admitTimed s c).map (fun n => (true, n)) else some (false, 0)
            if lost then faultCmd s c 0x0003 511 0
            else match adm with
            | none => finish s r q stRejected
            | some (t, n) =>
              let s := updCmd s r q (fun c => { c with timed := t, bound := n })
              if fv then resolveFence (pinCmd (updCmd s r q (fun c => { c with wait := .fence fr fq })) r q) r q
              else pinCmd s r q

/-! ## Fetch (R254, R255) -/

/-- Whether a RUNNING ring has a completion slot and a journal entry for one more command (R254, R263). -/
def slotFree (x : Ring) : Bool :=
  let j := journalAt x (nextSeq x)
  x.st == .running && decide ((x.fetched + x.adopt + 2 ^ 32 - x.cqHead) % 2 ^ 32 < ringSize x) && !(j.st == .accepted || j.st == .started)

/-- Whether the descriptor with count FETCHED of a ring can be fetched (R254). -/
def fetchReady (s : State) (r : Nat) : Bool :=
  let x := getRing s r
  slotFree x && !x.held && decide (x.fetched < x.sqTail) && !underReset s .hub && !(getPart s x.part.toNat).waking &&
  decide ((getPart s x.part.toNat).pstate ≤ 1)

/-- A descriptor is accepted: numbered, journalled ACCEPTED, counted (R254, R262). -/
def acceptDesc (s : State) (r : Nat) (b : List Byte) : State :=
  let x := getRing s r
  let q := nextSeq x
  let d : W512 := BitVec.ofNat 512 (leNat b)
  let e : JEntry := { seq := q, digest := BitVec.ofNat 128 (leNat ((sha3 b).take 16)), accept := s.time.ftime,
                      opcode := BitVec.ofNat 8 (bits d 127 120), st := .accepted }
  let s := setRing s r { x with journal := tset x.journal (q % journalSize x) e, fetched := x.fetched + 1, everUp := true }
  let named := ([0x02, 0x03, 0x04, 0x05, 0x06, 0x07, 0x30, 0x32] : List Nat).contains (bits d 127 120)
  { s with cmds := s.cmds ++ [{ ring := r, seq := q, desc := d, cls := x.cls, part := x.part.toNat, func := x.func.toNat, irq := bit d 119,
                                ready := !named, accept := s.time.ftime }] }

/-- Fetch the next descriptor of a ring (R254): a failed read leaves the ring BROKEN (R255). -/
def fetchDesc (s : State) (r : Nat) : State :=
  let x := getRing s r
  match hostRead s (x.sqBase.toNat + 64 * (x.fetched % ringSize x)) 64 with
  | none => raise' (setRing s r { x with st := .broken }) (synRec 0x0015 (some x.part.toNat) uPcie 0 0)
  | some b => decodeCmd (acceptDesc s r b) r (nextSeq x)

/-- The descriptor of an adopted MIGRATE_IN: its code and nothing else (log 29). -/
def migrateDesc : W512 := BitVec.ofNat 512 (0x33 <<< 120)

/-- DIGEST of a descriptor (R262). -/
def descDigest (d : W512) : W128 := BitVec.ofNat 128 (leNat ((sha3 (natLE 64 d.toNat)).take 16))

/-- Accept one adopted command (R388): it takes a sequence number and a slot of the ring; the MIGRATE_IN completes
at once. -/
def adoptOne (s : State) (r : Nat) (a : Adopt) : State :=
  let x := getRing s r
  let q := nextSeq x
  let d := match a.notice with | some n => n.desc | none => migrateDesc
  let dig := match a.notice with | some n => descDigest n.desc | none => a.digest
  let e : JEntry := { seq := q, digest := dig, accept := s.time.ftime, opcode := BitVec.ofNat 8 (bits d 127 120), st := .accepted }
  let s := setRing s r { x with journal := tset x.journal (q % journalSize x) e, adopt := x.adopt + 1, adoptQ := x.adoptQ.drop 1, everUp := true }
  let s := { s with cmds := s.cmds ++ [{ ring := r, seq := q, desc := d, cls := x.cls, part := x.part.toNat, func := x.func.toNat, irq := bit d 119,
                                         ready := false, accept := s.time.ftime, adopted := some dig, handle := a.handle, notice := a.notice }] }
  match a.notice with
  | some _ => (match findCmd s r q with
    | some c => if (getPart s c.part).st == .fault && needsLaunch (opcodeOf c) then endNoCore s c else s
    | none => s)
  | none => complete s r q { status := stMigrated, result := (a.handle.toNat <<< 96) + (a.primary.toNat <<< 64) }

/-- Accept adopted commands while the ring has room (R388, R254), at most `n`. -/
def adoptGo (s : State) (r : Nat) : Nat → State
  | 0 => s
  | n + 1 => match (getRing s r).adoptQ with
    | [] => s
    | a :: _ => if slotFree (getRing s r) then adoptGo (adoptOne s r a) r n else s

/-- Accept the adopted commands that wait for a ring. -/
def adoptAll (s : State) (r : Nat) : State := adoptGo s r (getRing s r).adoptQ.length

/-- DESCRIPTOR_FETCH (R254); adopted commands that wait for the ring go first (R388, log 29). -/
def execDescriptorFetch (r : Nat) (s : State) : Host.Outcome State Fault Refusal :=
  if 32768 ≤ r then .fault .noSuchUnit
  else if !(getRing s r).adoptQ.isEmpty && slotFree (getRing s r) then .next (adoptAll s r)
  else if fetchReady s r then .next (fetchDesc s r) else .next s

/-- FENCE_PREDECESSOR_DONE (R213): a command whose predecessor has ended goes on or is cancelled. -/
def execFencePredecessorDone (r q : Nat) (s : State) : Host.Outcome State Fault Refusal := .next (resolveFence s r q)

/-! ## Starts (R263, R273, R281) -/

/-- The commands accepted before (ring, sequence number), in order of acceptance. -/
def earlier (s : State) (r q : Nat) : List Cmd := s.cmds.takeWhile (fun c => !(c.ring == r && c.seq == q))

/-- Whether a FENCE of the same ring accepted earlier still holds a command (R281). -/
def heldByFence (s : State) (r q : Nat) : Bool := (earlier s r q).any (fun c => c.ring == r && opcodeOf c == 0x40)

/-- The accepted command with code `op` that its row can start now (R263, R281, R362). -/
def runnable (s : State) (r q op : Nat) : Option Cmd :=
  match findCmd s r q with
  | none => none
  | some c =>
    if opcodeOf c = op ∧ c.started = false ∧ c.wait = .none ∧ c.ready = true ∧ heldByFence s r q = false ∧ underReset s .hub = false
    then some c else none

/-- Whether a session command can start (R273, R142, R391): earlier commands of its session have started, and
a PREFILL or DECODE waits for every earlier step, a CLOSE_SESSION or MIGRATE_OUT for every earlier command, and
none starts behind a MIGRATE_OUT or while the session is FENCED. -/
def sessionTurn (s : State) (c : Cmd) (h : W32) : Bool :=
  let before := (earlier s c.ring c.seq).filter (fun x => x.part == c.part && handleIn x == some h)
  let op := opcodeOf c
  let isStep := fun (x : Cmd) => opcodeOf x == 0x03 || opcodeOf x == 0x04
  let y := getSess s (bits h 17 0)
  !(y.st == .fenced && y.gen.toNat == bits h 31 18) && before.all (fun x => x.started && opcodeOf x != 0x32) && !((op == 0x03 || op == 0x04) && before.any isStep) && !((op == 0x02 || op == 0x32) && !before.isEmpty)

/-- SESSION_COMMAND_START (R273): a session command's turn comes. -/
def execSessionCommandStart (r q : Nat) (s : State) : Host.Outcome State Fault Refusal :=
  match findCmd s r q with
  | none => .next s
  | some c =>
    if c.ready then .next s
    else match handleIn c with
      | none => .next (updCmd s r q (fun c => { c with ready := true }))
      | some h => if c.wait = .none ∧ sessionTurn s c h then .next (updCmd s r q (fun c => { c with ready := true })) else .next s

end Sys2Proof.Machine
end

