-- ==== Sys2Proof/Machine/Window.lean ====
section
/-! DEFINITION. The fixed window (02): partial entries, anchors, exact accumulation, combination, output
conversion and the residue. -/

namespace Sys2Proof.Machine

open Sys2Proof

/-- A two's complement field of `w` bits read as an integer. -/
def signed (w n : Nat) : Int := if n % 2 ^ w < 2 ^ (w - 1) then ((n % 2 ^ w : Nat) : Int) else ((n % 2 ^ w : Nat) : Int) - (2 ^ w : Nat)

/-- An integer as a two's complement field of `w` bits. -/
def unsigned (w : Nat) (x : Int) : Nat := (x % ((2 ^ w : Nat) : Int)).toNat

/-- The entry a 128-bit word holds; an empty entry's other fields are ignored (R24, R25). -/
def entryOf (n : Nat) : Entry :=
  if nbits n 111 96 = 0x8000 then {}
  else { nan := n.testBit 127, pinf := n.testBit 126, ninf := n.testBit 125, sticky := nbits n 124 112,
         anchor := some (signed 16 (nbits n 111 96)), win := signed 96 (nbits n 95 0) }

/-- The 128-bit word of an entry (R24). The spec does not say what stands for an anchor above +32,767: the field holds its low 16
bits, and of +32,768 those mark the entry empty (DESIGN CHOICE, log 85). -/
def entryWord (e : Entry) : Nat :=
  match e.anchor with
  | none => 0x8000 <<< 96
  | some a =>
    (b2n e.nan <<< 127) + (b2n e.pinf <<< 126) + (b2n e.ninf <<< 125) + ((e.sticky % 8192) <<< 112) +
    (unsigned 16 a <<< 96) + unsigned 96 e.win

/-- The 16 bytes of an entry (R24, R6). -/
def entryBytes (e : Entry) : List Byte := natLE 16 (entryWord e)

/-- The residue modulo 255 of a window as a signed integer (R35). -/
def residue (w : Int) : Nat := (w % 255).toNat

/-- The residue byte of the WINDOW field of 16 stored bytes (R63). -/
def residueOf (bs : List Byte) : Byte := BitVec.ofNat 8 (residue (signed 96 (leNat (bs.take 12))))

/-- Division by 2^k toward zero, and whether it was inexact. -/
def truncShift (w : Int) (k : Nat) : Int × Bool :=
  let m := w.natAbs >>> k
  (if w < 0 then -(m : Int) else m, w.natAbs % 2 ^ k != 0)

/-- Bring a 97-bit sum back into the window (R26). -/
def fitWindow (w : Int) (a : Int) (st : Nat) : Int × Int × Nat :=
  if w < -(2 ^ 95 : Int) ∨ w ≥ (2 ^ 95 : Int) then
    let (q, odd) := truncShift w 1
    (q, a + 1, st + b2n odd)
  else (w, a, st)

/-- Combine two partial entries (R26). -/
def combine (p q : Entry) : Entry :=
  match p.anchor, q.anchor with
  | none, _ => q
  | _, none => p
  | some pa, some qa =>
    let a := if pa ≤ qa then qa else pa
    let (pw, pi) := truncShift p.win (a - pa).toNat
    let (qw, qi) := truncShift q.win (a - qa).toNat
    let (w, a, st) := fitWindow (pw + qw) a (p.sticky + q.sticky + b2n pi + b2n qi)
    { nan := p.nan || q.nan, pinf := p.pinf || q.pinf, ninf := p.ninf || q.ninf,
      sticky := Nat.min st 8191, anchor := some a, win := w }

/-- A product of two elements with the sum of their scale exponents, or none where a scale is NaN (R20). -/
def product (a w : Val) (sc : Option Int) : Val :=
  match sc, a, w with
  | none, _, _ => .nan
  | _, .nan, _ => .nan
  | _, _, .nan => .nan
  | _, .inf s, .inf t => .inf (s != t)
  | _, .inf s, .fin t n _ => if n = 0 then .nan else .inf (s != t)
  | _, .fin s m _, .inf t => if m = 0 then .nan else .inf (s != t)
  | some x, .fin s m e, .fin t n f => .fin (s != t) (m * n) (e + f + x)

/-- The aligned product q = trunc(p × 2^(95 − A)) and whether it was truncated (R23). -/
def alignProduct (neg : Bool) (mag : Nat) (ex a : Int) : Int × Bool :=
  let (q, cut) := truncTo mag ex (a - 95)
  (if neg then -(q : Int) else q, cut)

/-- Add one product to an accumulation at anchor `a` (R20, R23). -/
def addProduct (a : Int) (e : Entry) (p : Val) : Entry :=
  match p with
  | .nan => { e with nan := true }
  | .inf s => if s then { e with ninf := true } else { e with pinf := true }
  | .fin s m x =>
    let (q, cut) := alignProduct s m x a
    { e with win := e.win + q, sticky := Nat.min (e.sticky + b2n cut) 8191 }

/-- Accumulate products at the element's own anchor, into an existing entry if there is one (R23, R27). -/
def accumulate (into : Entry) (own : Int) (ps : List Val) : Entry :=
  match into.anchor with
  | none => ps.foldl (addProduct own) { anchor := some own }
  | some pa =>
    if own ≤ pa then
      let e := ps.foldl (addProduct pa) into
      let (w, a, st) := fitWindow e.win pa e.sticky
      { e with win := w, anchor := some a, sticky := Nat.min st 8191 }
    else combine into (ps.foldl (addProduct own) { anchor := some own })

/-- One operand vector along K: format, element values, and the scale byte of each 32-block (none for
formats or instructions without block scales). -/
structure OpVec where
  fmt    : Nat
  els    : List Val
  scales : Option (List Nat)
  deriving DecidableEq, Repr, Inhabited

/-- The maximum of a list of integers, if it is not empty. -/
def maxInt? : List Int → Option Int
  | [] => none
  | x :: t => some (t.foldl (fun a b => if a ≤ b then b else a) x)

/-- e(x) = floor(log2 |x|) + 1 of a nonzero finite element (R21), of a subnormal of BF16 or FP16 too (DEDUCED, log 83). -/
def expOf : Val → Option Int
  | .fin _ m e => if m = 0 then none else some (magLog m e + 1)
  | _ => none

/-- The least exponent of a format's nonzero elements, as e(x) (R21). -/
def minExp (f : Nat) : Int :=
  match ffmt f with
  | some ff => 1 - ff.bias - ff.mb + 1
  | none => 1

/-- The sums of the scale exponents of the blocks, none where a scale is NaN (R18, R20). -/
def blockExps (a w : List Nat) : List (Option Int) :=
  List.zipWith (fun x y => if x = 0xFF ∨ y = 0xFF then none else some (((x + y : Nat) : Int) - 254)) a w

/-- maxE of an output element (R21). -/
def maxE (a w : OpVec) : Int :=
  match a.scales, w.scales with
  | some sa, some sw =>
    let p := fmtPe a.fmt + fmtPe w.fmt
    match maxInt? ((blockExps sa sw).filterMap id) with
    | some m => m + p
    | none => p - 254
  | _, _ =>
    if fmtGroup a.fmt = 2 then
      match maxInt? ((List.zipWith (fun x y => match expOf x, expOf y with
          | some e, some f => some (e + f) | _, _ => none) a.els w.els).filterMap id) with
      | some m => m
      | none => minExp a.fmt + minExp w.fmt
    else fmtPe a.fmt + fmtPe w.fmt

/-- The anchor of an output element (R21). -/
def anchorOf (a w : OpVec) : Int := maxE a w + 13

/-- The anchor of a preset entry over K_total positions (R28). -/
def presetAnchor (a w : OpVec) (k : Nat) : Int :=
  let c : Int := clog2 k + 1
  maxE a w + (if c ≤ 13 then 13 else c)

/-- The products of two operand vectors with their block exponents (R20). -/
def products (a w : OpVec) : List Val :=
  let sc : List (Option Int) := match a.scales, w.scales with
    | some sa, some sw => blockExps sa sw
    | _, _ => []
  (List.zip a.els w.els).zipIdx.map (fun ((x, y), i) =>
    product x y (match a.scales with | some _ => nth none sc (i / 32) | none => some 0))

/-- The entry of one output element (R21 to R27). -/
def dot (into : Entry) (a w : OpVec) : Entry := accumulate into (anchorOf a w) (products a w)

/-- V, the value of an entry: its window, or the special value its flags give (R29, R31). The spec gives an empty entry no value: it is taken
as +0 (DESIGN CHOICE, log 84). -/
def entryVal (e : Entry) : Val :=
  if e.nan || (e.pinf && e.ninf) then .nan
  else if e.pinf then .inf false
  else if e.ninf then .inf true
  else match e.anchor with
    | none => .fin false 0 0
    | some a => .fin (decide (e.win < 0)) e.win.natAbs (a - 95)

/-- V × r_m × c_n (R19). -/
def perChannel (v r c : Val) : Val :=
  match v, r, c with
  | .nan, _, _ => .nan
  | _, .nan, _ => .nan
  | _, _, .nan => .nan
  | _, .inf _, _ => .nan
  | _, _, .inf _ => .nan
  | .inf s, .fin t m _, .fin u n _ => if m = 0 ∨ n = 0 then .nan else .inf ((s != t) != u)
  | .fin s k x, .fin t m y, .fin u n z =>
    if m = 0 ∨ n = 0 then .fin false 0 0 else .fin ((s != t) != u) (k * m * n) (x + y + z)

/-- One row of outputs as bytes: 32-element blocks with their scale bytes for codes 0x0 to 0x6, plain
elements otherwise (R30, R31, R115, R117). -/
def convertRow (fo : Nat) (nanMode : Bool) (vs : List Val) : List Byte :=
  if fmtBlock fo then
    (chunks 32 vs).flatMap (fun b =>
      let (x, es) := roundBlock fo nanMode b
      packEls fo es ++ [BitVec.ofNat 8 x])
  else packEls fo (vs.map (storeEl fo nanMode))

end Sys2Proof.Machine
end

