-- ==== Sys2Proof/Machine/Collective.lean ====
section
/-! DEFINITION. The collective engine (R181, R182, R206, R328 to R330): contributions, the two algorithms, the
reductions, and the completion of a collective at this member. An element is a number: an FP32 word, a window with
its flags above bit 95, or a byte. -/

namespace Sys2Proof.Machine

open Sys2Proof

/-! ## Elements (R328) -/

/-- The bytes of elements of a type: a DTYPE 0x1 body holds the windows, then three flag bits each. -/
def elemBytes (dt : BitVec 4) (es : List Nat) : List Byte :=
  if dt = 0 then es.flatMap (natLE 4)
  else if dt = 1 then
    es.flatMap (fun e => natLE 12 (e % 2 ^ 96)) ++ natLE (ceilDiv (3 * es.length) 8) (es.zipIdx.foldl (fun n e => n + (((e.1 >>> 96) % 8) <<< (3 * e.2))) 0)
  else es.map (BitVec.ofNat 8)

/-- The elements a body of `n` elements holds. -/
def bytesElems (dt : BitVec 4) (n : Nat) (d : List Byte) : List Nat :=
  if dt = 0 then (List.range n).map (fun i => leNat ((d.drop (4 * i)).take 4))
  else if dt = 1 then
    let flags := leNat (d.drop (12 * n))
    (List.range n).map (fun i => leNat ((d.drop (12 * i)).take 12) + (((flags >>> (3 * i)) % 8) <<< 96))
  else (d.take n).map (·.toNat)

/-- Bytes of one element on the wire, rounded up. -/
def elemSize (dt : BitVec 4) : Nat := if dt = 0 then 4 else if dt = 1 then 13 else 1

/-- The FP32 values of reduced elements: words, or windows at their anchors, converted once under R29 (R182). -/
def elemRows (dt : BitVec 4) (as_ : List Int) (es : List Nat) : List W32 :=
  if dt = 1 then
    (List.zip es as_).map (fun e => toF32 (entryVal { nan := (e.1 >>> 96).testBit 2, pinf := (e.1 >>> 96).testBit 1, ninf := (e.1 >>> 96).testBit 0,
                                                      anchor := some e.2, win := signed 96 (e.1 % 2 ^ 96) }))
  else es.map (BitVec.ofNat 32)

/-- This member's contribution to the FP32 reduction of a layer's output projection, in row order (R181). -/
def partialElems (dig : List W256) (l : Nat) (att : List (List W32)) : List Nat := att.flatMap (fun a => (Config.project dig l a).map (·.toNat))

/-- This member's activation block scales for the output projection, row by row (R182 step 1). -/
def scaleElems (dig : List W256) (l : Nat) (att : List (List W32)) : List Nat := att.flatMap (fun a => (Config.actScales dig l a).map (·.toNat))

/-- The block scales of row `i` over the whole K (R182 step 2): the parts of all members in ascending rank. -/
def rowScales (segs : List (List Nat)) (n i : Nat) : List Nat := segs.flatMap (fun g => (g.drop (g.length / n * i)).take (g.length / n))

/-- The anchors MXSCAN forms for a row over the whole K (R28, R21, R182 step 2): one for each of `n` columns. -/
def scanAnchors (set : W16) (l n : Nat) (sc : List Nat) : List Int :=
  (List.range n).map (fun col =>
    let off := Config.projOffset set l
    let es := sc.zipIdx.filterMap (fun e =>
      let w := (Config.projScale set l col e.2).toNat
      if e.1 = 255 ∨ w = 255 then none else some ((e.1 : Int) + w - 254 + off))
    (maxInt? es).getD (off - 254) + (Nat.max 13 (clog2 (32 * sc.length) + 1) : Nat))

/-- This member's contribution to a reduction in exact mode, with its anchors (R182 steps 3 and 4). -/
def exactElems (dig : List W256) (l : Nat) (rows : List (List W32 × List Int)) : List Nat × List Int :=
  (rows.flatMap (fun r => (Config.projectWin dig l r.1 r.2).map (fun e => e.1.toNat + (e.2.toNat <<< 96))), rows.flatMap (·.2))

/-! ## Reduction (R181, R182, R329) -/

/-- The sum of two elements: FP32 rounded, or the windows as integers with the OR of the flags. -/
def addElem (dt : BitVec 4) (a b : Nat) : Nat :=
  if dt = 1 then (a % 2 ^ 96 + b % 2 ^ 96) % 2 ^ 96 + (((a >>> 96) ||| (b >>> 96)) <<< 96)
  else (fadd (BitVec.ofNat 32 a) (BitVec.ofNat 32 b)).toNat

/-- The serial sum of contributions in ascending rank; an empty contribution adds nothing (R206). -/
def reduceList (dt : BitVec 4) (l : List (List Nat)) : List Nat :=
  match l.filter (fun x => !x.isEmpty) with
  | [] => []
  | x :: t => t.foldl (fun a b => List.zipWith (addElem dt) a b) x

/-- The elements a rank owns of `e` across `n` ranks (R329). -/
def ownedRange (e n r : Nat) : Nat × Nat := (r * e / n, (r + 1) * e / n - r * e / n)

/-- Bytes of a contribution of `n` elements (R328). -/
def contribBytes (dt : BitVec 4) (n : Nat) : Nat := if dt = 1 then 12 * n + ceilDiv (3 * n) 8 else n * elemSize dt

/-- Whether a contribution of a vector of `n` elements is sent whole to every member (R329): at most 64 KiB. -/
def isDirect (dt : BitVec 4) (n : Nat) : Bool := decide (contribBytes dt n ≤ 65536)

/-- Whether a collective is that of a job and number. -/
def isColl (ji : Nat) (q : W16) (c : Coll) : Bool := c.job == ji && c.seq == q

/-- The parts of a rank and phase, in ascending element order, when all that its TOTAL announces is there (R330). -/
def wholeFrom (c : Coll) (rank phase : Nat) : Option (List Nat) :=
  let ps := c.got.filter (fun p => p.rank == rank && p.phase == phase)
  match ps with
  | [] => none
  | p :: _ =>
    let all := ps.foldl (fun (t : Tbl Nat) p => p.elems.zipIdx.foldl (fun t e => tset t (p.base + e.2) e.1) t) []
    if all.length = p.total then some (all.map (·.2)) else none

/-- Every rank's whole part of a phase, this member's own given. -/
def allFrom (j : Job) (c : Coll) (phase : Nat) (own : List Nat) : Option (List (List Nat)) :=
  (List.range j.members.length).mapM (fun r => if r = j.rank.toNat then some own else wholeFrom c r phase)

/-- The result of a collective at this member, once it is complete (R329, R330). -/
def collResult (s : State) (c : Coll) : Option (List Nat) :=
  let j := getJob s c.job
  match c.mine with
  | none => none
  | some m =>
    let (lo, n) := ownedRange c.len j.members.length j.rank.toNat
    if c.op = 1 then
      if isDirect c.dtype c.len then (allFrom j c 0 m).map (reduceList c.dtype)
      else c.seg.bind (fun g => (allFrom j c 1 g).map List.flatten)
    else if c.op = 2 then (allFrom j c 0 ((m.drop lo).take n)).map (reduceList c.dtype)
    else (allFrom j c 0 (if c.op = 3 then m else (m.drop lo).take n)).map List.flatten

/-- The segments of a complete all-gather, by rank (R329). -/
def gathered3 (s : State) (c : Coll) : Option (List (List Nat)) := c.mine.bind (fun m => allFrom (getJob s c.job) c 0 m)

/-! ## Sending -/

/-- Elements of one packet: a body of at most 65,536 bytes with its header. -/
def perPacket (dt : BitVec 4) : Nat := (65536 - 32) / elemSize dt

/-- Send elements to one member, from element `base`, as packets; with nothing to send still one header (R206, R330). -/
def sendElems (s : State) (ji : Nat) (dst : W16) (c : Coll) (phase base : Nat) (es : List Nat) : State :=
  let j := getJob s ji
  let hdr := fun (b n : Nat) => ({ seq := c.seq, op := c.op, dtype := c.dtype, phase := BitVec.ofNat 4 phase, rank := j.rank, nranks := j.nmemb,
                                   base := BitVec.ofNat 32 b, nelem := BitVec.ofNat 32 n, total := BitVec.ofNat 32 es.length } : CollHdr)
  let parts := if es.isEmpty then [[]] else chunks (perPacket c.dtype) es
  parts.zipIdx.foldl (fun s e =>
    send s j.part.toNat dst chColl pkCollective j.jobId 0 0 (.coll (hdr (base + e.2 * perPacket c.dtype) e.1.length) (elemBytes c.dtype e.1))) s

/-- The parts of a contribution that go to the other members (R329): whole, or to each owner its elements. -/
def sendContribution (s : State) (ji : Nat) (c : Coll) (m : List Nat) : State :=
  let j := getJob s ji
  let whole := c.op = 3 || (c.op = 1 && isDirect c.dtype c.len)
  (j.members.zipIdx.filter (fun e => e.2 != j.rank.toNat)).foldl (fun s e =>
    let (lo, n) := ownedRange c.len j.members.length e.2
    if whole then sendElems s ji e.1 c 0 0 m else sendElems s ji e.1 c 0 lo ((m.drop lo).take n)) s

/-- The owner's step of the two-phase algorithm (R329): once every rank's part of its elements is here, it reduces
them once and sends the result to every member. -/
def ownerStep (s : State) (ji : Nat) (q : W16) : State :=
  let j := getJob s ji
  match s.fab.colls.find? (isColl ji q) with
  | none => s
  | some c => match c.mine, c.seg with
    | some m, none =>
      if c.op ≠ 1 ∨ isDirect c.dtype c.len then s
      else
        let (lo, n) := ownedRange c.len j.members.length j.rank.toNat
        match allFrom j c 0 ((m.drop lo).take n) with
        | none => s
        | some l =>
          let g := reduceList c.dtype l
          let s := { s with fab := { s.fab with colls := updFirst (isColl ji q) (fun c => { c with seg := some g }) s.fab.colls } }
          (others j).foldl (fun s e => sendElems s ji e c 1 lo g) s
    | _, _ => s

/-- Start a collective of a job over a vector of `e` elements (R328): this member's contribution, which may be empty (R206), after which
it may hold parts that came early. -/
def startColl (s : State) (ji : Nat) (op : Byte) (dt : BitVec 4) (e : Nat) (m : List Nat) (as_ : List Int) : State × Nat :=
  let j := getJob s ji
  let q := j.collSeq
  let early := match s.fab.colls.find? (isColl ji q) with | some c => c.got | none => []
  let c : Coll := { job := ji, seq := q, op := op, dtype := dt, len := e, mine := some m, got := early, anchors := as_ }
  let s := setJob s ji { j with collSeq := q + 1, abandoned := j.abandoned.filter (fun a => a != q) }
  let s := { s with fab := { s.fab with colls := (s.fab.colls.filter (fun c => !isColl ji q c)) ++ [c] } }
  (ownerStep (sendContribution s ji c m) ji q, q.toNat)

/-- Take a part of a collective (R330): parts of an abandoned one, and parts of a job that is not ACTIVE, are
discarded; a part that comes before this member takes part is held. -/
def takePiece (s : State) (ji : Nat) (h : CollHdr) (body : List Byte) : State :=
  let j := getJob s ji
  if j.st ≠ .active ∨ j.abandoned.contains h.seq then s
  else
    let p : CollPiece := { rank := h.rank.toNat, phase := h.phase.toNat, base := h.base.toNat, total := h.total.toNat,
                           elems := bytesElems h.dtype h.nelem.toNat body }
    let cs := if s.fab.colls.any (isColl ji h.seq) then s.fab.colls
      else s.fab.colls ++ [{ job := ji, seq := h.seq, op := h.op, dtype := h.dtype }]
    let s := { s with fab := { s.fab with colls := updFirst (isColl ji h.seq) (fun c => { c with got := c.got ++ [p] }) cs } }
    ownerStep s ji h.seq

end Sys2Proof.Machine
end

