-- ==== Sys2Proof/Machine/Flash.lean ====
section
/-! DEFINITION. What module flash and replay-protected storage hold (R398 to R412): the checks on a firmware image,
configuration records, the records the device writes, and the measurements. -/

namespace Sys2Proof.Machine

open Sys2Proof

/-! ## Firmware images (R399, R400) -/

/-- COMPONENT code of an image (R399). -/
def componentCode (c : Component) : Nat := match c with | .hub => 1 | .mgc => 2

/-- The signed bytes of an image header, 0x000 to 0x55F (R399). -/
def signedHeader (m : FwImage) : List Byte :=
  natLE 4 m.magic.toNat ++ natLE 2 m.format.toNat ++ natLE 2 m.component.toNat ++ natLE 4 m.svn.toNat ++ natLE 4 m.flags.toNat ++
  natLE 8 m.version.toNat ++ natLE 4 m.length.toNat ++ padTo 4 m.reserved ++ natLE 32 m.digest.toNat ++ padTo 1312 m.key

/-- The whole 4 KiB header (R399). -/
def headerBytes (m : FwImage) : List Byte := signedHeader m ++ padTo 2420 m.sig ++ padTo 300 (m.reserved.drop 4)

/-- The counter of a component in replay-protected storage (R404). -/
def svnOf (s : State) (c : Component) : W32 := match c with | .hub => s.mgc.hubSvn | .mgc => s.mgc.mgcSvn

/-- Whether a ROM accepts an image as a component (R400). -/
def imageOk (s : State) (c : Component) (m : FwImage) : Bool :=
  m.magic == 0x47574657 && m.format == 1 && m.component.toNat == componentCode c && m.flags == 0 && m.reserved.all (· == 0) &&
  sha3w m.key == Config.romKeyDigest && Config.mlDsaVerify m.key (sha3 (signedHeader m)) m.sig &&
  m.length.toNat == m.payload.length && sha3w m.payload == m.digest && decide ((svnOf s c).toNat ≤ m.svn.toNat)

/-- The image in a flash slot: A (false) or B (true). -/
def slotImage (s : State) (c : Component) (b : Bool) : Option FwImage :=
  match c, b with
  | .hub, false => s.mgc.hubA | .hub, true => s.mgc.hubB
  | .mgc, false => s.mgc.mgcA | .mgc, true => s.mgc.mgcB

/-- Put an image into a flash slot. -/
def putImage (s : State) (c : Component) (b : Bool) (m : Option FwImage) : State :=
  { s with mgc := match c, b with
    | .hub, false => { s.mgc with hubA := m } | .hub, true => { s.mgc with hubB := m }
    | .mgc, false => { s.mgc with mgcA := m } | .mgc, true => { s.mgc with mgcB := m } }

/-- The preferred slot of a component (R401). -/
def preferred (s : State) (c : Component) : Bool := match c with | .hub => s.mgc.hubPref | .mgc => s.mgc.mgcPref

/-- The slot whose image runs. -/
def runningSlot (s : State) (c : Component) : Option Bool := match c with | .hub => s.mgc.hubRun | .mgc => s.mgc.mgcRun

/-- The image that runs. -/
def runningImage (s : State) (c : Component) : Option FwImage := (runningSlot s c).bind (slotImage s c)

/-- Whether a slot holds an image that passes R400. -/
def slotOk (s : State) (c : Component) (b : Bool) : Bool := match slotImage s c b with | some m => imageOk s c m | none => false

/-- The slot a ROM boots: the preferred one first, then the other (R401). -/
def bootSlot (s : State) (c : Component) : Option Bool :=
  let p := preferred s c
  if slotOk s c p then some p else if slotOk s c (!p) then some (!p) else none

/-! ## Configuration records (R406 to R408) -/

/-- The signed bytes of a configuration record (R406, log 25). -/
def recordBytes (r : CfgRecord) : List Byte :=
  natLE 1 r.type.toNat ++ natLE 1 r.signer.toNat ++ natLE 4 r.seq.toNat ++ natLE 16 r.body.toNat

/-- Whether the signature of a record holds (R406): Gyvowell records under the firmware-signing key, device records
under the DeviceID key. -/
def recordOk (key : List Byte) (r : CfgRecord) : Bool :=
  if r.signer == 0 then Config.mlDsaVerify key (sha3 (recordBytes r)) r.sig
  else r.signer == 1 && decide (r.type.toNat ≤ 2) && Config.mlDsaVerify (Config.mlDsaKey Config.deviceSecret) (sha3 (recordBytes r)) r.sig

/-- The records whose signatures hold (R406). -/
def validRecords (s : State) (key : List Byte) : List CfgRecord := s.mgc.cfgRecs.filter (recordOk key)

/-- The latest record of a type and signer. -/
def latestRec (l : List CfgRecord) (type signer : Nat) : Option CfgRecord :=
  l.foldl (fun acc r =>
    if r.type.toNat = type ∧ r.signer.toNat = signer then
      (match acc with
       | none => some r
       | some a => if a.seq.toNat ≤ r.seq.toNat then some r else some a)
    else acc) none

/-- The masks in force of a type (R407): the Gyvowell mask, and the device mask where no later Gyvowell record has
taken it back. -/
def masksOf (l : List CfgRecord) (type : Nat) : W128 × W128 :=
  match latestRec l type 0, latestRec l type 1 with
  | none, none => (0, 0)
  | some g, none => (g.body, 0)
  | none, some d => (0, d.body)
  | some g, some d => (g.body, if g.seq.toNat ≤ d.seq.toNat then d.body else 0)

/-- Write a device record of a type that adds fences (R407): CFG_SEQ advances with it, and the mask is cumulative over the device mask in
force, so that no fence comes back which a later Gyvowell record has removed. -/
def writeDevRec (s : State) (type : Nat) (mask : W128) : State :=
  let old := (masksOf s.mgc.cfgRecs type).2
  let r : CfgRecord := { type := BitVec.ofNat 8 type, signer := 1, seq := s.mgc.cfgSeq + 1, body := old ||| mask, sig := [] }
  let r := { r with sig := Config.mlDsaSign Config.deviceSecret (sha3 (recordBytes r)) }
  { s with mgc := { s.mgc with cfgSeq := s.mgc.cfgSeq + 1, cfgRecs := s.mgc.cfgRecs ++ [r] } }

/-! ## Measurements (R412) -/

/-- Insert a record in SEQ order. -/
def insertRec (r : CfgRecord) : List CfgRecord → List CfgRecord
  | [] => [r]
  | x :: t => if r.seq.toNat < x.seq.toNat then r :: x :: t else x :: insertRec r t

/-- The digest of an image: header and payload. -/
def imageDigest (m : Option FwImage) : W256 := match m with | some m => sha3w (headerBytes m ++ m.payload) | none => 0

/-- Measurements 1 to 5 as a boot takes them (R412). -/
def bootMeasurements (s : State) (key : List Byte) : List W256 :=
  [ Config.romMeasurement, imageDigest (runningImage s .hub), imageDigest (runningImage s .mgc),
    sha3w (((validRecords s key).foldl (fun acc r => insertRec r acc) []).flatMap recordBytes),
    sha3w (natLE 4 s.mgc.hubSvn.toNat ++ natLE 4 s.mgc.mgcSvn.toNat ++ natLE 4 s.mgc.cfgSeq.toNat) ]

/-- The Alias seed (R410). -/
def aliasSeedOf (ms : List W256) : W256 :=
  sha3w (natLE 32 Config.deviceSecret.toNat ++ ms.flatMap (fun m => natLE 32 m.toNat))

/-- STATE code of a partition entry (R224). -/
def partCode (x : PartState) : Nat := match x with | .off => 0 | .settingUp => 1 | .ready => 2 | .tearing => 3 | .fault => 4

/-- PART_CFG of a partition as a 128-bit number (R224). -/
def partWord (x : Part) : Nat :=
  (b2n x.enable <<< 127) + (b2n x.ideReq <<< 126) + (partCode x.st <<< 119) + (x.tileBase.toNat <<< 116) + (x.tiles.toNat <<< 114) +
  (x.keySlot.toNat <<< 108) + (x.powerShare.toNat <<< 98) + (x.workNear.toNat <<< 76) + (x.workFar.toNat <<< 55)

/-- Measurements 6 and 7 of a partition (R412); a set is resident with all its plates (R300). -/
def partMeasurement (s : State) (p index : Nat) : W256 :=
  if index = 6 then sha3w (natLE 4 (b2n s.dev.isolate) ++ natLE 16 (partWord (getPart s p)))
  else sha3w ((s.psets.filter (fun x => x.part == p && x.st != .loading && x.st != .broken)).flatMap (fun x => natLE 2 x.setId.toNat ++ natLE 64 x.header.toNat))

/-- A measurement as a request for it sees it (R412). -/
def measurement (s : State) (p index : Nat) : W256 := if index ≤ 5 then nth 0 s.dev.meas (index - 1) else partMeasurement s p index

end Sys2Proof.Machine
end

