-- ==== Sys2Proof/Machine/Trans.lean ====
section
/-! DEFINITION. The correctly rounded helpers of the Vector engine (R124, R126): reciprocal and
reciprocal square root from exact integer division, 2^x, sine and cosine from fixed-point series of 192
fraction bits. The series decide the rounding of every FP32 result unless a value lies within 2^-150 of
a rounding boundary (log 8). -/

namespace Sys2Proof.Machine

open Sys2Proof

/-- Append a sticky bit below a truncated quotient, so that one rounding of the pair is exact. -/
def sticky (q : Nat) (inexact : Bool) : Nat := 2 * q + b2n inexact

/-- 1/x rounded to FP32 (R124). -/
def frcp (a : W32) : W32 :=
  match val32 a with
  | .nan => nan32
  | .inf s => zero32 s
  | .fin s m e =>
    if m = 0 then inf32 s
    else
      let n := 2 ^ 80
      pack32 s (sticky (n / m) (n % m != 0)) (-80 - e - 1)

/-- Integer square root by bits, from the bit weight 2^k down. -/
def isqrtGo (n : Nat) : Nat → Nat → Nat
  | 0, r => if (r + 1) * (r + 1) ≤ n then r + 1 else r
  | k + 1, r =>
    let t := r + 2 ^ (k + 1)
    isqrtGo n k (if t * t ≤ n then t else r)

/-- floor of the square root of `n`. -/
def isqrt (n : Nat) : Nat := isqrtGo n (n.log2 / 2 + 1) 0

/-- 1/√x rounded to FP32 (R124). -/
def frsq (a : W32) : W32 :=
  match val32 a with
  | .nan => nan32
  | .inf s => if s then nan32 else 0
  | .fin s m e =>
    if m = 0 then inf32 s
    else if s then nan32
    else
      -- make the exponent even: m × 2^e = m' × 2^(2h)
      let (m, e) := if e % 2 = 0 then (m, e) else (2 * m, e - 1)
      let h := e / 2
      -- 1/√m × 2^120 = √(2^240 / m)
      let n := 2 ^ 240
      let q := n / m
      let r := isqrt q
      let exact := n % m == 0 && r * r == q
      pack32 false (sticky r (!exact)) (-120 - h - 1)

/-- Fraction bits of the series. -/
def serBits : Nat := 192

/-- The sum of the Taylor terms of e^t: `k` terms from index `i`, with term value `term`, in units of 2^-192. -/
def expSer (t : Nat) : Nat → Nat → Nat → Nat
  | 0, _, _ => 0
  | k + 1, i, term => term + expSer t k (i + 1) (term * t / 2 ^ serBits / (i + 1))

/-- ln 2 in units of 2^-192, from ln 2 = Σ 1/(k 2^k). -/
def ln2Fix : Nat := ((List.range 220).map (fun k => 2 ^ (serBits + 30) / ((k + 1) * 2 ^ (k + 1)))).foldl (· + ·) 0 / 2 ^ 30

/-- 2^x rounded to FP32 (R124). -/
def fexp2 (a : W32) : W32 :=
  match val32 a with
  | .nan => nan32
  | .inf s => if s then 0 else inf32 false
  | .fin s m e =>
    if m = 0 then 0x3F800000
    else if (e : Int) + m.log2 ≥ 9 then (if s then 0 else inf32 false)
    else
      -- x = n + f / 2^192 with 0 ≤ f < 2^192; the FP32 exponent is at least −149
      let fx : Int := (if s then -(m : Int) else m) * 2 ^ (e + serBits).toNat
      let n := fx / 2 ^ serBits
      let f := (fx % 2 ^ serBits).toNat
      if f = 0 then pack32 false 1 n
      else
        let t := f * ln2Fix / 2 ^ serBits
        let v := expSer t 60 0 (2 ^ serBits)
        pack32 false (sticky v true) (n - serBits - 1)

/-- π in units of 2^-192 by Machin's formula: the sum of `k` terms of arctan(1/d), alternating. -/
def atanInv (d : Nat) : Int :=
  ((List.range 150).map (fun k =>
    let term : Int := ((2 ^ (serBits + 30) / d ^ (2 * k + 1)) / (2 * k + 1) : Nat)
    if k % 2 = 0 then term else -term)).foldl (· + ·) 0

/-- π in units of 2^-192. -/
def piFix : Nat := ((16 * atanInv 5 - 4 * atanInv 239) / 2 ^ 30).toNat

/-- Alternating Taylor sum in units of 2^-192: sine from (i, term) = (1, t), cosine from (0, 1). -/
def trigSer (t : Nat) : Nat → Nat → Int → Int
  | 0, _, _ => 0
  | k + 1, i, term =>
    term + trigSer t k (i + 2) (-(term * t / 2 ^ serBits * t / 2 ^ serBits / ((i + 1) * (i + 2) : Nat)))

/-- Round a fixed-point value that is not exact to FP32. -/
def packFix (neg : Bool) (v : Nat) : W32 := pack32 neg (sticky v true) (-(serBits : Int) - 1)

/-- sin and cos of a quarter-turn angle u × 2π / 2^32 with 0 < u < 2^30, in units of 2^-192. -/
def sinCosQ (u : Nat) : Nat × Nat :=
  let t := u * piFix / 2 ^ 31
  ((trigSer t 60 1 t).toNat, (trigSer t 60 0 (2 ^ serBits)).toNat)

/-- cos(2π phi / 2^32) rounded to FP32 (R126). -/
def fcosTurn (phi : Nat) : W32 :=
  let q := phi / 2 ^ 30
  let u := phi % 2 ^ 30
  if u = 0 then (match q with | 0 => 0x3F800000 | 2 => 0xBF800000 | _ => 0)
  else
    let sc := sinCosQ u
    match q with
    | 0 => packFix false sc.2
    | 1 => packFix true sc.1
    | 2 => packFix true sc.2
    | _ => packFix false sc.1

/-- sin(2π phi / 2^32) rounded to FP32 (R126). -/
def fsinTurn (phi : Nat) : W32 :=
  let q := phi / 2 ^ 30
  let u := phi % 2 ^ 30
  if u = 0 then (match q with | 1 => 0x3F800000 | 3 => 0xBF800000 | _ => 0)
  else
    let sc := sinCosQ u
    match q with
    | 0 => packFix false sc.1
    | 1 => packFix false sc.2
    | 2 => packFix true sc.1
    | _ => packFix true sc.2

/-- FP32 division x / y with one rounding (R277: l2e / temp). -/
def fdiv (a b : W32) : W32 :=
  match val32 a, val32 b with
  | .fin s m e, .fin t n f =>
    if n = 0 then (if m = 0 then nan32 else inf32 (s != t))
    else if m = 0 then zero32 (s != t)
    else
      let k := m * 2 ^ 60
      pack32 (s != t) (sticky (k / n) (k % n != 0)) (e - f - 60 - 1)
  | .nan, _ => nan32
  | _, .nan => nan32
  | .inf _, .inf _ => nan32
  | .inf s, .fin t _ _ => inf32 (s != t)
  | .fin s _ _, .inf t => zero32 (s != t)

end Sys2Proof.Machine
end

