-- ==== Sys2Proof/Machine/Operands.lean ====
section
/-! DEFINITION. What a core's instructions name (04, 05): registers, pads and their rows, slots and their
checks, ports and bank maps, and the stop of a core (R85 to R87). -/

namespace Sys2Proof.Machine

open Sys2Proof

/-! ## Registers (R98, R100) -/

/-- Scalar register `r`: s0 reads zero (R98). -/
def sreg (k : Core) (r : BitVec 5) : W64 := if r = 0 then 0 else tget 0 k.gpr r.toNat

/-- Write scalar register `r`: a write to s0 is discarded (R98). -/
def setSreg (k : Core) (r : BitVec 5) (v : W64) : Core := if r = 0 then k else { k with gpr := tset k.gpr r.toNat v }

/-- Predicate `p`: p0 reads true (R98). -/
def preg (k : Core) (p : BitVec 3) : Bool := if p = 0 then true else bit k.prd p.toNat

/-- Write predicate `p`: a write to p0 is discarded (R98). -/
def setPreg (k : Core) (p : BitVec 3) (v : Bool) : Core := if p = 0 then k else { k with prd := setBit k.prd p.toNat v }

/-- All lanes zero. -/
def zeroLanes : Lanes := Vector.replicate 128 0

/-- Vector register `v` (R122). -/
def vregOf (k : Core) (v : BitVec 5) : Lanes := tget zeroLanes k.vreg v.toNat

/-- Write vector register `v`. -/
def setVreg (k : Core) (v : BitVec 5) (x : Lanes) : Core := { k with vreg := tset k.vreg v.toNat x }

/-- Whether the guard of an instruction holds (R94, R100). -/
def guardOn (k : Core) (h : Hdr) : Bool := preg k h.pred != h.pneg

/-! ## Pads (R58, R59, R63, R64) -/

/-- Row width in bytes of a pad: W and A 128, P 256 (R58). -/
def rowW (pad : Nat) : Nat := if pad = 2 then 256 else 128

/-- Banks of a pad (R58). -/
def padBanks (pad : Nat) : Nat := if pad = 1 then 32 else 16

/-- The pad with a code of R95. -/
def getPad (k : Core) (pad : Nat) : Pad := match pad with | 0 => k.padW | 1 => k.padA | _ => k.padP

/-- Put the pad with a code of R95. -/
def setPad (k : Core) (pad : Nat) (x : Pad) : Core :=
  match pad with | 0 => { k with padW := x } | 1 => { k with padA := x } | _ => { k with padP := x }

/-- Key of a row: bank × 128 + row. -/
def rowKey (bank row : Nat) : Nat := bank * 128 + row

/-- The bytes of a row: zeros while its row-valid bit is clear (R64). -/
def rowBytes (x : Pad) (pad key : Nat) : List Byte :=
  if x.valid.contains key then mreadN x.data (key * rowW pad) (rowW pad) else List.replicate (rowW pad) 0

/-- Write bytes inside one row (R59, R63, R64): a row whose bit is clear is completed with zeros, its bit is
set, an error of the row ends, and P-pad residue bytes are formed from the WINDOW fields. -/
def writeRow (x : Pad) (pad key o : Nat) (d : List Byte) : Pad :=
  let w := rowW pad
  let old := rowBytes x pad key
  let new := old.take o ++ d ++ old.drop (o + d.length)
  let resid := if pad = 2 then
      (List.range 16).foldl (fun m e => mwrite m (key * 16 + e) (residueOf ((new.drop (16 * e)).take 16))) x.resid
    else x.resid
  { x with data := mwriteN x.data (key * w) (new.take w), valid := addSorted key x.valid, bad := tdel x.bad key, resid := resid }

/-- Stored residue byte of entry `e` of a P-pad row; 0 for a row whose bit is clear (R63, R64). -/
def residueAt (x : Pad) (key e : Nat) : Byte := if x.valid.contains key then mread x.resid (key * 16 + e) else 0

/-- A pad whose row-valid bits and slots are cleared: the stored data stays (R64, R91). -/
def clearPad (x : Pad) : Pad := { x with valid := [], slots := [] }

/-! ## Slots (R71 to R77) -/

/-- The slot table entry of a slot reference's pad and slot. -/
def slotOf (k : Core) (pad slot : Nat) : SlotEntry := tget {} (getPad k pad).slots slot

/-- Change a slot table entry. -/
def updSlot (k : Core) (pad slot : Nat) (f : SlotEntry → SlotEntry) : Core :=
  let x := getPad k pad
  setPad k pad { x with slots := tset x.slots slot (f (tget {} x.slots slot)) }

/-- Capacity of a slot in rows: nb × ROW_COUNT (R73). -/
def slotRows (e : SlotEntry) : Nat := e.bankCount.toNat * e.rowCount.toNat

/-- Bank and row of slot row `i` (R73). -/
def slotRow (e : SlotEntry) (i : Nat) : Nat × Nat :=
  let nb := e.bankCount.toNat
  (e.firstBank.toNat + i % nb, e.firstRow.toNat + i / nb)

/-- Key of slot row `i`. -/
def slotKey (e : SlotEntry) (i : Nat) : Nat := let (b, r) := slotRow e i; rowKey b r

/-- Whether a slot covers the row with a key. -/
def covers (e : SlotEntry) (key : Nat) : Bool :=
  let b := key / 128
  let r := key % 128
  e.rowCount != 0 && decide (e.firstBank.toNat ≤ b) && decide (b < e.firstBank.toNat + e.bankCount.toNat) &&
  decide (e.firstRow.toNat ≤ r) && decide (r < e.firstRow.toNat + e.rowCount.toNat)

/-- STATE code (R71). -/
def stateCode (x : SlotState) : Nat := match x with | .empty => 0 | .filling => 1 | .full => 2 | .draining => 3

/-- The 64-bit slot table entry (R71). -/
def slotWord (e : SlotEntry) : Nat :=
  (b2n e.retain <<< 63) + (stateCode e.st <<< 54) + (e.owner.toNat <<< 51) + (e.consumers.toNat <<< 46) +
  (e.producer.toNat <<< 43) + (e.rowCount.toNat <<< 28) + (e.firstRow.toNat <<< 20) + (e.bankCount.toNat <<< 14) +
  (e.firstBank.toNat <<< 9)

/-- The kinds of access of R76. -/
inductive Access where
  | write
  | read
  | update
  deriving DecidableEq, Repr, Inhabited

/-- The outcome of a slot check: pass, a state that can still change, or a failure with its CAUSE code
(R80, R337: 0 state, 1 role, 2 range, 3 overlap, 4 undefined, 5 redefine). -/
inductive Chk where
  | ok
  | wait
  | fail (cause : Nat)
  deriving DecidableEq, Repr, Inhabited

/-- One slot operand of an instruction: its access, the slot rows it touches at run time, and its flag. -/
structure SlotUse where
  pad  : Nat
  slot : Nat
  acc  : Access
  flag : Bool
  r0   : Nat
  n    : Nat
  deriving DecidableEq, Repr, Inhabited

/-- Whether a write of the rows of `u` meets a row of another slot that is not EMPTY (R75). -/
def overlaps (k : Core) (u : SlotUse) : Bool :=
  let e := slotOf k u.pad u.slot
  (getPad k u.pad).slots.any (fun o => o.1 != u.slot && o.2.st != .empty &&
    (List.range u.n).any (fun i => covers o.2 (slotKey e (u.r0 + i))))

/-- Whether an access changes the state of its slot (R76). -/
def changesSlot (u : SlotUse) : Bool := u.acc != .read || u.flag

/-- The engine that holds a slot in a state (R71): OWNER is 0b111 in EMPTY and FULL. -/
def holder (eng : Nat) (st : SlotState) : BitVec 3 :=
  match st with | .empty => 7 | .full => 7 | _ => BitVec.ofNat 3 eng

/-- The entry an access is checked against (R76, R78): the state at the start of the cycle, or, for an access
that changes the state, the state that an instruction issued earlier in this cycle leaves. -/
def seenEntry (k : Core) (u : SlotUse) : SlotEntry :=
  let e := slotOf k u.pad u.slot
  if !changesSlot u then e
  else k.flights.foldl (fun e f => f.evs.foldl (fun e x => match x.2 with
    | .slot p n st => if x.1 == k.cyc && p == u.pad && n == u.slot && (st == .filling || st == .draining || f.eng == 0) then
        { e with st := st, owner := holder f.eng st } else e
    | .define p n d => if x.1 == k.cyc && p == u.pad && n == u.slot then d else e
    | _ => e) e) e

/-- The check of one access by engine `eng` (R75 to R77). Where several checks fail at once the record names the first in this
order; the spec gives none (DESIGN CHOICE, log 87). -/
def checkUse (k : Core) (eng : Nat) (u : SlotUse) : Chk :=
  let e := seenEntry k u
  let prod := e.producer.toNat == eng
  let cons := bit e.consumers eng
  let role := match u.acc with | .write => prod | .read => cons | .update => prod && cons
  if e.rowCount = 0 then .fail 4
  else if !role then .fail 1
  else if slotRows e < u.r0 + u.n then .fail 2
  else if u.acc != .read && overlaps k u then .fail 3
  else match u.acc with
    | .write => if e.st = .empty ∨ (e.st = .filling ∧ e.owner.toNat = eng) then .ok else .wait
    | _ => if e.st = .full then .ok else .wait

/-- The state change of an access at the end of its issue cycle (R76). -/
def issueEv (u : SlotUse) (now : Nat) : List (Nat × FlightEv) :=
  match u.acc with
  | .read => if u.flag then [(now, .slot u.pad u.slot .draining)] else []
  | _ => [(now, .slot u.pad u.slot .filling)]

/-- The later change of an access whose flag is set, at the end of cycle `at_` (R76): FULL after the last
write with CLOSE, EMPTY after the last read with RELEASE. -/
def endEv (u : SlotUse) (at_ : Nat) : List (Nat × FlightEv) :=
  if u.flag then [(at_, .slot u.pad u.slot (if u.acc == .read then .empty else .full))] else []

/-- DETAIL of a pad or slot error (R337). -/
def padDetail (pad bank row port : Nat) (side : Bool) (port2 : Nat) (side2 : Bool) (instr2 slot seen owner eng cause sym : Nat) : BitVec 496 :=
  BitVec.ofNat 496 ((pad <<< 494) + (bank <<< 489) + (row <<< 482) + (port <<< 478) + (b2n side <<< 477) + (port2 <<< 473) +
    (b2n side2 <<< 472) + ((instr2 % 4096) <<< 460) + (slot <<< 454) + (seen <<< 452) + (owner <<< 449) + (eng <<< 446) +
    (cause <<< 443) + (sym <<< 435))

/-- A record of core `c` (R333): its command, the instruction address and the pass. -/
def coreRec (s : State) (c : Nat) (code : W16) (addr pass : Nat) (d : BitVec 496) : Rec :=
  let k := getCore s c
  { code := code, sev := if code == 0x0105 then sevCorrected else sevContained, domain := if code == 0x0105 then 7 else 0,
    part := k.ctx.map (·.part), unitType := uCore, unitId := BitVec.ofNat 16 c,
    cmd := k.ctx.map (fun x => (x.ring, x.seq)), instr := some (addr, pass), detail := d }

/-- The port of an engine on a pad (R65, R132). -/
def portOf (eng pad : Nat) : Nat :=
  match eng, pad with
  | 0, _ => 0
  | 1, 0 => 1 | 1, 1 => 2 | 1, _ => 3
  | 2, 1 => 4 | 2, _ => 5
  | 3, 0 => 6 | 3, 1 => 7 | 3, _ => 8
  | _, 1 => 9 | _, _ => 10

/-- Bank and row that the record of a failed slot check names (log 78): the first row of the access, or the first one that another
slot covers; none of a slot that has no rows. -/
def slotCell (k : Core) (u : SlotUse) (e : SlotEntry) (cause : Nat) : Nat × Nat :=
  if e.rowCount = 0 || e.bankCount = 0 then (0, 0)
  else if cause = 3 then
    slotRow e (u.r0 + ((List.range u.n).find? (fun i => (getPad k u.pad).slots.any (fun o => o.1 != u.slot && o.2.st != .empty &&
      covers o.2 (slotKey e (u.r0 + i))))).getD 0)
  else slotRow e u.r0

/-- The record of a failed slot check (R82, R85, R337). -/
def slotRec (s : State) (c addr eng : Nat) (u : SlotUse) (cause : Nat) : Rec :=
  let k := getCore s c
  let e := seenEntry k u
  let isOver := u.acc == .write || cause == 3
  let (bank, row) := slotCell k u e cause
  coreRec s c (if isOver then 0x0102 else 0x0101) addr 0
    (padDetail u.pad (bank % 32) (row % 128) (portOf eng u.pad) (u.acc == .write) 0 false 0 u.slot (stateCode e.st) e.owner.toNat eng cause 0xFF)

/-- The "illegal instruction" record of a run-time condition (R97, R337): FIELD is a bit of the instruction. -/
def illegalRec (s : State) (c addr field : Nat) : Rec :=
  { coreRec s c 0 addr 0 (BitVec.ofNat 496 (field <<< 480) ||| BitVec.ofNat 496 (addr <<< 416)) with syn := 0x0001 }

/-- The record of an address outside the partition (R109). -/
def outsideRec (s : State) (c addr a : Nat) : Rec :=
  { coreRec s c 0 addr 0 (BitVec.ofNat 496 ((a % 2 ^ 64) <<< 416)) with syn := 0x0002 }

/-- The record of a refused address of a memory instruction (R109). -/
def addrRec (s : State) (c addr a : Nat) (e : AddrErr) : Rec :=
  match e with
  | .outside => outsideRec s c addr a
  | .retired _ => coreRec s c 0x0802 addr 0 0

/-! ## Ports (R65 to R68, R132) -/

/-- Bank map of a port (R65, R70). -/
def mapOf (k : Core) (port : Nat) : W32 := tget 0 k.maps port

/-- One access of a port side to one bank in a cycle: the flight it belongs to by its place in the list, its engine and
instruction, the pad, slot and row, and its side. -/
structure PadAcc where
  fl   : Nat
  eng  : Nat
  addr : Nat
  side : Bool
  pad  : Nat
  slot : Nat
  key  : Nat
  deriving DecidableEq, Repr, Inhabited

/-- The port of an access. -/
def PadAcc.port (a : PadAcc) : Nat := portOf a.eng a.pad

/-- The bank of an access. -/
def PadAcc.bank (a : PadAcc) : Nat := a.key / 128

/-- The access that an event makes, if it is one. -/
def accessOf (fl : Nat) (f : Flight) (e : FlightEv) : Option PadAcc :=
  match e with
  | .read _ _ pad slot key => some ⟨fl, f.eng, f.addr, false, pad, slot, key⟩
  | .write pad slot a _ => some ⟨fl, f.eng, f.addr, true, pad, slot, a / rowW pad⟩
  | .put _ _ _ pad slot a _ => some ⟨fl, f.eng, f.addr, true, pad, slot, a / rowW pad⟩
  | _ => none

/-- The accesses of cycle `now`, oldest instruction first. -/
def cycleAccs (fs : List Flight) (now : Nat) : List PadAcc :=
  fs.zipIdx.flatMap (fun p => p.1.evs.filterMap (fun e => if e.1 ≤ now then accessOf p.2 p.1 e.2 else none))

/-- Whether two accesses are of the same port side. -/
def sameSide (a b : PadAcc) : Bool := a.port == b.port && a.side == b.side

/-- Whether an access lies outside the map of its port (R67). -/
def outOfMap (k : Core) (a : PadAcc) : Bool := !bit (mapOf k a.port) a.bank

/-- The accesses of port sides that reach outside their map in this cycle: none of them is made (R67). -/
def unmapped (k : Core) (as : List PadAcc) : List PadAcc := as.filter (fun a => as.any (fun b => sameSide a b && outOfMap k b))

/-- The first access of each port side that lies outside its map. -/
def mapErrs (k : Core) (as : List PadAcc) : List PadAcc :=
  (as.filter (outOfMap k)).foldl (fun acc a => if acc.any (sameSide a) then acc else acc ++ [a]) []

/-- Whether two accesses meet in a bank (R68): not those of one port side, nor those of the Matrix engine's own sides. -/
def meets (a b : PadAcc) : Bool := a.pad == b.pad && a.bank == b.bank && !sameSide a b && !(a.eng == 3 && b.eng == 3)

/-- The pairs of accesses that meet in a bank, the later instruction first. -/
def clashes : List PadAcc → List (PadAcc × PadAcc)
  | [] => []
  | a :: t => (t.filter (meets a)).map (fun b => (b, a)) ++ clashes t

/-- The accesses that a map or conflict error of the cycle forbids (R67, R68). An access that its map forbids reaches no bank, and
so meets none (log 79). -/
def barred (k : Core) (as : List PadAcc) : List PadAcc :=
  let un := unmapped k as
  un ++ (clashes (as.filter (fun a => !un.contains a))).flatMap (fun p => [p.1, p.2])

/-- The map and conflict errors of the accesses of a cycle (R67, R68, R85), each with the flights that fail by it. -/
def accessErrs (s : State) (c : Nat) (k : Core) (as : List PadAcc) : List (List Nat × Rec) :=
  (mapErrs k as).map (fun a => ([a.fl], coreRec s c 0x0104 a.addr 0
    (padDetail a.pad (a.bank % 32) (a.key % 128) a.port a.side 0 false 0 a.slot 0 0 a.eng 0 0xFF))) ++
  (clashes (as.filter (fun a => !(unmapped k as).contains a))).map (fun p => ([p.1.fl, p.2.fl], coreRec s c 0x0103 p.1.addr 0
    (padDetail p.1.pad (p.1.bank % 32) (p.1.key % 128) p.1.port p.1.side p.2.port p.2.side p.2.addr p.1.slot 0 0 p.1.eng 0 0xFF)))

/-! ## Pad reads with correction (R60 to R62) -/

/-- What the read of a row gives: the bytes delivered, none where it is uncorrectable, and the record of its error. -/
structure RowRead where
  bytes : Option (List Byte)
  ce    : Option Rec := none
  ue    : Option Rec := none
  deriving DecidableEq, Repr, Inhabited

/-- The row of a pad as a reader gets it (R60): three or more bad symbols are either seen or delivered as free bytes. None where the
row is uncorrectable; the second part says whether it was corrected. -/
def correctRow (s : State) (c pad key : Nat) : Option (List Byte) × Bool :=
  let x := getPad (getCore s c) pad
  let d := rowBytes x pad key
  let bad := if x.valid.contains key then tget 0 x.bad key else 0
  if bad = 0 then (some d, false)
  else if bad = 1 then (some d, true)
  else if bad = 2 || Config.rowSeen s.fresh (3 * c + pad) key then (none, false)
  else
    let cw := if pad = 0 then 64 else 8
    (some (((List.range cw).map (fun i => Config.rowByte s.fresh (3 * c + pad) key i)) ++ d.drop cw), true)

/-- One row as read by the instruction at `addr` in pass `pass`, through the port `port`, with the record of its error (R60, R62,
R337). -/
def fetchRow (s : State) (c addr pass port eng pad slot key : Nat) : RowRead :=
  let rec_ := fun (code : W16) (sym : Nat) =>
    { coreRec s c code addr pass (padDetail pad (key / 128 % 32) (key % 128) port false 0 false 0 slot 0 0 eng 0 sym) with inj := true }
  match correctRow s c pad key with
  | (none, _) => { bytes := none, ue := some (rec_ 0x0106 (if pad = 0 then 0xFF else 0)) }
  | (some d, ce) => { bytes := some d, ce := if ce then some (rec_ 0x0105 0) else none }

/-- The events that read slot rows `r0` to `r0 + n − 1` into the buffer from index `i0` on, one of each bank a cycle from `start`
on (R66). -/
def readEvs (e : SlotEntry) (pad slot r0 n start i0 : Nat) : List (Nat × FlightEv) :=
  (List.range n).map (fun j => (start + j / Nat.max 1 e.bankCount.toNat, .read (i0 + j) 0 pad slot (slotKey e (r0 + j))))

/-- Where bytes at slot byte offset `o` fall: for each row its place in order, the pad byte address, and the part of the bytes
as offset and length. -/
def rowSpans (e : SlotEntry) (pad o len : Nat) : List (Nat × Nat × Nat × Nat) :=
  let w := rowW pad
  if len = 0 then []
  else
    let r0 := o / w
    (List.range ((o + len - 1) / w - r0 + 1)).map (fun j =>
      let lo := Nat.max o ((r0 + j) * w)
      let hi := Nat.min (o + len) ((r0 + j + 1) * w)
      (j, slotKey e (r0 + j) * w + lo % w, lo - o, hi - lo))

/-- The write events of bytes placed at slot byte offset `o`: one per row, one row of each bank a cycle (R66). -/
def writeEvs (e : SlotEntry) (pad slot o : Nat) (d : List Byte) (start : Nat) : List (Nat × FlightEv) :=
  (rowSpans e pad o d.length).map (fun x =>
    (start + x.1 / Nat.max 1 e.bankCount.toNat, .write pad slot x.2.1 ((d.drop x.2.2.1).take x.2.2.2)))

/-- The events that write result `i` at slot byte offset `o`, one row of each bank a cycle from `start` on. -/
def putEvs (e : SlotEntry) (pad slot o i len start : Nat) : List (Nat × FlightEv) :=
  (rowSpans e pad o len).map (fun x => (start + x.1 / Nat.max 1 e.bankCount.toNat, .put i x.2.2.1 0 pad slot x.2.1 x.2.2.2))

/-- Whether an armed pad injection names this row (R357). -/
def padInjection (s : State) (c pad key : Nat) : Option Inject :=
  s.err.armed.find? (fun i => i.kind == 1 && i.unit.toNat == c && nbits i.target.toNat 46 45 == pad &&
    nbits i.target.toNat 44 40 == key / 128 && nbits i.target.toNat 39 33 == key % 128)

/-- Write bytes into one row of a core's pad now (R59); an armed injection of the row takes effect (R357). -/
def putRow (s : State) (c pad addr : Nat) (d : List Byte) : State :=
  let k := getCore s c
  let w := rowW pad
  let key := addr / w
  let x := writeRow (getPad k pad) pad key (addr % w) d
  match padInjection s c pad key with
  | none => setCore s c (setPad k pad x)
  | some i =>
    let s := { s with err := { s.err with armed := s.err.armed.erase i } }
    setCore s c (setPad k pad { x with bad := tset x.bad key i.nsym.toNat })

/-! ## The stop of a core (R85 to R87, R365) -/

/-- The step of the command a core runs for belongs to a job: the member's part ends (R370). -/
def stopOfCore (s : State) (c n : Nat) : State :=
  match (getCore s c).ctx with
  | none => s
  | some x => match stepJob s x.ring x.seq with
    | none => s
    | some j => stopBath s j 0x01 n

/-- Order of the errors of one cycle (R86). -/
def stopRank (r : Rec) : Nat :=
  if r.code == 0x0106 then 0 else if r.code == 0x0107 then 1 else if r.code == 0x0103 then 2 else if r.code == 0x0104 then 3
  else if r.code == 0x0102 then 4 else if r.code == 0x0101 then 5 else 6

/-- Insert a record in the order of R86, after its equals. -/
def insertStop (r : Rec) : List Rec → List Rec
  | [] => [r]
  | x :: t => if stopRank r < stopRank x then r :: x :: t else x :: insertStop r t

/-- Freeze the units of a core at the reset that record SEQ `n` causes (R87, R365 steps 1 to 3): what would take
effect later is discarded, its launch has failed, and its tag advances; memory instructions that have had no answer yet are counted. -/
def freezeUnits (s : State) (c n : Nat) : State :=
  let k := getCore s c
  let s := match (if k.run == .idle then none else k.ctx) with
    | none => s
    | some x =>
      let s := { noteErr s x.ring x.seq n with
                 launches := updAll (fun l => l.id == x.launch) (fun l => { l with failed := l.failed.orElse (fun _ => some n) }) s.launches }
      stopOfCore s c n
  let k := getCore s c
  setCore s c { k with run := .stopped, flights := [], errRec := n, tag := k.tag + 1,
                       late := k.late + (k.flights.filter (fun f => f.mem.isSome && f.job.isNone)).length }

/-- Note that domain `d` is under reset (R365). -/
def addRecovery (s : State) (d : Domain) (n : Nat) (error : Bool) : State :=
  { s with dev := { s.dev with recovery := s.dev.recovery.filter (fun r => !within r.dom d) ++ [⟨d, n, error, false, s.time.ftime⟩] } }

/-- Freeze a core at an error with record SEQ `n` and begin its reset (R341, R365). -/
def freezeCore (s : State) (c n : Nat) : State := addRecovery (freezeUnits s c n) (.core c) n true

/-- Freeze a tile at an error with record SEQ `n` and begin its reset (R341, R362, R365). -/
def freezeTile (s : State) (t n : Nat) : State :=
  let s := (rangeFrom (16 * t) 16).foldl (fun s c => freezeUnits s c n) s
  addRecovery { s with dev := { s.dev with tileTags := tset s.dev.tileTags t (tget 0 s.dev.tileTags t + 1) } } (.tile t) n true

/-- Stop core `c` on the errors of one cycle (R85, R86): all are raised, the first is acted on. -/
def coreStop (s : State) (c : Nat) (rs : List Rec) : State :=
  match rs.foldl (fun acc r => insertStop r acc) [] with
  | [] => s
  | r :: rest =>
    let x := raise s r (stops := true) (on := some (.core c))
    let s := if x.act then freezeCore x.st c x.seq else x.st
    rest.foldl (fun s r => (raise s r (stops := true) (on := some (.core c))).st) s

end Sys2Proof.Machine
end

