-- ==== Sys2Proof/Machine/Reset.lean ====
section
/-! DEFINITION. The beginning of a hub or device reset (R362 to R365), Safelight (R439) and escalation (R345). -/

namespace Sys2Proof.Machine

open Sys2Proof

/-- A port that trains anew holds nothing of the old link. -/
def freshLink (x : Port) : Port :=
  { x with rxSeq := 0, txSeq := 0, acked := 4095, replay := [], txq := [], asm := [], credits := [], discard := false, nakSame := 0,
           nakMs := [], failing := 0, again := false, seen := 0, lanes := 0, corr := [], due := 0, hold := false, mid := [] }

/-- NEXT_SEQ of a ring as it stopped last (R265): one that is OFF already stopped before this reset. -/
def stoppedAt (x : Ring) : Nat := if x.st == .off then x.lastNext else nextSeq x

/-- The device enters Safelight (R439): no tile is powered, every ring enable reads 0, and no port leaves DISABLED. Nothing that was under
way goes on (log 109). -/
def safelight (s : State) (cause : Nat) : State :=
  let ports := s.fab.ports.map (fun e => (e.1, { freshLink e.2 with st := .disabled }))
  { s with dev := { s.dev with stage := 15, slCause := BitVec.ofNat 8 cause, tileOn := 0, tileFw := 0, recovery := [] },
           hif := { s.hif with cfgReady := true },
           rings := s.rings.map (fun e => (e.1, { e.2 with enable := false, st := .off, lastNext := stoppedAt e.2 })),
           cmds := [], launches := [], steps := [], exps := [], herds := [], sep := {},
           cores := [], fab := { s.fab with ports := ports, colls := [] } }

/-- A device reset begins (R362, R365 steps 1 to 3): the hub's tag advances, and every core stops. -/
def beginDevice (s : State) (n : Nat) (error : Bool) : State :=
  let s := { s with cores := s.cores.map (fun (e : Nat × Core) => (e.1, { e.2 with run := .stopped, flights := [], tag := e.2.tag + 1 })),
                    dev := { s.dev with hubTag := s.dev.hubTag + 1 } }
  addRecovery { s with mgc := { s.mgc with tagStore := s.dev.hubTag } } .device n error

/-- A hub reset begins (R362 to R365): the hub's tag advances and is stored. -/
def beginHub (s : State) (n : Nat) : State :=
  let s := { s with dev := { s.dev with hubTag := s.dev.hubTag + 1 } }
  addRecovery { s with mgc := { s.mgc with tagStore := s.dev.hubTag } } .hub n true

/-- A fatal error inside domain `d`, which is under recovery (R345): E_DOUBLE_FAULT against the enclosing domain, which
is reset; in device recovery the device enters Safelight. -/
def doubleFault (s : State) (d : Domain) : State :=
  let out := fun (e : Domain) => { s with dev := { s.dev with recovery := s.dev.recovery.filter (fun r => !within r.dom e) } }
  match d with
  | .core c =>
    let x := raise (out (.tile (c / 16))) { code := 0x0303, sev := sevDomain, part := partOfTile s (c / 16), unitType := uTile, unitId := BitVec.ofNat 16 (c / 16) }
      (on := some (.tile (c / 16)))
    freezeTile x.st (c / 16) x.seq
  | .device => safelight (raise (clearLatch (out .device) uHub 0) { code := 0x0303, sev := sevDevice, unitType := uHub } (wide := true) (on := some .device)).st 6
  | .module => s
  | _ =>
    let x := raise (clearLatch (out .device) uHub 0) { code := 0x0303, sev := sevDevice, unitType := uHub } (wide := true) (on := some .device)
    beginDevice x.st x.seq true

end Sys2Proof.Machine
end

