-- ==== Sys2Proof/Machine/Flags.lean ====
section
/-! DEFINITION. The comparisons that set predicates and lane masks (R104 SETP and PLOG, R123 VCMP). -/

namespace Sys2Proof.Machine

open Sys2Proof

/-- The condition of SETP by FN (R104): EQ, NE, LT, LE, GT, GE signed, LTU, GEU. -/
def setpCond (fn : Nat) (a b : W64) : Bool :=
  match fn with
  | 0 => a == b
  | 1 => a != b
  | 2 => a.slt b
  | 3 => a.sle b
  | 4 => b.slt a
  | 5 => b.sle a
  | 6 => a.ult b
  | _ => b.ule a

/-- The function of PLOG by FN (R104): AND, OR, XOR, AND NOT. -/
def plogFn (fn : Nat) (a b : Bool) : Bool :=
  match fn with
  | 0 => a && b
  | 1 => a || b
  | 2 => a != b
  | _ => a && !b

/-- The condition of VCMP by FN (R123): EQ, NE, LT, LE; a NaN lane satisfies NE only. -/
def vcmpCond (fn : Nat) (a b : W32) : Bool :=
  match fcmp a b, fn with
  | none, 1 => true
  | none, _ => false
  | some o, 0 => o == .eq
  | some o, 1 => o != .eq
  | some o, 2 => o == .lt
  | some o, _ => o != .gt

end Sys2Proof.Machine
end

