-- ==== Sys2Proof/Machine/Lanes.lean ====
section
/-! DEFINITION. What the Vector engine computes (R122 to R129): lane operations, pad forms, softmax and draws. -/

namespace Sys2Proof.Machine

open Sys2Proof

/-! ## Generators and buckets -/

/-- mix64 (R189). -/
def mix64 (x s : W64) : W64 :=
  let z := x ^^^ s
  let z := (z ^^^ (z >>> 31)) * 0x9A3F27C15E8BD46B
  let z := (z ^^^ (z >>> 29)) * 0xE4D10B9736A58F2D
  z ^^^ (z >>> 32)

/-- The counter-based generator (R394): 32 bits. -/
def gen (k0 k1 c0 c1 : W64) : W32 :=
  let x := mix64 c1 (k1 ^^^ 0x5B1EC07A92D436F9)
  BitVec.ofNat 32 ((mix64 (c0 ^^^ x) k0).toNat >>> 32)

/-- b(x) of R172. -/
def bucketB (x : Nat) : Nat :=
  if x < 16 then x else if 2 ^ 18 ≤ x then 127 else 16 + (flog2 x - 4) * 8 + (x >>> (flog2 x - 3)) % 8

/-- bucket(d) of a signed distance (R172). -/
def bucket (d : Int) : Nat := if 0 ≤ d then bucketB d.toNat else 128 + bucketB (-d - 1).toNat

/-! ## Lanes -/

/-- Lanes from a list, zero where it ends. -/
def lanesOf (l : List W32) : Lanes := Vector.ofFn (fun i => nth 0 l i.val)

/-- Map over the lanes of one, two or three sources. -/
def lane1 (f : W32 → W32) (a : Lanes) : Lanes := a.map f
def lane2 (f : W32 → W32 → W32) (a b : Lanes) : Lanes := Vector.zipWith f a b
def lane3 (f : W32 → W32 → W32 → W32) (a b c : Lanes) : Lanes := Vector.zipWith (fun g x => g x) (Vector.zipWith f a b) c

/-- Every lane the same. -/
def splat (x : W32) : Lanes := Vector.replicate 128 x

/-- Pair adjacent values once (R125). -/
def pairUp (f : W32 → W32 → W32) : List W32 → List W32
  | a :: b :: t => f a b :: pairUp f t
  | l => l

/-- The tree over 128 lanes: 7 levels (R125). -/
def tree (f : W32 → W32 → W32) (a : Lanes) : W32 :=
  nth 0 ((List.range 7).foldl (fun l _ => pairUp f l) a.toList) 0

/-- ARGMAX (R125): the lowest lane that holds the largest value, 128 when every lane is NaN. -/
def argmax (a : Lanes) : Nat :=
  (a.toList.zipIdx.foldl (fun (acc : Option (Int × Nat)) p =>
    if isNaN p.1 then acc
    else match acc with
      | none => some (ordKey p.1, p.2)
      | some (m, i) => if m < ordKey p.1 then some (ordKey p.1, p.2) else some (m, i)) none).elim 128 (·.2)

/-- VRED by FN (R125). -/
def vredVal (fn : Nat) (a : Lanes) : W64 :=
  match fn with
  | 0 => BitVec.ofNat 64 (tree fadd a).toNat
  | 1 => BitVec.ofNat 64 (tree fmax a).toNat
  | 2 => BitVec.ofNat 64 (tree fmin a).toNat
  | _ => BitVec.ofNat 64 (argmax a)

/-! ## Conversion (R123) -/

/-- FP32 format code (R16). -/
def fmtF32 : Nat := 0xA

/-- Bytes of a vector of 128 elements, with 4 scale bytes under block scaling (R123). -/
def vecBytes (fmt : Nat) (blk : Bool) : Nat := 16 * fmtBits fmt + (if blk then 4 else 0)

/-- The element codes and block scales of a vector's bytes: four blocks of 32, each followed by its scale byte
under block scaling (R115). -/
def vecVal (fmt : Nat) (blk : Bool) (d : List Byte) (i : Nat) : W32 :=
  if fmt = fmtF32 then BitVec.ofNat 32 (leNat ((d.drop (4 * i)).take 4))
  else if blk then
    let b := 4 * fmtBits fmt
    let o := i / 32 * (b + 1)
    toF32 (scaleVal (nth 0 d (o + b)).toNat (decodeEl fmt (unpackEl fmt d o (i % 32))))
  else toF32 (decodeEl fmt (unpackEl fmt d 0 i))

/-- VLD: the bytes of a vector as lanes (R123). -/
def loadLanes (fmt : Nat) (blk : Bool) (d : List Byte) : Lanes := Vector.ofFn (fun i => vecVal fmt blk d i.val)

/-- The element code of one lane stored without block scaling (R123). -/
def laneCode (fmt : Nat) (nan : Bool) (x : W32) : Nat := if fmt = fmtF32 then x.toNat else storeEl fmt nan (val32 x)

/-- VST: lanes as bytes (R123). -/
def storeLanes (fmt : Nat) (blk nan : Bool) (a : Lanes) : List Byte :=
  if blk then convertRow fmt nan (a.toList.map val32) else packEls fmt (a.toList.map (laneCode fmt nan))

/-- VCVT: the value each lane takes after VST's rounding (R123). -/
def cvtLanes (fmt : Nat) (blk nan : Bool) (a : Lanes) : Lanes := loadLanes fmt blk (storeLanes fmt blk nan a)

/-! ## Rotary, bias, masks, softmax, draws -/

/-- The pair of lanes that pair `i` rotates (R126). -/
def rotPair (split : Bool) (i : Nat) : Nat × Nat := if split then (i, i + 64) else (2 * i, 2 * i + 1)

/-- One rotated pair (R126). -/
def rotate (f : W32) (pos : Nat) (x y : W32) : W32 × W32 :=
  let phi := pos * f.toNat % 2 ^ 32
  let c := fcosTurn phi
  let s := fsinTurn phi
  (ffma x c (fneg (fmul y s)), ffma x s (fmul y c))

/-- VROT (R126). -/
def vrotLanes (split : Bool) (pos : Nat) (tab : List Byte) (a : Lanes) : Lanes :=
  let l := a.toList
  let ps := (List.range 64).map (fun i =>
    let (p, q) := rotPair split i
    rotate (BitVec.ofNat 32 (leNat ((tab.drop (4 * i)).take 4))) pos (nth 0 l p) (nth 0 l q))
  Vector.ofFn (fun k => if split then (if k.val < 64 then (nth (0, 0) ps k.val).1 else (nth (0, 0) ps (k.val - 64)).2)
    else if k.val % 2 = 0 then (nth (0, 0) ps (k.val / 2)).1 else (nth (0, 0) ps (k.val / 2)).2)

/-- VBIAS (R127): the FP16 table entry of each lane's distance is added. -/
def vbiasLanes (qpos kpos : W32) (tab : List Byte) (a : Lanes) : Lanes :=
  Vector.ofFn (fun i =>
    let d := (qpos - kpos - BitVec.ofNat 32 i.val).toInt
    fadd a[i] (toF32 (decodeEl 9 (leNat ((tab.drop (2 * bucket d)).take 2)))))

/-- VMSK with a mask of 128 bits (R127). -/
def vmskLanes (mask : List Byte) (a : Lanes) : Lanes :=
  let m := leNat mask
  Vector.ofFn (fun i => if m.testBit i.val then a[i] else inf32 true)

/-- VMSK by position (R127). -/
def vmskCausal (qpos kpos : W32) (a : Lanes) : Lanes :=
  Vector.ofFn (fun i => if qpos.toNat < kpos.toNat + i.val then inf32 true else a[i])

/-- M, L and C of a statistics entry (R128). -/
structure Stat where
  m : W32
  l : W32
  c : W32
  deriving DecidableEq, Repr, Inhabited

/-- The statistics entry in 16 bytes (R128). -/
def statOf (d : List Byte) : Stat :=
  let n := leNat d
  ⟨BitVec.ofNat 32 (nbits n 31 0), BitVec.ofNat 32 (nbits n 63 32), BitVec.ofNat 32 (nbits n 95 64)⟩

/-- The 16 bytes of a statistics entry (R128). -/
def statBytes (x : Stat) : List Byte := natLE 16 (x.m.toNat + (x.l.toNat <<< 32) + (x.c.toNat <<< 64))

/-- The initial entry of IMM[0] = 1 (R128): M = −∞, L = +0. -/
def statInit : Stat := ⟨inf32 true, 0, 0⟩

/-- FP32 one. -/
def one32 : W32 := 0x3F800000

/-- One step of the online softmax over the whole vector (R128): the entry and vd. -/
def softmaxRow (x : Stat) (a : Lanes) : Stat × Lanes :=
  let m1 := fmax x.m (tree fmax a)
  if m1 = inf32 true then (⟨m1, x.l, one32⟩, splat 0)
  else
    let c := fexp2 (fsub x.m m1)
    let vd := lane1 (fun v => fexp2 (fsub v m1)) a
    (⟨m1, fadd (fmul x.l c) (tree fadd vd), c⟩, vd)

/-- One step for one lane, with b = va_i (R128): the entry and the lane of vd. -/
def softmaxLane (x : Stat) (v : W32) : Stat × W32 :=
  let m1 := fmax x.m v
  if m1 = inf32 true then (⟨m1, x.l, one32⟩, 0)
  else
    let c := fexp2 (fsub x.m m1)
    let d := fexp2 (fsub v m1)
    (⟨m1, fadd (fmul x.l c) d, c⟩, d)

/-- VRNG (R129, R394). -/
def vrngLanes (fp : Bool) (k0 k1 c0 c1 : W64) : Lanes :=
  Vector.ofFn (fun i =>
    let x := gen k0 k1 c0 (c1 + BitVec.ofNat 64 i.val)
    if fp then pack32 false (x.toNat >>> 8) (-24) else x)

end Sys2Proof.Machine
end

