-- ==== Sys2Proof/Machine/MxMath.lean ====
section
/-! DEFINITION. What the Matrix engine computes (R38 to R48, R113 to R121): fold, operand and output layouts, the accumulator
file, and the side datapath of the residue. -/

namespace Sys2Proof.Machine

open Sys2Proof

/-! ## Fold (R43, R48) -/

/-- Logical dimensions and fold parameters of an MX instruction. `held` is the held dimension and `strm` the
streamed one (R41). -/
structure Fold where
  m      : Nat
  n      : Nat
  k      : Nat
  kp     : Nat
  nchunk : Nat
  p      : Nat
  q      : Nat
  held   : Nat
  strm   : Nat
  tiles  : Nat
  nk     : Nat
  groups : Nat
  deriving DecidableEq, Repr, Inhabited

/-- Largest of 1, 2, 4, 8 that satisfies a test, 1 when none does. -/
def largestPow (t : Nat → Bool) : Nat := if t 8 then 8 else if t 4 then 4 else if t 2 then 2 else 1

/-- Kp of an operand pair (R43). -/
def kpOf (fa fw : Nat) (sp : Bool) : Nat :=
  let d := if fmtGroup fa = 2 then 32 else if fmtBits fa = 4 ∧ fmtBits fw = 4 then 256 else 128
  if sp then 2 * d else d

/-- The fold of an MX instruction (R48). -/
def foldOf (o : MxArgs) : Fold :=
  let m := o.mm.toNat + 1
  let n := o.nn.toNat + 1
  let k := o.kk.toNat + 1
  let kp := kpOf o.fa.toNat o.fw.toNat o.sp
  let held := if o.is then m else n
  let strm := if o.is then n else m
  let nchunk := ceilDiv k kp
  let p := if nchunk = 1 then 1 else Nat.min (largestPow (fun x => decide (x * held ≤ 128))) (pow2ceil nchunk)
  let kr := ceilDiv k 32 * 32
  let q := if nchunk = 1 then largestPow (fun x => decide (x * kr ≤ kp)) else 1
  { m := m, n := n, k := k, kp := kp, nchunk := nchunk, p := p, q := q, held := held, strm := strm,
    tiles := if p = 1 then ceilDiv held 128 else 1, nk := ceilDiv k (kp * p), groups := ceilDiv strm 32 }

/-- First column of tile `t` and how many the tile has. -/
def tileCols (f : Fold) (t : Nat) : Nat × Nat := if f.p = 1 then (128 * t, Nat.min 128 (f.held - 128 * t)) else (0, f.held)

/-- Rows of group `g`. -/
def groupRows (f : Fold) (g : Nat) : Nat := Nat.min 32 (f.strm - 32 * g)

/-! ## Operand layouts (R44, R46, R115, R116, R476) -/

/-- How an operand is stored: format, block scales, 2:4. -/
structure Lay where
  fmt    : Nat
  scaled : Bool
  sp     : Bool
  deriving DecidableEq, Repr, Inhabited

/-- Bytes of one block of `len` positions. -/
def blkBytes (l : Lay) (len : Nat) : Nat :=
  (if l.sp then len / 2 * fmtBits l.fmt / 8 + len / 8 else len * fmtBits l.fmt / 8) + b2n l.scaled

/-- Bytes of `n` positions along K. -/
def runBytes (l : Lay) (n : Nat) : Nat := n / 32 * blkBytes l 32 + (if n % 32 = 0 then 0 else blkBytes l (n % 32))

/-- A vector along K: element values, the position each one multiplies, and the block scales. -/
structure Run where
  els    : List Val := []
  pos    : List Nat := []
  scales : List Nat := []
  deriving DecidableEq, Repr, Inhabited

/-- Parse `n` positions from position `p0` on (R115, R46). -/
def parseRun (l : Lay) (d : Array Byte) (o p0 : Nat) : Nat → Nat → Run
  | 0, _ => {}
  | fuel + 1, n =>
    if n = 0 then {}
    else
      let len := Nat.min 32 n
      let nv := if l.sp then len / 2 else len
      let vb := nv * fmtBits l.fmt / 8
      let raw := (d.extract o (o + vb)).toList
      let els := (List.range nv).map (fun e => decodeEl l.fmt (unpackEl l.fmt raw 0 e))
      let idx := fun (e : Nat) => nbits (d.getD (o + vb + e / 4) 0).toNat (e % 4 * 2 + 1) (e % 4 * 2)
      let pos := (List.range nv).map (fun e => if l.sp then p0 + e / 2 * 4 + idx e else p0 + e)
      let so := o + vb + (if l.sp then len / 8 else 0)
      let t := parseRun l d (o + blkBytes l len) (p0 + len) fuel (n - len)
      { els := els ++ t.els, pos := pos ++ t.pos, scales := (if l.scaled then [(d.getD so 0).toNat] else []) ++ t.scales }

/-- Positions of chunk `c`. -/
def chunkLen (f : Fold) (c : Nat) : Nat := Nat.min f.kp (f.k - c * f.kp)

/-- Bytes of chunk `c` of one held column or stream vector. -/
def chunkBytes (f : Fold) (l : Lay) (c : Nat) : Nat := runBytes l (chunkLen f c)

/-- The chunks of pass `k`. -/
def passChunks (f : Fold) (k : Nat) : List Nat := (rangeFrom (k * f.p) f.p).filter (fun c => decide (c < f.nchunk))

/-- Bytes of pass `k` of one column or vector. -/
def passBytes (f : Fold) (l : Lay) (k : Nat) : Nat := ((passChunks f k).map (chunkBytes f l)).foldl (· + ·) 0

/-- Slot rows of held image (t, k). -/
def imageRows (f : Fold) (l : Lay) (t k : Nat) : Nat := ceilDiv ((tileCols f t).2 * passBytes f l k) 128

/-- First slot row of held image (t, k), from the row offset (R116). -/
def imageRow (f : Fold) (l : Lay) (t k : Nat) : Nat :=
  ((List.range (t * f.nk + k)).map (fun i => imageRows f l (i / f.nk) (i % f.nk))).foldl (· + ·) 0

/-- Slot rows of the held operand. -/
def heldRows (f : Fold) (l : Lay) : Nat := imageRow f l f.tiles 0

/-- Rows of a full stream vector (R116). -/
def vecRows (f : Fold) (l : Lay) : Nat := ceilDiv (passBytes f l 0) 128

/-- First slot row of stream vector (x, k). -/
def vecRow (f : Fold) (l : Lay) (x k : Nat) : Nat := (k * f.strm + x) * vecRows f l

/-- Slot rows of the stream operand. -/
def strmRows (f : Fold) (l : Lay) : Nat := vecRow f l (f.strm - 1) (f.nk - 1) + ceilDiv (passBytes f l (f.nk - 1)) 128

/-- `n` bytes at byte `o` of an operand whose slot row `r`, of `w` bytes, reads `rd r`. -/
def sliceRows (w : Nat) (rd : Nat → List Byte) (o n : Nat) : List Byte :=
  if n = 0 then [] else (((rangeFrom (o / w) ((o + n - 1) / w - o / w + 1)).flatMap rd).drop (o % w)).take n

/-- Two runs of positions, one after the other. -/
def joinRun (a r : Run) : Run := { els := a.els ++ r.els, pos := a.pos ++ r.pos, scales := a.scales ++ r.scales }

/-- The chunks `cs` of the vector of held column `y` (R116). -/
def heldRun (f : Fold) (l : Lay) (rd : Nat → List Byte) (y : Nat) (cs : List Nat) : Run :=
  let t := if f.p = 1 then y / 128 else 0
  let (c0, nc) := tileCols f t
  (cs.map (fun c =>
    let k := c / f.p
    let before := (((passChunks f k).filter (fun x => decide (x < c))).map (chunkBytes f l)).foldl (· + ·) 0
    let o := imageRow f l t k * 128 + nc * before + (y - c0) * chunkBytes f l c
    parseRun l (sliceRows 128 rd o (chunkBytes f l c)).toArray 0 (c * f.kp) 64 (chunkLen f c))).foldl joinRun {}

/-- The chunks `cs` of the stream vector `x` (R116). -/
def strmRun (f : Fold) (l : Lay) (rd : Nat → List Byte) (x : Nat) (cs : List Nat) : Run :=
  (cs.map (fun c =>
    let k := c / f.p
    let before := (((passChunks f k).filter (fun y => decide (y < c))).map (chunkBytes f l)).foldl (· + ·) 0
    parseRun l (sliceRows 128 rd (vecRow f l x k * 128 + before) (chunkBytes f l c)).toArray 0 (c * f.kp) 64 (chunkLen f c))).foldl joinRun {}

/-- An operand vector for the anchor (R21): block-scaled formats read scales only. -/
def opVec (l : Lay) (r : Run) : OpVec := { fmt := l.fmt, els := r.els, scales := if l.scaled then some r.scales else none }

/-- The pairs of elements that a run of activations and a run of weights multiply, with the sum of their block exponents (R20). A
2:4 weight has an explicit zero at each position it does not store (R33). -/
def pairsOf (la lw : Lay) (a w : Run) : List (Val × Val × Option Int) :=
  let base := nth 0 a.pos 0
  let av := a.els.toArray
  let sc := if la.scaled then blockExps a.scales w.scales else []
  let at_ := fun (p : Nat) (y : Val) =>
    (av.getD (p - base) (.fin false 0 0), y, if la.scaled then nth none sc (p / 32 - base / 32) else some 0)
  (List.zip w.els w.pos).map (fun x => at_ x.2 x.1) ++
    (if lw.sp then (a.pos.filter (fun p => !w.pos.contains p)).map (fun p => at_ p (.fin false 0 0)) else [])

/-! ## The accumulator file and the side datapath (R35, R40) -/

/-- The residue of one product, formed beside the multiplier (R35): of the significands where the aligned product is untruncated, of
the aligned output where it is truncated; NaN and infinite products are left out. -/
def productResidue (a : Int) (p : Val × Val × Option Int) : Nat :=
  match product p.1 p.2.1 p.2.2, p.1, p.2.1 with
  | .fin s m x, .fin _ ma _, .fin _ mw _ =>
    let k := x - (a - 95)
    let r := if 0 ≤ k then ma % 255 * (mw % 255) * 2 ^ (k.toNat % 8) % 255 else residue (truncTo m x (a - 95)).1
    if s then (255 - r) % 255 else r
  | _, _, _ => 0

/-- The accumulator entry of an output element before its first product (R21, R27): at its own anchor, or the existing entry where
its anchor is not below; the side datapath starts from the existing entry's residue (R35). -/
def openCell (into : Entry) (own : Int) : AccCell :=
  match into.anchor with
  | none => { e := { anchor := some own } }
  | some pa => if own ≤ pa then { e := into, res := residue into.win } else { e := { anchor := some own }, into := some into }

/-- Add the products of one pass to an accumulator entry, and their residues to the side datapath's (R20, R23, R35). -/
def addPass (c : AccCell) (ps : List (Val × Val × Option Int)) : AccCell :=
  let a := c.e.anchor.getD 0
  { c with e := ps.foldl (fun e p => addProduct a e (product p.1 p.2.1 p.2.2)) c.e,
           res := (ps.foldl (fun n p => n + productResidue a p) c.res) % 255 }

/-- What the output stage finds in an accumulator entry (R26, R27): the entry, and the side datapath's residue, which is formed again
after a re-anchoring (R35). -/
def closeCell (c : AccCell) : Entry × Nat :=
  match c.into with
  | some p => let e := combine p c.e; (e, residue e.win)
  | none =>
    match c.e.anchor with
    | none => (c.e, c.res)
    | some a =>
      let (w, a', st) := fitWindow c.e.win a c.e.sticky
      ({ c.e with win := w, anchor := some a', sticky := Nat.min st 8191 }, if a' = a then c.res else residue w)

/-- The entry of one output element, of its operands over the whole of K and the entry accumulated into (R20 to R27). -/
def mxEntry (la lw : Lay) (into : Entry) (a w : Run) : Entry :=
  (closeCell (addPass (openCell into (anchorOf (opVec la a) (opVec lw w))) (pairsOf la lw a w))).1

/-! ## Output layouts (R117) -/

/-- Bytes of `n` output elements in format `fo`, with block scales along the row when `scaled`. -/
def outBytes (fo n : Nat) (scaled : Bool) : Nat := (n * fmtBits fo + 7) / 8 + (if scaled && fmtBlock fo then ceilDiv n 32 else 0)

/-- Where the rows of an output lie: width of a slot row, rows of an output row, rows of a scale record. -/
structure OutLay where
  w     : Nat
  ro    : Nat
  rs    : Nat
  spill : Bool
  fo    : Nat
  is    : Bool
  deriving DecidableEq, Repr, Inhabited

/-- The output layout of an MX instruction. -/
def outLay (o : MxArgs) (held : Nat) : OutLay :=
  let blk := !o.spill && fmtBlock o.fo.toNat
  { w := if o.spill then 256 else 128, ro := if o.spill then ceilDiv (16 * held) 256 else ceilDiv (outBytes o.fo.toNat held (!o.is)) 128,
    rs := if o.is && blk then ceilDiv held 128 else 0, spill := o.spill, fo := o.fo.toNat, is := o.is }

/-- First slot row of output row `x`. -/
def outRow (l : OutLay) (x : Nat) : Nat := x * l.ro + x / 32 * l.rs

/-- First slot row of the scale record of set `g` with `rows` rows before it. -/
def recRow (l : OutLay) (g rows : Nat) : Nat := g * (32 * l.ro + l.rs) + rows * l.ro

/-- Byte of element `y` in an output row. -/
def outElem (l : OutLay) (y : Nat) : Nat := if l.spill then 16 * y else outBytes l.fo y (!l.is)

/-- Slot rows of the whole output. -/
def outRows (l : OutLay) (f : Fold) : Nat :=
  if l.rs = 0 then outRow l (f.strm - 1) + l.ro else recRow l (f.groups - 1) (groupRows f (f.groups - 1)) + l.rs

/-! ## What an MX instruction works on -/

/-- What an MX instruction works on. -/
structure MxJob where
  f    : Fold
  o    : MxArgs
  la   : Lay
  lw   : Lay
  ol   : OutLay
  hs   : SlotView
  ss   : SlotView
  so   : SlotView
  sc   : SlotView
  addr : Nat
  deriving DecidableEq, Repr, Inhabited

/-- Layout of the activation operand. -/
def layA (o : MxArgs) : Lay := { fmt := o.fa.toNat, scaled := !o.pcs && fmtBlock o.fa.toNat, sp := false }

/-- Layout of the weight operand. -/
def layW (o : MxArgs) : Lay := { fmt := o.fw.toNat, scaled := !o.pcs && fmtBlock o.fw.toNat, sp := o.sp }

/-- The job of an MX instruction with the slot operands SA, SW, SO and SC. -/
def mxJob (o : MxArgs) (sA sW sO sC : SlotView) (addr : Nat) : MxJob :=
  let f := foldOf o
  { f := f, o := o, la := layA o, lw := layW o, ol := outLay o f.held, hs := if o.is then sA else sW, ss := if o.is then sW else sA,
    so := sO, sc := sC, addr := addr }

/-- Layout of the held operand. -/
def MxJob.lh (j : MxJob) : Lay := if j.o.is then j.la else j.lw

/-- Layout of the streamed operand. -/
def MxJob.ls (j : MxJob) : Lay := if j.o.is then j.lw else j.la

/-- Tile and group of group number `n` in the order of R49. -/
def tileGroup (f : Fold) (n : Nat) : Nat × Nat := (n / Nat.max 1 f.groups, n % Nat.max 1 f.groups)

/-- Place of an output element of group number `n` in the accumulator file (R40): the halves alternate. -/
def accKey (n i y : Nat) : Nat := n % 2 * 4096 + i * 128 + y

/-- The activation and the weight run of output row `x` and column `y` over the chunks `cs`. -/
def runsOf (j : MxJob) (hd st : Nat → List Byte) (cs : List Nat) (x y : Nat) : Run × Run :=
  let h := heldRun j.f j.lh hd y cs
  let v := strmRun j.f j.ls st x cs
  if j.o.is then (h, v) else (v, h)

/-- The scan of group number `n` (R21, R51): each of its accumulator entries at its anchor, from the scales and exponents of the
whole of K, with the existing entries `ents` of an accumulating instruction. -/
def scanCells (j : MxJob) (hd st : Nat → List Byte) (ents : Nat → Nat → Entry) (n : Nat) : List (Nat × AccCell) :=
  let (t, g) := tileGroup j.f n
  let (y0, ny) := tileCols j.f t
  (List.range (groupRows j.f g)).flatMap (fun i => (List.range ny).map (fun y =>
    let r := runsOf j hd st (List.range j.f.nchunk) (32 * g + i) (y0 + y)
    (accKey n i y, openCell (if j.o.acc then ents (32 * g + i) (y0 + y) else {}) (anchorOf (opVec j.la r.1) (opVec j.lw r.2)))))

/-- The accumulation of row `i` of group number `n` in pass `k`. -/
def passCells (j : MxJob) (hd st : Nat → List Byte) (acc : Tbl AccCell) (n k i : Nat) : Tbl AccCell :=
  let (t, g) := tileGroup j.f n
  let (y0, ny) := tileCols j.f t
  (List.range ny).foldl (fun acc y =>
    let r := runsOf j hd st (passChunks j.f k) (32 * g + i) (y0 + y)
    tset acc (accKey n i y) (addPass (tget {} acc (accKey n i y)) (pairsOf j.la j.lw r.1 r.2))) acc

/-- The scale of token `m` or column `n` from the rows of the SC slot (R117). -/
def scVal (rd : Nat → List Byte) (o : Nat) : Val := val32 (BitVec.ofNat 32 (leNat (sliceRows 128 rd o 4)))

/-- First byte of the column scales in the SC slot (R117): c_n from the row boundary after the r_m. -/
def scCols (m : Nat) : Nat := ceilDiv (4 * m) 128 * 128

/-- The value of the output element in row `x`, column `y` (R19, R29). -/
def mxVal (j : MxJob) (sc : Nat → List Byte) (e : Entry) (x y : Nat) : Val :=
  let v := entryVal e
  if j.o.pcs then
    let (m, n) := if j.o.is then (y, x) else (x, y)
    perChannel v (scVal sc (4 * m)) (scVal sc (scCols j.f.m + 4 * n))
  else v

/-- Whether the outputs of a group are converted together: an input-stationary set of 32 columns in a block-scaled format (R54). -/
def MxJob.together (j : MxJob) : Bool := decide (j.ol.rs ≠ 0)

/-- The bytes of row `i` of group number `n` (R30, R31, R117). -/
def rowOut (j : MxJob) (sc : Nat → List Byte) (cell : Nat → Nat → Entry) (n i : Nat) : List Byte :=
  let (t, g) := tileGroup j.f n
  let (y0, ny) := tileCols j.f t
  let ys := List.range ny
  let v := fun i y => mxVal j sc (cell i y) (32 * g + i) (y0 + y)
  if j.o.spill then ys.flatMap (fun y => entryBytes (cell i y))
  else if !j.o.is then convertRow j.ol.fo j.o.ovf (ys.map (v i))
  else if !j.together then packEls j.ol.fo (ys.map (fun y => storeEl j.ol.fo j.o.ovf (v i y)))
  else packEls j.ol.fo (ys.map (fun y => nth 0 (roundBlock j.ol.fo j.o.ovf ((List.range (groupRows j.f g)).map (fun i => v i y))).2 i))

/-- The scale record of a set (R30, R117). -/
def setScales (j : MxJob) (sc : Nat → List Byte) (cell : Nat → Nat → Entry) (n : Nat) : List Byte :=
  let (t, g) := tileGroup j.f n
  let (y0, ny) := tileCols j.f t
  (List.range ny).map (fun y => BitVec.ofNat 8
    (roundBlock j.ol.fo j.o.ovf ((List.range (groupRows j.f g)).map (fun i => mxVal j sc (cell i y) (32 * g + i) (y0 + y)))).1)

/-- Bytes of an output row of tile `t`. -/
def rowOutLen (j : MxJob) (t : Nat) : Nat :=
  let ny := (tileCols j.f t).2
  if j.o.spill then 16 * ny else outBytes j.ol.fo ny (!j.o.is)

/-- The element of the group that entry `i` of the output slot holds, of group number `n`. -/
def accEl (j : MxJob) (n i : Nat) : Option Nat :=
  let (t, g) := tileGroup j.f n
  let (y0, ny) := tileCols j.f t
  let y := i % (16 * j.ol.ro)
  if y0 ≤ y ∧ y < y0 + ny then some ((i / (16 * j.ol.ro) - 32 * g) * ny + (y - y0)) else none

/-- Rows of the SC slot (R117): r_m, then c_n from the next row boundary. -/
def scRows (m n : Nat) : Nat := ceilDiv (4 * m) 128 + ceilDiv (4 * n) 128

end Sys2Proof.Machine
end

