-- ==== Sys2Proof/Machine/Calc.lean ====
section
/-! DEFINITION. What an instruction under way does with the rows it has read: the Matrix engine's scan, accumulation and
output stage (R40, R49 to R57), the Vector engine's results (R130), and the register of an LDS (R104). -/

namespace Sys2Proof.Machine

open Sys2Proof

/-- The outcome of one calculation: the core's registers and accumulator file, the instruction's buffers, and the errors it finds. -/
structure CalcOut where
  k     : Core
  f     : Flight
  stops : List Rec := []
  deriving DecidableEq, Repr

/-- Index of row `r` of operand `op` in the buffer of an instruction. -/
def opIx (op r : Nat) : Nat := op * 1048576 + r

/-- Row `r` of operand `op` as the instruction has read it. -/
def gotRow (f : Flight) (w op r : Nat) : List Byte := tget (List.replicate w 0) f.got (opIx op r)

/-- The rows read from index 0 on, `n` of them. -/
def gotBytes (f : Flight) (w n : Nat) : List Byte := (List.range n).flatMap (fun j => gotRow f w 0 j)

/-- A slot operand of an instruction under way. -/
def viewOf (f : Flight) (i : Nat) : SlotView := nth default f.view i

/-- Slot row `r` of an operand as the anchor unit and the output stage find its scales (R51, R117, log 59): a row that cannot be
corrected counts as zeros, and the read of the row itself stops the core. -/
def scanRow (s : State) (c : Nat) (x : SlotView) (r : Nat) : List Byte :=
  (correctRow s c x.pad (slotKey x.e (x.r0 + r))).1.getD (List.replicate (rowW x.pad) 0)

/-! ## Matrix engine -/

/-- Passes of a group of an MX instruction (R49); the other Matrix engine instructions have one group, whose pass number is 0. -/
def groupPasses (i : Instr) : Nat := match i with | .mx _ _ o => Nat.max 1 (foldOf o).nk | _ => 0

/-- The group of rows a pass belongs to. -/
def groupOf (i : Instr) (pass : Nat) : Nat := let n := groupPasses i; if n = 0 then 0 else pass / n

/-- E_RESIDUE (R36, R63, R337). -/
def residueRec (s : State) (c addr pass expected found el : Nat) : Rec :=
  coreRec s c 0x0107 addr pass (BitVec.ofNat 496 ((expected <<< 488) + (found <<< 480) + ((el % 65536) <<< 464)))

/-- The element that entry `e` of slot row `r` of operand `op` is, where a Matrix engine instruction reads an entry there. -/
def entryEl (i : Instr) (f : Flight) (op pass r e : Nat) : Option Nat :=
  match i with
  | .mx _ _ o => if op = 3 then accEl (mxJob o (viewOf f 0) (viewOf f 1) (viewOf f 2) (viewOf f 3) f.addr) (groupOf i pass) (r * 16 + e) else none
  | .mxcmb _ _ o => if r * 16 + e < (o.mm.toNat + 1) * (o.nn.toNat + 1) then some (r * 16 + e) else none
  | .mxcvt _ _ o =>
    let n := o.nn.toNat + 1
    let ri := ceilDiv (16 * n) 256
    if op = 0 ∧ (r * 16 + e) % (16 * ri) < n then some (r / ri * n + (r * 16 + e) % (16 * ri)) else none
  | _ => none

/-- The comparison of the stored residue bytes of a P-pad row that the Matrix engine reads (R63). -/
def storedChecks (s : State) (c : Nat) (f : Flight) (i pass key : Nat) (d : List Byte) : List Rec :=
  match f.job with
  | none => []
  | some q =>
    (List.range 16).filterMap (fun e =>
      match entryEl q.ins f (i / 1048576) pass (i % 1048576) e with
      | none => none
      | some el =>
        let kept := residueAt (getCore s c).padP key e
        let found := residueOf ((d.drop (16 * e)).take 16)
        if kept = found then none else some (residueRec s c f.addr pass kept.toNat found.toNat el))

/-- The output entries of group number `n` with the side datapath's residues (R35). -/
def closed (k : Core) (n i y : Nat) : Entry × Nat := closeCell (tget {} k.acc (accKey n i y))

/-- The residue compare of row `i` of group number `n` (R35, R54). -/
def rowChecks (s : State) (c : Nat) (f : Flight) (j : MxJob) (n i : Nat) : List Rec :=
  let k := getCore s c
  let ny := (tileCols j.f (tileGroup j.f n).1).2
  (List.range ny).filterMap (fun y =>
    let (e, r) := closed k n i y
    let hit := f.inject && n == 0 && i == 0 && y == 0
    let r := if hit then (r + 1) % 255 else r
    if r = residue e.win then none
    else some { residueRec s c f.addr (n * j.f.nk) r (residue e.win) (i * ny + y) with inj := hit })

/-- One calculation of an MX instruction: 0 the scan of a group, 1 a row of a pass, 2 a row of the output stage, 3 a scale record. -/
def mxCalc (s : State) (c : Nat) (f : Flight) (o : MxArgs) (kind a b : Nat) : CalcOut :=
  let k := getCore s c
  let j := mxJob o (viewOf f 0) (viewOf f 1) (viewOf f 2) (viewOf f 3) f.addr
  let sc := scanRow s c j.sc
  let cell := fun i y => (closed k a i y).1
  match kind with
  | 0 =>
    let ents := fun (x y : Nat) => entryOf (leNat (sliceRows 256 (gotRow f 256 3) (outRow j.ol x * 256 + 16 * y) 16))
    { k := { k with acc := (scanCells j (scanRow s c j.hs) (scanRow s c j.ss) ents a).foldl (fun m x => tset m x.1 x.2) k.acc }, f := f }
  | 1 => { k := { k with acc := passCells j (gotRow f 128 0) (gotRow f 128 1) k.acc (a / Nat.max 1 j.f.nk) (a % Nat.max 1 j.f.nk) b }, f := f }
  | 2 =>
    match rowChecks s c f j a b with
    | [] => { k := k, f := { f with out := tset f.out (opIx a b) (rowOut j sc cell a b) } }
    | rs => { k := k, f := { f with failed := some a }, stops := rs }
  | _ => { k := k, f := { f with out := tset f.out (opIx a 32) (setScales j sc cell a) } }

/-- Row `x` of the preset entries of an MXSCAN (R28, R119), from the scale rows of its slots. -/
def scanOut (s : State) (c : Nat) (f : Flight) (o : MxArgs) (x : Nat) : List Byte :=
  let kt := (o.kk.toNat + 1) * 16
  let nb := ceilDiv kt 32
  let rr := ceilDiv nb 128
  let scl := fun (op i : Nat) => (sliceRows 128 (scanRow s c (viewOf f op)) (i * rr * 128) nb).map (·.toNat)
  (List.range (if o.is then o.mm.toNat + 1 else o.nn.toNat + 1)).flatMap (fun y =>
    let (i, j) := if o.is then (y, x) else (x, y)
    entryBytes { anchor := some (presetAnchor ⟨o.fa.toNat, [], some (scl 0 i)⟩ ⟨o.fw.toNat, [], some (scl 1 j)⟩ kt) })

/-- Row `r` of an MXCMB (R120): y_i = combine(y_i, x_i), of the rows of x and y read, up to entry E − 1. -/
def cmbOut (f : Flight) (o : MxArgs) (r : Nat) : List Byte :=
  let e := (o.mm.toNat + 1) * (o.nn.toNat + 1)
  let en := fun (op i : Nat) => entryOf (leNat (((gotRow f 256 op r).drop (16 * i)).take 16))
  (List.range (Nat.min 16 (e - 16 * r))).flatMap (fun i => entryBytes (combine (en 1 i) (en 0 i)))

/-- Row `i` of an MXCVT (R121), of the entries read so far: each of its slot rows is written after the entries it holds. -/
def cvtOut (s : State) (c : Nat) (f : Flight) (o : MxArgs) (i : Nat) : List Byte :=
  let m := o.mm.toNat + 1
  let n := o.nn.toNat + 1
  let ri := ceilDiv (16 * n) 256
  let sc := scanRow s c (viewOf f 3)
  convertRow o.fo.toNat o.ovf ((List.range n).map (fun y =>
    let v := entryVal (entryOf (leNat (sliceRows 256 (gotRow f 256 0) (i * ri * 256 + 16 * y) 16)))
    if o.pcs then perChannel v (scVal sc (4 * i)) (scVal sc (scCols m + 4 * y)) else v))

/-! ## Vector engine and Sequencer -/

/-- The lanes a VX instruction captured at issue. -/
def heldLanes (f : Flight) : Lanes := f.lanes.getD zeroLanes

/-- Write vector register `v` with the result of an instruction under way. -/
def calcVec (k : Core) (f : Flight) (v : BitVec 5) (x : Lanes) : CalcOut := { k := setVreg k v x, f := f }

/-- The entries of a VSMX (R128): in row mode the one named by s[SB], in lane mode one for each lane; with the lanes of vd and C. -/
def smxRow (f : Flight) (q : Queued) (o : VxArgs) : Stat × Lanes :=
  let off := (o.row.toNat + q.sc.r.toNat) * 256 + 16 * q.sc.b.toNat
  softmaxRow (if bit o.imm 0 then statInit else statOf (((gotRow f 256 0 0).drop (off % 256)).take 16)) (heldLanes f)

/-- The 128 steps of a VSMX in lane mode (R128). -/
def smxLane (f : Flight) (o : VxArgs) : List (Stat × W32) :=
  let old := if bit o.imm 0 then List.replicate 128 statInit else (chunks 16 (gotBytes f 256 8)).map statOf
  List.zipWith softmaxLane old (heldLanes f).toList

/-- One calculation of a VSMX: 0 forms the entries to write, 1 writes vd and vb. -/
def smxCalc (k : Core) (f : Flight) (q : Queued) (o : VxArgs) (kind : Nat) : CalcOut :=
  if o.fn = 0 then
    let x := smxRow f q o
    if kind = 0 then { k := k, f := { f with out := tset f.out 0 (statBytes x.1) } }
    else { k := setVreg (setVreg k o.vd x.2) o.vb (splat x.1.c), f := f }
  else
    let rs := smxLane f o
    if kind = 0 then { k := k, f := { f with out := tset f.out 0 (rs.flatMap (fun p => statBytes p.1)) } }
    else { k := setVreg (setVreg k o.vd (lanesOf (rs.map (·.2)))) o.vb (lanesOf (rs.map (·.1.c))), f := f }

/-- The value an LDS writes (R104, R106): of `n` bytes at byte `off` of the row, zero- or sign-extended. -/
def ldsVal (fn : BitVec 4) (off : Nat) (row : List Byte) : W64 :=
  let n := 2 ^ (fn.toNat % 4)
  let raw := leNat ((row.drop (off % 128)).take n)
  if bit fn 2 then ofInt 64 (signed (8 * n) raw) else BitVec.ofNat 64 raw

/-- One calculation of an instruction under way. -/
def formResult (s : State) (c : Nat) (f : Flight) (kind a b : Nat) : CalcOut :=
  let k := getCore s c
  match f.job with
  | none => { k := k, f := f }
  | some q => match q.ins with
    | .mx _ _ o => mxCalc s c f o kind a b
    | .mxscan _ _ o => { k := k, f := { f with out := tset f.out (opIx 0 b) (scanOut s c f o b) } }
    | .mxcmb _ _ o => { k := k, f := { f with out := tset f.out (opIx 0 b) (cmbOut f o b) } }
    | .mxcvt _ _ o => { k := k, f := { f with out := tset f.out (opIx 0 b) (cvtOut s c f o b) } }
    | .vld _ _ o => calcVec k f o.vd (loadLanes o.fmt.toNat (bit o.fn 0) (gotBytes f (rowW o.sref.pad.toNat) a))
    | .vrot _ _ o => calcVec k f o.vd (vrotLanes (bit o.fn 0) (bits q.sc.a 31 0) (gotBytes f (rowW o.sref.pad.toNat) a) (heldLanes f))
    | .vbias _ _ o => calcVec k f o.vd (vbiasLanes (BitVec.ofNat 32 q.sc.a.toNat) (BitVec.ofNat 32 q.sc.b.toNat)
        (gotBytes f (rowW o.sref.pad.toNat) a) (heldLanes f))
    | .vmsk _ _ o => calcVec k f o.vd (vmskLanes (((gotRow f (rowW o.sref.pad.toNat) 0 0).drop a).take 16) (heldLanes f))
    | .vsmx _ _ o => smxCalc k f q o kind
    | .lds _ _ o => { k := setSreg k o.sd (ldsVal o.fn a (gotRow f 128 0 0)), f := f }
    | _ => { k := k, f := f }

end Sys2Proof.Machine
end

