-- ==== Sys2Proof/Machine/Cycle.lean ====
section
/-! DEFINITION. The end of a core cycle (R59, R76, R86, R87): what issued instructions do in it, and the stop of
the core on the errors detected in it. -/

namespace Sys2Proof.Machine

open Sys2Proof

/-- A core cycle that never comes: a register that waits for a memory instruction (R101). -/
def never : Nat := 2 ^ 62

/-- Whether an event stops the core. -/
def isStop (e : FlightEv) : Bool := match e with | .stop _ => true | _ => false

/-- The records of the stop events of a flight up to cycle `now`. -/
def stopsOf (now : Nat) (f : Flight) : List Rec :=
  f.evs.filterMap (fun e => if e.1 ≤ now then (match e.2 with | .stop r => some r | _ => none) else none)

/-- A flight on its way through the end of a cycle: whether it fails in it (R85), and the records of its errors. -/
structure Ending where
  f    : Flight
  bad  : Bool := false
  ces  : List Rec := []
  errs : List Rec := []
  deriving DecidableEq, Repr

/-- Note that an error of flight `f` concerns the row group `g` and the later ones (R57). -/
def failFrom (f : Flight) (g : Nat) : Flight :=
  { f with failed := some (match f.failed with | some x => Nat.min x g | none => g) }

/-- One row read of a flight (R59 to R63): its bytes go to the buffer, or its error is noted. -/
def endRead (s : State) (c : Nat) (x : Ending) (i pass pad slot key : Nat) : Ending :=
  let g := (x.f.job.map (fun q => groupOf q.ins pass)).getD 0
  let r := fetchRow s c x.f.addr pass (portOf x.f.eng pad) x.f.eng pad slot key
  match r.bytes with
  | none => { x with f := failFrom x.f g, bad := true, errs := x.errs ++ r.ue.toList }
  | some d =>
    let chk := if x.f.eng = 3 ∧ pad = 2 then storedChecks s c x.f i pass key d else []
    { f := if chk.isEmpty then { x.f with got := tset x.f.got i d } else failFrom x.f g,
      bad := x.bad || !chk.isEmpty, ces := x.ces ++ r.ce.toList, errs := x.errs ++ chk }

/-- The reads of flight number `fl` in cycle `now` that are not forbidden. -/
def endReads (s : State) (c now : Nat) (bar : List PadAcc) (fl : Nat) (x : Ending) : Ending :=
  x.f.evs.foldl (fun x e => if now < e.1 then x else match e.2 with
    | .read i pass pad slot key => if bar.contains ⟨fl, x.f.eng, x.f.addr, false, pad, slot, key⟩ then x else endRead s c x i pass pad slot key
    | _ => x) x

/-- The results that the flights form in cycle `now`; one that has failed forms none. -/
def endForms (s : State) (c now : Nat) (x : Ending) : State × Ending :=
  x.f.evs.foldl (fun p e => if now < e.1 || p.2.bad then p else match e.2 with
    | .form kind a b =>
      let r := formResult p.1 c p.2.f kind a b
      (setCore p.1 c r.k, { p.2 with f := r.f, bad := !r.stops.isEmpty, errs := p.2.errs ++ r.stops })
    | _ => p) (s, x)

/-- Form the results of every flight, oldest first. -/
def endFormsAll (s : State) (c now : Nat) : List Ending → State × List Ending
  | [] => (s, [])
  | x :: t =>
    let r := endForms s c now x
    let q := endFormsAll r.1 c now t
    (q.1, r.2 :: q.2)

/-- Whether an event of a flight still takes effect in the cycle of a stop (R87): not a forbidden pad access, not a change of a slot or
a register by a failing instruction, and not a row of a failing group of an MX instruction (R57). -/
def evAllowed (bar : List PadAcc) (fl : Nat) (x : Ending) (e : FlightEv) : Bool :=
  match e with
  | .write pad slot a _ => !bar.contains ⟨fl, x.f.eng, x.f.addr, true, pad, slot, a / rowW pad⟩
  | .put _ _ g pad slot a _ => !bar.contains ⟨fl, x.f.eng, x.f.addr, true, pad, slot, a / rowW pad⟩ &&
      !(match x.f.failed with | some n => decide (n ≤ g) | none => false)
  | .slot _ _ _ => !x.bad
  | .define _ _ _ => !x.bad
  | .sreg _ _ => !x.bad
  | .vreg _ _ => !x.bad
  | _ => false

/-- A pad row as it stands (R57). -/
def savedRow (k : Core) (g pad key : Nat) : SavedRow :=
  let x := getPad k pad
  { group := g, pad := pad, key := key, data := mreadN x.data (key * rowW pad) (rowW pad), valid := x.valid.contains key,
    bad := tget 0 x.bad key, resid := if pad = 2 then mreadN x.resid (key * 16) 16 else [] }

/-- Put a pad row back as it stood. -/
def restoreRow (k : Core) (r : SavedRow) : Core :=
  let x := getPad k r.pad
  setPad k r.pad { x with data := mwriteN x.data (r.key * rowW r.pad) r.data,
                          valid := if r.valid then addSorted r.key x.valid else x.valid.erase r.key,
                          bad := if r.bad = 0 then tdel x.bad r.key else tset x.bad r.key r.bad,
                          resid := mwriteN x.resid (r.key * 16) r.resid }

/-- The rows that a Matrix engine flight overwrites in this cycle, kept as they were (R57): of its group and of those that can still
fail. -/
def keepRows (k : Core) (bar : List PadAcc) (fl now : Nat) (x : Ending) : Flight :=
  if x.f.eng ≠ 3 then x.f
  else x.f.evs.foldl (fun f e => if now < e.1 || !evAllowed bar fl x e.2 then f else match e.2 with
    | .put _ _ g pad _ a _ => { f with saved := f.saved.filter (fun r => decide (g ≤ r.group)) ++ [savedRow k g pad (a / rowW pad)] }
    | _ => f) x.f

/-- Carry out one event of flight `f`. -/
def applyEv (s : State) (c : Nat) (f : Flight) (e : FlightEv) : State :=
  match e with
  | .write pad _ a d => putRow s c pad a d
  | .put i off _ pad _ a len =>
    let d := ((tget [] f.out i).drop off).take len
    if d.isEmpty then s else putRow s c pad a d
  | .slot pad n st => setCore s c (updSlot (getCore s c) pad n (fun x => { x with st := st, owner := holder f.eng st }))
  | .define pad n x => setCore s c (updSlot (getCore s c) pad n (fun _ => x))
  | .sreg r v =>
    let k := setSreg (getCore s c) (BitVec.ofNat 5 r) v
    setCore s c { k with regAt := tdel k.regAt r }
  | .vreg v x => setCore s c (setVreg (getCore s c) (BitVec.ofNat 5 v) x)
  | _ => s

/-- Whether a flight is still under way after cycle `now`. -/
def flightLive (now : Nat) (f : Flight) : Bool := f.mem.isSome || !f.evs.isEmpty || decide (now < f.due)

/-- The rows of failing groups of the flights of a stopping core are as they were (R36, R57). -/
def undoRows (s : State) (c : Nat) (xs : List Ending) : State :=
  let rows := xs.flatMap (fun x => match x.f.failed with | some n => x.f.saved.filter (fun r => decide (n ≤ r.group)) | none => [])
  setCore s c (rows.reverse.foldl restoreRow (getCore s c))

/-- The flights after their reads of the current cycle, with the map and conflict errors of the cycle (R67, R68). -/
def readStage (s : State) (c : Nat) : List Ending :=
  let k := getCore s c
  let as := cycleAccs k.flights k.cyc
  let bar := barred k as
  let errs := accessErrs s c k as
  k.flights.zipIdx.map (fun p =>
    let own := stopsOf k.cyc p.1
    endReads s c k.cyc bar p.2 { f := p.1, bad := !own.isEmpty || errs.any (fun e => e.1.contains p.2), errs := own })

/-- End the current cycle of core `c`: the reads of the cycle, the results formed in it, its writes and changes, and the stop of the
core on its errors (R59, R76, R85 to R87). -/
def endCycle (s : State) (c : Nat) : State :=
  let k := getCore s c
  let now := k.cyc
  let as := cycleAccs k.flights now
  let bar := barred k as
  let r := endFormsAll s c now (readStage s c)
  let k := getCore r.1 c
  let xs := r.2.zipIdx
  let todo := xs.flatMap (fun p => (p.1.f.evs.filter (fun e => decide (e.1 ≤ now) && evAllowed bar p.2 p.1 e.2)).map (fun e => (p.1.f, e.2)))
  let left := (xs.map (fun p => { keepRows k bar p.2 now p.1 with evs := p.1.f.evs.filter (fun e => decide (now < e.1)) })).filter (flightLive now)
  let t := todo.foldl (fun s e => applyEv s c e.1 e.2) (setCore r.1 c { k with flights := left, cyc := now + 1 })
  let t := (r.2.flatMap (·.ces)).foldl raise' t
  match (accessErrs s c (getCore s c) as).map (·.2) ++ r.2.flatMap (·.errs) with
  | [] => t
  | rs => coreStop (undoRows t c r.2) c rs

/-- End the cycle at once when an error has been detected in it (R85). -/
def settle (s : State) (c : Nat) : State :=
  let k := getCore s c
  if k.flights.any (fun f => f.evs.any (fun e => decide (e.1 ≤ k.cyc) && isStop e.2)) then endCycle s c else s

/-- Put a flight in the air. -/
def addFlight (s : State) (c : Nat) (f : Flight) : State :=
  let k := getCore s c
  setCore s c { k with flights := k.flights ++ [f] }

/-- Errors detected in the current cycle at the instruction at `addr` of engine `eng`. -/
def stopNow (s : State) (c eng addr : Nat) (rs : List Rec) : State :=
  let now := (getCore s c).cyc
  addFlight s c { eng := eng, addr := addr, due := now, evs := rs.map (fun r => (now, .stop r)) }

/-- The outcome of an attempt to issue an instruction. -/
inductive Issued where
  | hold
  | stop (rs : List Rec)
  | go (s : State)
  deriving DecidableEq, Repr

/-- The slot checks of an instruction (R76 to R82): the records of failed checks, or none while it waits. -/
def checkSlots (s : State) (c eng addr : Nat) (timed : Bool) (us : List SlotUse) : Option (List Rec) :=
  let k := getCore s c
  let rs := us.filterMap (fun u => match checkUse k eng u with
    | .fail x => some (slotRec s c addr eng u x)
    | .wait => if timed then some (slotRec s c addr eng u 0) else none
    | .ok => none)
  if !rs.isEmpty then some rs
  else if us.any (fun u => checkUse k eng u == .wait) then none else some []

/-- Issue by the outcome of the slot checks. -/
def withSlots (s : State) (c eng addr : Nat) (timed : Bool) (us : List SlotUse) (go : State → Issued) : Issued :=
  match checkSlots s c eng addr timed us with
  | none => .hold
  | some [] => go s
  | some rs => .stop rs

end Sys2Proof.Machine
end

