-- ==== Sys2Proof/Machine/LdSt.lean ====
section
/-! DEFINITION. The memory instructions of a core (R104 SHW, R106 to R112): their issue, and the accesses they
make when memory has answered (R76, R84, log 7). -/

namespace Sys2Proof.Machine

open Sys2Proof

/-! ## Sequencer pad accesses (R106) -/

/-- Slot reference of LDS and STS: IMM[63:55]. -/
def immRef (imm : W64) : SRef := { flag := bit imm 63, pad := BitVec.ofNat 2 (bits imm 62 61), slot := BitVec.ofNat 6 (bits imm 60 55) }

/-- Byte offset in the slot: IMM[31:0] plus s[SA] (R106). -/
def ldsOff (k : Core) (o : SqArgs) : Nat := (bits o.imm 31 0 + (sreg k o.sa).toNat) % 2 ^ 64

/-- The slot operand of LDS and STS. -/
def ldsUse (k : Core) (o : SqArgs) (acc : Access) : SlotUse :=
  let r := immRef o.imm
  { pad := 1, slot := r.slot.toNat, acc := acc, flag := r.flag, r0 := ldsOff k o / 128, n := 1 }

/-- Issue an LDS (R104, R106): the row is read in the issue cycle, and the result is usable 4 cycles later. -/
def issueLds (s : State) (c : Nat) (i : Instr) (o : SqArgs) : Issued :=
  let k := getCore s c
  let off := ldsOff k o
  let u := ldsUse k o .read
  withSlots s c 0 k.pc false [u] (fun s =>
    if off % 2 ^ (o.fn.toNat % 4) != 0 then .stop [illegalRec s c k.pc 90] else
    let k := getCore s c
    let evs := issueEv u k.cyc ++ readEvs (slotOf k 1 u.slot) 1 u.slot u.r0 1 k.cyc 0 ++ endEv u k.cyc ++ [(k.cyc + 3, .form 0 off 0)]
    .go (addFlight (setCore s c { k with regAt := tset k.regAt o.sd.toNat (k.cyc + 4) }) c
      { eng := 0, addr := k.pc, due := k.cyc, evs := evs, job := some ⟨i, k.pc, ⟨0, 0, 0, 0⟩, 0⟩ }))

/-- Issue an STS (R104, R106): the write is in the issue cycle. -/
def issueSts (s : State) (c : Nat) (o : SqArgs) : Issued :=
  let k := getCore s c
  let n := 2 ^ (o.fn.toNat % 4)
  let off := ldsOff k o
  let u := ldsUse k o .write
  withSlots s c 0 k.pc false [u] (fun s =>
    if off % n != 0 then .stop [illegalRec s c k.pc 90] else
    let k := getCore s c
    let evs := issueEv u k.cyc ++ writeEvs (slotOf k 1 u.slot) 1 u.slot off (natLE n (sreg k o.sb).toNat) k.cyc ++ endEv u k.cyc
    .go (addFlight s c { eng := 0, addr := k.pc, due := k.cyc, evs := evs }))

/-- Issue an SHW (R104, R106): the address is checked, and the read waits for memory. -/
def issueShw (s : State) (c : Nat) (i : Instr) (o : SqArgs) : Issued :=
  let k := getCore s c
  let a := sreg k o.sa + o.imm
  if a.toNat % 4 != 0 then .stop [illegalRec s c k.pc 90]
  else
    let k' := { k with regAt := if o.sd = 0 then k.regAt else tset k.regAt o.sd.toNat never }
    .go (addFlight (setCore s c k') c { eng := 0, addr := k.pc, due := k.cyc, evs := [], mem := some ⟨i, k.pc, ⟨a, 0, 0, 0⟩, 0⟩ })

/-! ## Issue of Loader and Storer instructions (R107 to R112) -/

/-- Slot rows of one memory row, page, summary or record of `b` bytes. -/
def rowsOf (pad b : Nat) : Nat := ceilDiv b (rowW pad)

/-- The slot operand of an LD class instruction that touches `n` slot rows. -/
def ldUse (q : Queued) (o : LdArgs) (acc : Access) (n : Nat) : SlotUse :=
  { pad := o.sref.pad.toNat, slot := o.sref.slot.toNat, acc := acc, flag := o.sref.flag,
    r0 := if n = 0 then 0 else o.row.toNat + q.sc.c.toNat, n := n }

/-- Slot rows that LD and ST touch (R108). -/
def ldRows (o : LdArgs) : Nat := (o.nrows.toNat + 1) * rowsOf o.sref.pad.toNat o.rbytes.toNat

/-- Put a memory instruction in the air: its slot changes at the end of the issue cycle (R76). -/
def flyMem (s : State) (c eng : Nat) (q : Queued) (us : List SlotUse) : State :=
  let k := getCore s c
  addFlight s c { eng := eng, addr := q.addr, due := k.cyc, evs := us.flatMap (fun u => issueEv u k.cyc), mem := some q }

/-- Issue an LD or ST: address and stride are multiples of 16, checked when it issues (R108, R97). -/
def issueLdSt (s : State) (c eng : Nat) (q : Queued) (o : LdArgs) : Issued :=
  let u := ldUse q o (if eng = 1 then .write else .read) (ldRows o)
  withSlots s c eng q.addr false [u] (fun s =>
    if q.sc.a.toNat % 16 != 0 then .stop [illegalRec s c q.addr 86]
    else if q.sc.b.toNat % 16 != 0 then .stop [illegalRec s c q.addr 81]
    else .go (flyMem s c eng q [u]))

/-- Issue an LDKV, LDSK or STKV (R110, R111): what it touches is known when the walk is done. -/
def issueKv (s : State) (c eng : Nat) (q : Queued) (o : LdArgs) : Issued :=
  let u := ldUse q o (if eng = 1 then .write else .read) 0
  withSlots s c eng q.addr false [u] (fun s => .go (flyMem s c eng q [u]))

/-- Issue an STSH (R112). -/
def issueStsh (s : State) (c : Nat) (q : Queued) : Issued :=
  if q.sc.a.toNat % 4 != 0 then .stop [illegalRec s c q.addr 86] else .go (flyMem s c 2 q [])

/-! ## The last access -/

/-- The outcome of the accesses of a memory instruction: a wait for the page walker; the core's stop; the rows of the pad it reads
first, with the cycle of the last; or the state with its events from this cycle on and the cycle of its last pad access. -/
inductive LastAcc where
  | hold
  | stop (s : State) (rs : List Rec) (frame : Option Nat)
  | fetch (evs : List (Nat × FlightEv)) (due : Nat)
  | done (s : State) (evs : List (Nat × FlightEv)) (due : Nat)
  deriving DecidableEq, Repr

/-- Partition and plate set a core runs for. -/
def ctxPart (k : Core) : Nat := match k.ctx with | some x => x.part | none => 0
def ctxSet (k : Core) : W16 := match k.ctx with | some x => x.pset | none => 0

/-- A memory record of the work of core `c` (R333). -/
def forCore (s : State) (c addr : Nat) (r : Rec) : Rec :=
  let k := getCore s c
  { r with cmd := k.ctx.map (fun x => (x.ring, x.seq)), instr := some (addr, 0) }

/-- Raise the corrected memory errors of an access (R109). -/
def raiseCes (s : State) (c addr : Nat) (rs : List Rec) : State := rs.foldl (fun s r => raise' s (forCore s c addr r)) s

/-- The cycle of the last of `n` rows of a slot accessed from cycle `start` on, one of each bank a cycle (R66). -/
def lastRow (e : SlotEntry) (start n : Nat) : Nat := start + (n - 1) / Nat.max 1 e.bankCount.toNat

/-- The writes of rows of bytes, each on a slot row boundary of `rpr` rows from slot row `r0` on, one row of each bank a cycle from
`start` on (R66, R108). -/
def loadEvs (e : SlotEntry) (pad slot r0 rpr start : Nat) (rows : List (List Byte)) : List (Nat × FlightEv) :=
  rows.zipIdx.flatMap (fun p => (rowSpans e pad ((r0 + p.2 * rpr) * rowW pad) p.1.length).map (fun x =>
    (start + (p.2 * rpr + x.1) / Nat.max 1 e.bankCount.toNat, .write pad slot x.2.1 ((p.1.drop x.2.2.1).take x.2.2.2))))

/-- Memory address of row `i` of LD and ST (R108). -/
def rowAddr (q : Queued) (i : Nat) : Nat := (q.sc.a + BitVec.ofNat 64 i * q.sc.b).toNat

/-- The accesses of an LD (R88, R108, R109): a row outside the partition or uncorrectable stops the core, with the corrected lines of
the rows up to it reported. -/
def lastLd (s : State) (c : Nat) (q : Queued) (o : LdArgs) : LastAcc :=
  let k := getCore s c
  let rb := o.rbytes.toNat
  let rds := (List.range (o.nrows.toNat + 1)).map (fun i => (rowAddr q i, readPart s (ctxPart k) (ctxSet k) (rowAddr q i) rb))
  let fine := rds.takeWhile (fun r => r.2.err.isNone && r.2.ue.isNone)
  let s1 := raiseCes s c q.addr ((rds.take (fine.length + 1)).flatMap (fun r => r.2.ces))
  match rds.drop fine.length with
  | r :: _ => match r.2.err, r.2.ue with
    | some e, _ => .stop s1 [addrRec s c q.addr r.1 e] none
    | none, some x => .stop s1 [forCore s c q.addr x.1] (some x.2)
    | none, none => .hold
  | [] =>
    let u := ldUse q o .write (ldRows o)
    let e := slotOf k u.pad u.slot
    let due := lastRow e k.cyc u.n
    .done s1 (loadEvs e u.pad u.slot u.r0 (rowsOf u.pad rb) k.cyc (rds.map (fun r => r.2.bytes)) ++ endEv u due) due

/-- Note a memory write of share `k` of an armed step, for its share digest (R349). -/
def noteShare (s : State) (r q k a : Nat) (d : List Byte) : State :=
  updStep s r q (fun y => if y.armed then { y with writes := y.writes ++ [(k, a, d)] } else y)

/-- Note a memory write of a core for the share it runs (R349). -/
def noteWrite (s : State) (c a : Nat) (d : List Byte) : State :=
  match (getCore s c).ctx with
  | some x => match (findStep s x.ring x.seq).bind (fun y => y.shares.findIdx? (fun k => k == (x.launch, c))) with
    | some k => noteShare s x.ring x.seq k a d
    | none => s
  | none => s

/-- The reads of a Storer instruction (R66, R76): `n` rows of its slot into the buffer, one of each bank a cycle from this one on, and
the slot's release with the last. -/
def storeReads (k : Core) (u : SlotUse) : LastAcc :=
  let e := slotOf k u.pad u.slot
  let due := if u.n = 0 then k.cyc else lastRow e k.cyc u.n
  .fetch (readEvs e u.pad u.slot u.r0 u.n k.cyc 0 ++ endEv u due) due

/-- The bytes of `n` rows read, from row `i` on. -/
def storeBytes (f : Flight) (pad i n : Nat) : List Byte := (rangeFrom i n).flatMap (fun j => gotRow f (rowW pad) 0 j)

/-- Store the rows of an ST one after the other; a row outside the partition stops the core with the rows
before it written (R87, R109). -/
def storeRows (s : State) (c : Nat) (f : Flight) (q : Queued) (o : LdArgs) (i : Nat) : Nat → LastAcc
  | 0 => .done s [] f.due
  | n + 1 =>
    let k := getCore s c
    let p := ctxPart k
    let pad := o.sref.pad.toNat
    let rpr := rowsOf pad o.rbytes.toNat
    let d := (storeBytes f pad (i * rpr) rpr).take o.rbytes.toNat
    match writeErr s p (ctxSet k) (rowAddr q i) o.rbytes.toNat with
    | some e => .stop s [addrRec s c q.addr (rowAddr q i) e] none
    | none =>
      let we := workErrors s p (rowAddr q i) o.rbytes.toNat
      let s := raiseCes s c q.addr we.1
      match we.2 with
      | some (r, f) => .stop s [forCore s c q.addr r] (some f)
      | none => match storePart s p (rowAddr q i) d with
        | none => .hold
        | some s => storeRows (noteWrite s c (rowAddr q i) d) c f q o (i + 1) n

/-- The accesses of an ST (R108, R109): its rows are read from the pad, and then stored. -/
def lastSt (s : State) (c : Nat) (f : Flight) (q : Queued) (o : LdArgs) : LastAcc :=
  if f.job.isNone then storeReads (getCore s c) (ldUse q o .read (ldRows o)) else storeRows s c f q o 0 (o.nrows.toNat + 1)

/-- The access of an STSH (R112): a word of 4 bytes. It raises no memory error (R138). A far address with an ACTIVE key is
written as any other (DESIGN CHOICE, log 88). -/
def lastStsh (s : State) (c : Nat) (q : Queued) : LastAcc :=
  let k := getCore s c
  let a := q.sc.a.toNat
  match writeErr s (ctxPart k) (ctxSet k) a 4 with
  | some e => .stop s [addrRec s c q.addr a e] none
  | none => match storePart s (ctxPart k) a (natLE 4 q.sc.b.toNat) with
    | none => .hold
    | some s => .done (noteWrite s c a (natLE 4 q.sc.b.toNat)) [] k.cyc

/-- The access of an SHW (R104): the shape word, zero-extended. A far address with an ACTIVE key is read as any other (DESIGN
CHOICE, log 88). -/
def lastShw (s : State) (c : Nat) (q : Queued) (o : SqArgs) : LastAcc :=
  let k := getCore s c
  let a := q.sc.a.toNat
  let rd := readPart s (ctxPart k) (ctxSet k) a 4
  match rd.err with
  | some e => .stop s [addrRec s c q.addr a e] none
  | none =>
    let s := raiseCes s c q.addr rd.ces
    match rd.ue with
    | some x => .stop s [forCore s c q.addr x.1] (some x.2)
    | none => .done s [(k.cyc, .sreg o.sd.toNat (BitVec.ofNat 64 (leNat rd.bytes)))] k.cyc

/-! ## The page walker's instructions (R110, R111, R162) -/

/-- The record of a recall or copy that the walker cannot make (R109, R138, R162); none while it waits. -/
def walkRec (s : State) (c addr : Nat) (e : WalkErr) : Option Rec :=
  match e with
  | .noFrame => none
  | .digest => some { coreRec s c 0 addr 0 0 with syn := 0x0005 }
  | .retired _ => some (coreRec s c 0x0802 addr 0 0)
  | .line _ r _ => some (forCore s c addr r)

/-- What the pages of an LDKV or LDSK give. -/
inductive KvRead where
  | hold
  | stop (s : State) (r : Rec) (frame : Option Nat)
  | done (s : State) (items : List (List Byte))
  deriving DecidableEq, Repr

/-- The bytes of a page part (R110): keys, values or both. -/
def pagePart (s : State) (part : BitVec 2) (f : Nat) : Nat × Nat × List Byte :=
  let (o, n) := if part = 1 then (0, 32768) else if part = 2 then (32768, 32768) else (0, 65536)
  (o, n, readOut s f o n)

/-- The pages of an LDKV from page index `i` on, until one is not mapped (R110, R162). -/
def kvPages (s : State) (c addr si : Nat) (g : Geo) (o : LdArgs) (l i : Nat) (acc : List (List Byte)) : Nat → KvRead
  | 0 => .done s acc
  | n + 1 =>
    match walk s (getSess s si) g l o.grp.toNat i with
    | none => .done s acc
    | some e => match recallPage s si g l o.grp.toNat i e with
      | .error x => match walkRec s c addr x with
        | none => .hold
        | some r => .stop (noteWalk x (raiseCes s c addr x.ces)) r none
      | .ok s => match walk s (getSess s si) g l o.grp.toNat i with
        | none => .done s acc
        | some e =>
          let (lo, len, d) := pagePart s o.part e.pfn
          let le := lineErrors s e.pfn (lo / 64) ((lo + len - 1) / 64)
          let s := raiseCes s c addr le.1
          match le.2 with
          | some r => .stop s (forCore s c addr r) (some e.pfn)
          | none => kvPages s c addr si g o l (i + 1) (acc ++ [d]) n

/-- The summaries of an LDSK from page index `i` on (R110, R146): zeros where there is no summary. -/
def kvSummaries (s : State) (c addr si : Nat) (g : Geo) (o : LdArgs) (l i : Nat) (acc : List (List Byte)) : Nat → KvRead
  | 0 => .done s acc
  | n + 1 =>
    match walk s (getSess s si) g l o.grp.toNat i with
    | none => .done s acc
    | some e =>
      let le := bothErrors (tableErrors s (getSess s si) g l o.grp.toNat i) (sumErrors s e.sum)
      let d := if e.sum = 0 then List.replicate 1024 0 else readSum s e.sum
      let s := raiseCes s c addr le.1
      match le.2 with
      | some (r, f) => .stop s (forCore s c addr r) (some f)
      | none => kvSummaries s c addr si g o l (i + 1) (acc ++ [d]) n

/-- The session and geometry of an LDKV, LDSK or STKV (R110, R140, R479). -/
def kvSess (s : State) (c : Nat) (q : Queued) : Option (Nat × Geo) :=
  (openHandle s (ctxPart (getCore s c)) (BitVec.ofNat 32 q.sc.a.toNat)).bind (fun si => (sessGeo s si).map (fun g => (si, g)))

/-- The accesses of an LDKV or LDSK (R75, R110, R477). -/
def lastLdkv (s : State) (c : Nat) (q : Queued) (o : LdArgs) (sums : Bool) : LastAcc :=
  let l := bits q.sc.b 15 0
  let i := bits q.sc.b 47 16
  let n := o.nrows.toNat + 1
  let b := if sums then 1024 else if o.part = 3 then 65536 else 32768
  let pad := o.sref.pad.toNat
  let rpr := rowsOf pad b
  let rd := match kvSess s c q with
    | none => KvRead.done s []
    | some (si, g) => if sums then kvSummaries s c q.addr si g o l i [] n else kvPages s c q.addr si g o l i [] n
  match rd with
  | .hold => .hold
  | .stop s r f => .stop s [r] f
  | .done s items =>
    let u := ldUse q o .write (items.length * rpr)
    let k := getCore s c
    let e := slotOf k u.pad u.slot
    let due := if u.n = 0 then k.cyc else lastRow e k.cyc u.n
    if slotRows e < u.r0 + u.n then .stop s [slotRec s c q.addr 1 u 2] none
    else if overlaps k u then .stop s [slotRec s c q.addr 1 u 3] none
    else .done s (loadEvs e u.pad u.slot u.r0 rpr k.cyc items ++ [(due, .sreg o.sd.toNat (BitVec.ofNat 64 items.length))] ++ endEv u due) due

/-- Order key of a summary byte (R146): NaN is none; −0 and +0 are the same value. -/
def keyVal (kfmt : Nat) (b : Byte) : Option Int :=
  match decodeEl kfmt b.toNat with
  | .fin n m e => some ((if n then -1 else 1) * ((m <<< (e + 64).toNat : Nat) : Int))
  | .inf n => some (if n then -(2 ^ 200 : Int) else 2 ^ 200)
  | .nan => none

/-- The new bytes of a dimension of a summary after key byte `b` (R146). -/
def sumByte (kfmt : Nat) (mx mn b : Byte) : Byte × Byte :=
  match keyVal kfmt b with
  | none => let z := BitVec.ofNat 8 (canonNaN kfmt); (z, z)
  | some v =>
    (match keyVal kfmt mx with | none => mx | some m => if m < v then b else mx,
     match keyVal kfmt mn with | none => mn | some m => if v < m then b else mn)

/-- Update the summary block of a page for the keys of one token (R146). -/
def updSummary (s : State) (sm : Nat) (g : Geo) (keys : List Byte) : State :=
  if sm = 0 then s
  else
    let old := readBlk s sm 0 1024
    let prs := keys.zipIdx.map (fun p => sumByte g.kfmt (nth 0 old p.2) (nth 0 old (512 + p.2)) p.1)
    let s := writeBlk s sm 0 (prs.map (·.1))
    writeBlk s sm 512 (prs.map (·.2))

/-- Write the keys of one token into a page: each head's run of D bytes (R145). -/
def putKeys (s : State) (f : Nat) (g : Geo) (t : Nat) (d : List Byte) : State :=
  (List.range g.hg).foldl (fun s h => writeFrame s f (h * g.p * g.d + t * g.d) ((d.drop (h * g.d)).take g.d)) s

/-- Write the values of one token into a page, one byte each (R145). -/
def putValues (s : State) (f : Nat) (g : Geo) (t : Nat) (d : List Byte) : State :=
  d.zipIdx.foldl (fun s p => writeFrame s f (32768 + p.2 / g.d * g.d * g.p + p.2 % g.d * g.p + t) [p.1]) s

/-- Write one token record into the page of its position (R111): keys, values, or keys then values (log 12). -/
def putToken (s : State) (f sm : Nat) (g : Geo) (part : BitVec 2) (t : Nat) (d : List Byte) : State :=
  let w := Geo_width g
  let keys := if part = 2 then [] else d.take w
  let vals := if part = 1 then [] else if part = 2 then d.take w else (d.drop w).take w
  let s := if part = 2 then s else updSummary (putKeys s f g t keys) sm g keys
  putValues s f g t vals

/-- Bytes of one token record. -/
def tokenBytes (g : Geo) (part : BitVec 2) : Nat := if part = 3 then 2 * Geo_width g else Geo_width g

/-- What the tokens of an STKV give: a wait, a stop, or the state with the tokens stored. -/
inductive KvWrite where
  | hold
  | stop (s : State) (rs : List Rec)
  | done (s : State)
  deriving DecidableEq, Repr

/-- Tokens that an STKV stores: up to the first position without a mapped page (R111). -/
def kvCount (s : State) (o : LdArgs) (si : Nat) (g : Geo) (l pos : Nat) : Nat :=
  ((List.range (o.nrows.toNat + 1)).takeWhile (fun j => (walk s (getSess s si) g l o.grp.toNat ((pos + j) / g.p)).isSome)).length

/-- Store the token records of an STKV from record `j` on (R111, R158). -/
def kvTokens (s : State) (c : Nat) (f : Flight) (q : Queued) (o : LdArgs) (si : Nat) (g : Geo) (l pos j : Nat) : Nat → KvWrite
  | 0 => .done s
  | n + 1 =>
    let i := (pos + j) / g.p
    match walk s (getSess s si) g l o.grp.toNat i with
    | none => .done s
    | some e =>
      let pad := o.sref.pad.toNat
      let rpr := rowsOf pad (tokenBytes g o.part)
      let d := storeBytes f pad (j * rpr) rpr
      match writablePage s si g l o.grp.toNat i e with
      | .error x => match walkRec s c q.addr x with
        | none => .hold
        | some r => .stop (noteWalk x (raiseCes s c q.addr x.ces)) [r]
      | .ok (s, fr, sm) =>
        let le := if o.part = 2 then ([], none) else sumErrors s sm
        let s := raiseCes s c q.addr le.1
        match le.2 with
        | some (r, x) => .stop (withdraw s x) [forCore s c q.addr r]
        | none => kvTokens (noteWrite (putToken s fr sm g o.part ((pos + j) % g.p) d) c (frameAddr fr) d) c f q o si g l pos (j + 1) n

/-- The accesses of an STKV (R75, R111, R477): the records of the tokens it can store are read from the pad, and then stored. -/
def lastStkv (s : State) (c : Nat) (f : Flight) (q : Queued) (o : LdArgs) : LastAcc :=
  let k := getCore s c
  let l := bits q.sc.b 15 0
  let pos := bits q.sc.b 47 16
  let x := kvSess s c q
  let n := match x with | none => 0 | some (si, g) => kvCount s o si g l pos
  let rpr := match x with | none => 0 | some (_, g) => rowsOf o.sref.pad.toNat (tokenBytes g o.part)
  let u := ldUse q o .read (n * rpr)
  if f.job.isNone then
    if slotRows (slotOf k u.pad u.slot) < u.r0 + u.n then .stop s [slotRec s c q.addr 2 u 2] none else storeReads k u
  else
    let m := if rpr = 0 then 0 else f.got.length / rpr
    let r := match x with | none => KvWrite.done s | some (si, g) => kvTokens s c f q o si g l pos 0 m
    match r with
    | .hold => .hold
    | .stop s rs => .stop s rs none
    | .done s => .done s [(k.cyc, .sreg o.sd.toNat (BitVec.ofNat 64 m))] f.due

/-- The accesses of a memory instruction (R76). -/
def lastMem (s : State) (c : Nat) (f : Flight) (q : Queued) : LastAcc :=
  match q.ins with
  | .ld _ _ o => lastLd s c q o
  | .ldkv _ _ o => lastLdkv s c q o false
  | .ldsk _ _ o => lastLdkv s c q o true
  | .st _ _ o => lastSt s c f q o
  | .stkv _ _ o => lastStkv s c f q o
  | .stsh _ _ _ => lastStsh s c q
  | .shw _ _ o => lastShw s c q o
  | _ => .done s [] f.due

/-- Change the oldest flight of engine `eng` in a list. -/
def setOldest (eng : Nat) (f : Flight → Option Flight) : List Flight → List Flight
  | [] => []
  | x :: t => if x.eng = eng then (match f x with | some y => y :: t | none => t) else x :: setOldest eng f t

/-- Begin the accesses of the oldest memory instruction `f` of engine `eng` in this cycle, or go on with them once its rows are read
(R76). An uncorrectable memory error withdraws its frame (R343). -/
def finishMem (s : State) (c eng : Nat) (f : Flight) (q : Queued) : State :=
  match lastMem s c f q with
  | .hold => s
  | .stop s rs fr =>
    let k := getCore s c
    let s := setCore s c { k with flights := setOldest eng (fun _ => none) k.flights }
    let s := endCycle (stopNow s c eng q.addr rs) c
    (match fr with | some x => frameBad s x | none => s)
  | .fetch evs due =>
    let k := getCore s c
    setCore s c { k with flights := setOldest eng (fun x => some { x with job := some q, due := due, evs := x.evs ++ evs }) k.flights }
  | .done s evs due =>
    let k := getCore s c
    let fly := fun x => let y : Flight := { x with mem := none, job := none, due := due, evs := x.evs ++ evs }
      if flightLive (k.cyc - 1) y then some y else none
    setCore s c { k with flights := setOldest eng fly k.flights }

end Sys2Proof.Machine
end

