-- ==== Sys2Proof/Machine/Sessions.lean ====
section
/-! DEFINITION. Session commands of a ring (R139 to R164, R274, R275, R279): OPEN_SESSION, CLOSE_SESSION, FORK,
EVICT and RECALL, with the pairing request of a Fixed session (R384). -/

namespace Sys2Proof.Machine

open Sys2Proof

/-! ## Indices (R139, R237) -/

/-- Whether a partition may open a session on index `i`: in isolation mode the index's record frame lies in the
partition's own stacks (R219, R237). -/
def indexOk (s : State) (p i : Nat) : Bool := !s.dev.isolate || hasTile (getPart s p) (i / 256 % 8)

/-- The least index never used in record frame `n` that a partition may open. -/
def freshIn (s : State) (p n : Nat) : Option Nat :=
  (rangeFrom (256 * n) 256).find? (fun i => decide (i < 200000) && indexOk s p i && (tfind s.sess i).isNone)

/-- The index the next session of a partition takes: the least one never used, then freed ones in the order in
which they were freed (R139, log 16). -/
def nextIndex (s : State) (p : Nat) : Option Nat :=
  match (List.range 782).findSome? (fun n => if indexOk s p (256 * n) then freshIn s p n else none) with
  | some i => some i
  | none => s.freeIdx.find? (indexOk s p)

/-- Put a new session record at index `i` (R141); its generation is the one stored for the index. -/
def openAt (s : State) (i : Nat) (x : Sess) : State :=
  let g := (getSess s i).gen
  { setSess s i { x with gen := g, st := .open_ } with freeIdx := s.freeIdx.erase i }

/-- The record OPEN_SESSION writes (R141). -/
def newSess (s : State) (p : Nat) (cls : BitVec 2) (pin : W16) (seed : W64) (quota : Nat) : Sess :=
  { seed := seed, quota := quota, plateset := pin, part := BitVec.ofNat 3 p, cls := cls, keySlot := (getPart s p).keySlot }

/-! ## The end of a session (R142) -/

/-- Drop a session's reference on every mapped page, and retire its table blocks (R142 steps 2 and 3). -/
def dropPages (s : State) (i : Nat) : State :=
  let x := getSess s i
  let p := x.part.toNat
  match sessGeo s i with
  | none => s
  | some g =>
    let s := (mappedPages s i g).foldl (fun s e => if e.2.host then retireBlock s p e.2.sum else dropRef s p e.2.pfn e.2.sum) s
    (tableBlocks s x).foldl (fun s a => retireBlock s p a) s

/-- Advance the generation of an index and free it; past 16,383 the index is parked (R139). -/
def freeIndex (s : State) (i : Nat) : State :=
  let x := getSess s i
  if x.gen.toNat = 16383 then
    let s := setSess s i { gen := x.gen, st := .free, parked := true }
    { s with dev := { s.dev with parked := s.dev.parked + 1 } }
  else
    let s := setSess s i { gen := x.gen + 1, st := .free }
    { s with freeIdx := s.freeIdx ++ [i] }

/-- An exposure ends: the references it still holds are dropped, and it no longer counts as streaming (R160, R383). -/
def endExp (s : State) (e : Exposure) : State :=
  let s := e.pages.foldl (fun s pg => dropRef s e.part pg.1 pg.2.1) s
  let s := endStep { s with exps := s.exps.filter (fun k => k.id != e.id) } e.part (transferStep e.id)
  let x := getPart s e.part
  let s := setPart s e.part { x with condSince := s.time.ftime }
  match e.sess with
  | some i => if e.taken then (let x := getSess s i; setSess s i { x with expOpen := x.expOpen - 1 }) else s
  | none => s

/-- What an exposure that was given up does to its command: EXPOSE ends FAULT, and so does MIGRATE_OUT, its session
OPEN again (R379, R391). A session that a DRAIN was moving is left to its partner's takeover (R283, log 38). -/
def failExp (s : State) (e : Exposure) : State :=
  match findCmd s e.ring e.seq with
  | none => s
  | some c =>
    let drain := opcodeOf c == 0x43
    let s := match e.sess with
      | some i => (let x := getSess s i; if x.st == .fenced then setSess s i { x with st := .open_, yield_ := x.yield_ || drain } else s)
      | none => s
    if e.pairing || drain then s else finish s c.ring c.seq stFault

/-- Abandon exposures: the references they still hold are dropped, and their commands end FAULT (R379, R160). -/
def abandonExps (s : State) (f : Exposure → Bool) : State := (s.exps.filter f).foldl (fun s e => failExp (endExp s e) e) s

/-- Send a message of the exposure channel to a session's partner (R384, R392). -/
def toPartner (s : State) (i : Nat) (b : Body) : State :=
  let x := getSess s i
  send s x.part.toNat x.partner chExp pkMessage 0 0 0 b

/-- Free session `i` (R142): references, blocks, generation; a paired session closes its shadow first (R390). -/
def closeSess (s : State) (i : Nat) : State :=
  let x := getSess s i
  let s := if x.pstate == 1 && !x.shadow then toPartner s i (.exp x.partnerHandle .close) else s
  let s := setSess s i { x with st := .closing }
  let s := abandonExps s (fun e => e.sess == some i)
  sweepSets (freeIndex (dropPages s i) i)

/-- Note before a session goes that its command's completion carries DEGRADED (R287). -/
def noteDegr (s : State) (c : Cmd) (i : Nat) : State :=
  let x := getSess s i
  updCmd s c.ring c.seq (fun c => { c with degr := x.degraded && x.cls == clsFixed })

/-- CLOSE_SESSION (R142, R139, R390). -/
def execCloseSession (r q : Nat) (s : State) : Host.Outcome State Fault Refusal :=
  match runnable s r q 0x02 with
  | none => .next s
  | some c => match openHandle s c.part (BitVec.ofNat 32 (dfield c 511 480)) with
    | none => .next (faultCmd s c 0x0003 511 0)
    | some i =>
      if !sessionTurn s c (BitVec.ofNat 32 (dfield c 511 480)) then .next s
      else .next (finish (closeSess (noteDegr (startCmd s r q) c i) i) r q stOk)

/-! ## Opening (R274, R384) -/

/-- Ask the partner for a pairing (R384); the command waits for its answer. -/
def askPairing (s : State) (r q i : Nat) (partner ring : Nat) (need res : Nat) : State :=
  let x := { getSess s i with partner := BitVec.ofNat 16 partner, partnerRing := BitVec.ofNat 15 ring }
  let s := setSess s i { x with openDig := (journalAt (getRing s r) q).digest }
  let x := getSess s i
  let s := toPartner s i (.pairReq { handle := handleOf i x, seed := x.seed, pin := x.plateset, feed := s.pwr.feedId, ring := x.partnerRing,
                                      pages := need, quota := BitVec.ofNat 32 x.quota, position := BitVec.ofNat 32 x.position,
                                      openDig := x.openDig })
  updCmd s r q (fun c => { c with wait := .pairing, handle := handleOf i x, res := res })

/-- The end of a command that has opened session `i`: at once, or after the pairing on a Fixed ring. -/
def opened (s : State) (c : Cmd) (i partner ring res : Nat) : State :=
  let res := ((handleOf i (getSess s i)).toNat <<< 96) + res
  if c.cls == clsFixed then askPairing s c.ring c.seq i partner ring (getSess s i).pages res
  else complete s c.ring c.seq { status := stOk, result := res }

/-- OPEN_SESSION (R274, R141). -/
def execOpenSession (r q : Nat) (s : State) : Host.Outcome State Fault Refusal :=
  match runnable s r q 0x01 with
  | none => .next s
  | some c =>
    if partnerBad c (dfield c 399 384) then .next (faultCmd s c 0x0019 399 0)
    else match nextIndex s c.part with
      | none => .next (finish s r q stRejected)
      | some i =>
        let s := openAt (startCmd s r q) i (newSess s c.part c.cls c.set (BitVec.ofNat 64 (dfield c 511 448)) (dfield c 431 400))
        .next (opened s c i (dfield c 399 384) (dfield c 383 369) 0)

/-! ## FORK (R156, R157, R275) -/

/-- Give a child the page of its parent: shared, or its own copy at 65,535 holders (R156, R157). -/
def forkPage (s : State) (ch : Nat) (g : Geo) (l grp i : Nat) (e : Pte) : Option State :=
  (ensureLeaf s ch g l grp i).bind (fun s =>
    let p := (getSess s ch).part.toNat
    let bump := fun (s : State) => let x := getSess s ch; setSess s ch { x with pages := x.pages + 1 }
    if (getFrame s e.pfn).refcnt < 65535 then some (bump (setPte (addRef s e.pfn) (getSess s ch) g l grp i (pteWord e)))
    else (newNear (beginCopy s p) p 1 0).bind (fun (s, f) => (copySummary (copyFrame s e.pfn f) p e.sum).map (fun (s, a) =>
      endCopy (bump (setPte s (getSess s ch) g l grp i (pteWord ⟨false, a, f⟩))) p)))

/-- What sharing a prefix came to. -/
inductive ForkEnd where
  | short
  | bad (e : WalkErr)
  | done (s : State)
  deriving DecidableEq, Repr

/-- Share the pages of a parent one by one, recalling those below near memory first (R156, R162, log 89). -/
def forkPages (s : State) (pa ch : Nat) (g : Geo) : List (Nat × Nat × Nat) → ForkEnd
  | [] => .done s
  | (l, grp, i) :: rest => match walk s (getSess s pa) g l grp i with
    | none => forkPages s pa ch g rest
    | some e =>
      match recallPage s pa g l grp i e with
      | .error .noFrame => .short
      | .error x => .bad x
      | .ok s => match walk s (getSess s pa) g l grp i with
        | none => forkPages s pa ch g rest
        | some e =>
          match readLines s (if (getFrame s e.pfn).refcnt < 65535 then ([], none) else pageErrors s e.pfn e.sum) with
          | .error x => .bad x
          | .ok s => match forkPage s ch g l grp i e with
            | none => .short
            | some s => forkPages s pa ch g rest

/-- E_KEY_RETIRED raised by the page walker of a partition's first tile (R109, R232). -/
def keyRetired (s : State) (c : Cmd) : State × Nat :=
  raiseCmdDone s c { code := 0x0802, sev := sevContained, part := some c.part, unitType := uWalker,
                     unitId := BitVec.ofNat 16 (getPart s c.part).tileBase.toNat }

/-- A Fixed session command that met a cause inside the module goes to its partner with the session, where it has one, else it begins
again (R286, R342). -/
def toMate (s : State) (c : Cmd) (i : Nat) : State :=
  if paired (getSess s i) then updCmd (setSess s i { getSess s i with yield_ := true }) c.ring c.seq (fun k => { k with wait := .stopped }) else s

/-- A command whose page of session `i` could not be recalled or copied ends FAULT (R162); an uncorrectable line lies inside the module,
which ends no Fixed command (R286). -/
def walkFault (s : State) (c : Cmd) (i : Nat) (e : WalkErr) (result : Nat) : State :=
  match e with
  | .retired _ => complete (keyRetired s c).1 c.ring c.seq { status := stFault, result := result }
  | .line cs r f =>
    let s := withdraw (raiseCmdDone (cs.foldl raise' s) c r).1 f
    if c.cls == clsFixed then toMate s c i else complete s c.ring c.seq { status := stFault, result := result }
  | _ => complete (raiseCmd s c (synRec 0x0005 (some c.part) uHub 0 0)).1 c.ring c.seq { status := stFault, result := result }

/-- A command whose frames fall short (R152, R275, R279): it waits until every step that ran at the moment of the shortage has ended,
and is REJECTED when they still fall short then. -/
def shortage (s : State) (c : Cmd) : State :=
  let ids := (getPart s c.part).running.map (·.1)
  match c.short with
  | none => if ids.isEmpty then finish s c.ring c.seq stRejected else updCmd s c.ring c.seq (fun k => { k with short := some ids })
  | some was => if was.any ids.contains then s else finish s c.ring c.seq stRejected

/-- FORK (R156, R275). -/
def execFork (r q : Nat) (s : State) : Host.Outcome State Fault Refusal :=
  match runnable s r q 0x05 with
  | none => .next s
  | some c => match openHandle s c.part (BitVec.ofNat 32 (dfield c 511 480)) with
    | none => .next (faultCmd s c 0x0003 511 0)
    | some pa =>
      let x := getSess s pa
      let n := dfield c 479 448
      match (findSet s c.part x.plateset).filter (fun y => y.st == .broken) with
      | some y => .next (if c.cls == clsFixed then s else finish s r q (brokenStatus y))
      | none =>
      if n = 0 ∨ x.position < n then .next (faultCmd s c 0x001A 479 0)
      else if partnerBad c (dfield c 351 336) then .next (faultCmd s c 0x0019 351 0)
      else match nextIndex s c.part with
        | none => .next (finish s r q stRejected)
        | some ch =>
          let child := { newSess s c.part c.cls x.plateset (BitVec.ofNat 64 (dfield c 447 384)) (dfield c 383 352) with
                         parent := BitVec.ofNat 32 (dfield c 511 480), position := n }
          let s1 := openAt (startCmd (reclaim s c.part) r q) ch child
          match sessGeo s pa with
          | none => .next (opened s1 c ch (dfield c 351 336) (dfield c 335 321) 0)
          | some g =>
            let todo := ((mappedPages s pa g).map (·.1)).filter (fun k => decide (k.2.2 < ceilDiv n g.p))
            match forkPages s1 pa ch g todo with
            | .short => .next (shortage (reclaim s c.part) c)
            | .bad e => .next (walkFault s c pa e 0)
            | .done s => .next (opened s c ch (dfield c 351 336) (dfield c 335 321) 0)

/-! ## EVICT and RECALL (R161, R162, R279) -/

/-- The mapped pages of a session in the range an EVICT or RECALL names. -/
def pagesNamed (s : State) (c : Cmd) (i : Nat) (g : Geo) : List ((Nat × Nat × Nat) × Pte) :=
  (mappedPages s i g).filter (fun e => decide (dfield c 479 464 ≤ e.1.1) && decide (e.1.1 ≤ dfield c 463 448) &&
    decide (dfield c 447 416 ≤ e.1.2.2) && decide (e.1.2.2 ≤ dfield c 415 384))

/-- RESULT of EVICT and RECALL (R279). -/
def movedResult (moved skipped : Nat) : Nat := ((moved % 2 ^ 32) <<< 96) + ((skipped % 2 ^ 32) <<< 64)

/-- Evict one page, a step of the partition, once its lines and those of the walk to it are read (R109, R153, R161). -/
def evictPage (s : State) (c : Cmd) (i : Nat) (g : Geo) (host : Bool) (k : Nat × Nat × Nat) (e : Pte) : Except WalkErr State :=
  match readLines s (bothErrors (tableErrors s (getSess s i) g k.1 k.2.1 k.2.2) (pageErrors s e.pfn e.sum)) with
  | .error x => .error x
  | .ok s =>
    let s := beginCopy s c.part
    match (if host then evictHost s (BitVec.ofNat 64 (dfield c 319 256)) i g k.1 k.2.1 k.2.2 e else evictFar s i g k.1 k.2.1 k.2.2 e) with
    | none => .error .noFrame
    | some s => .ok (endCopy s c.part)

/-- What moving pages one by one came to: all of them, or the first that failed with the state and the count before it. -/
inductive MoveEnd where
  | short
  | bad (s : State) (moved : Nat) (e : WalkErr)
  | done (s : State)
  deriving DecidableEq, Repr

/-- Move pages one after the other (R279): those moved before a failure stay moved. -/
def movePages (f : State → (Nat × Nat × Nat) × Pte → Except WalkErr State) (s : State) (n : Nat) : List ((Nat × Nat × Nat) × Pte) → MoveEnd
  | [] => .done s
  | e :: rest => match f s e with
    | .error .noFrame => .short
    | .error x => .bad s n x
    | .ok s => movePages f s (n + 1) rest

/-- The end of EVICT or RECALL (R279): a shortage on the way counts as one before anything moves. -/
def moveDone (s : State) (c : Cmd) (i todo skipped : Nat) : MoveEnd → State
  | .short => shortage s c
  | .bad t n x => walkFault t c i x (movedResult n skipped)
  | .done t => complete t c.ring c.seq { status := stOk, result := movedResult todo skipped }

/-- EVICT (R161, R163, R279). A ring that may write no host memory any more moves no page to it (R260, R261). -/
def execEvict (r q : Nat) (s : State) : Host.Outcome State Fault Refusal :=
  match runnable s r q 0x06 with
  | none => .next s
  | some c => match openHandle s c.part (BitVec.ofNat 32 (dfield c 511 480)) with
    | none => .next (faultCmd s c 0x0003 511 0)
    | some i =>
      let x := getSess s i
      let host := dfield c 383 382 == 2
      if host && x.hostImage != 0 && dfield c 319 256 != 0 then .next (faultCmd s c 0x0013 319 0)
      else match sessGeo s i with
        | none => .next (complete s r q { status := stOk })
        | some g =>
          let s := reclaim s c.part
          let all := pagesNamed s c i g
          let todo := all.filter (fun e => !e.2.host && (host || !isFar e.2.pfn) && !(host && (getRing s r).mute))
          if !todo.isEmpty && (getKey s x.keySlot.toNat).st ≠ .active then .next (walkFault s c i (.retired x.keySlot.toNat) 0)
          else if !host && decide (farFree s c.part < todo.length) then .next (shortage s c)
          else if host && decide (dfield c 255 224 < x.hostUsed.length + todo.length) then .next (faultCmd s c 0x001D 255 0)
          else .next (moveDone s c i todo.length (all.length - todo.length)
            (movePages (fun s e => evictPage s c i g host e.1 e.2) (startCmd s r q) 0 todo))

/-- RECALL (R162, R279). -/
def execRecall (r q : Nat) (s : State) : Host.Outcome State Fault Refusal :=
  match runnable s r q 0x07 with
  | none => .next s
  | some c => match openHandle s c.part (BitVec.ofNat 32 (dfield c 511 480)) with
    | none => .next (faultCmd s c 0x0003 511 0)
    | some i => match sessGeo s i with
      | none => .next (complete s r q { status := stOk })
      | some g =>
        let s := reclaim s c.part
        let all := pagesNamed s c i g
        let todo := all.filter (fun e => e.2.host || isFar e.2.pfn)
        if nearFree s c.part < todo.length then .next (shortage s c)
        else .next (moveDone s c i todo.length (all.length - todo.length)
          (movePages (fun s e => recallPage s i g e.1.1 e.1.2.1 e.1.2.2 e.2) (startCmd s r q) 0 todo))

end Sys2Proof.Machine
end

