-- ==== Sys2Proof/Machine/PlateSets.lean ====
section
/-! DEFINITION. Plate sets (11): the image as its records lie in it (R295), the checks of activation (R144, R166,
R188, R295, R479), loading from sources with retries (R296 to R299), and the rows PLATE_LOAD, PLATESET_ACTIVATE,
PLATESET_RETIRE, PLATE_ATTEMPT_DONE, PLATE_ATTEMPT_TIMEOUT, PLATE_REQ, PLATE_RSP, MILK_RUN_PASS and
PLATE_RELOAD_DONE. -/

namespace Sys2Proof.Machine

open Sys2Proof

/-! ## The plate image (R295) -/

/-- The plate whose bytes cover image bytes [a, a + n), if they do not cross a 64 KiB image page (R295). -/
def coverPlate (x : PlateSet) (a n : Nat) : Option (Nat × Plate) :=
  if a / 65536 ≠ (a + n - 1) / 65536 then none
  else x.plates.find? (fun e => e.2.frames != [] && decide (e.2.page * 65536 ≤ a) && decide (a + n ≤ e.2.page * 65536 + e.2.length))

/-- The frame and offset of image byte `a`. -/
def imageLoc (x : PlateSet) (a : Nat) : Option (Nat × Nat) :=
  match imageFrame x (a / 65536) with
  | .frame f => some (f, a % 65536)
  | .zeros => none

/-- Bytes of the image within one page as a read delivers them; zeros where no plate covers it (R295, R220). -/
def imageBytes (s : State) (x : PlateSet) (a n : Nat) : List Byte :=
  match imageLoc x a with
  | some (f, o) => readOut s f o n
  | none => List.replicate n 0

/-- What a read of image bytes within one page raises: corrected records, and an uncorrectable one with its frame (R220, R343). -/
def imageErrors (s : State) (x : PlateSet) (a n : Nat) : List Rec × Option (Rec × Nat) :=
  match imageLoc x a with
  | some (f, o) => let e := lineErrors s f (o / 64) ((o + n - 1) / 64); (e.1, e.2.map (fun r => (r, f)))
  | none => ([], none)

/-- Why the checks of an activation stop: a failure with its syndrome, or an uncorrectable plate line. -/
inductive CheckErr where
  | fail (syn : Nat)
  | ue (r : Rec) (f : Nat)
  deriving DecidableEq, Repr

/-- What a check comes to, with the corrected lines that its reads met (R220). -/
structure Checked (α : Type) where
  ces : List Rec := []
  out : Except CheckErr α

/-- A check that has passed. -/
def passed {α : Type} (x : α) : Checked α := { out := .ok x }

/-- A check that fails with a syndrome. -/
def failed {α : Type} (syn : Nat) : Checked α := { out := .error (.fail syn) }

/-- Check on with what one check gave. -/
def andThen {α β : Type} (c : Checked α) (f : α → Checked β) : Checked β :=
  match c.out with
  | .error e => ⟨c.ces, .error e⟩
  | .ok x => ⟨c.ces ++ (f x).ces, (f x).out⟩

/-- Read a record or table of `n` bytes that an image block names, or fail with a syndrome; block 0 is none (R295). -/
def readTable (s : State) (x : PlateSet) (syn blk off n : Nat) : Checked (List Byte) :=
  let a := blk * 1024 + off
  if blk = 0 ∨ (coverPlate x a n).isNone then failed syn
  else
    let e := imageErrors s x a n
    ⟨e.1, match e.2 with | some (r, f) => .error (.ue r f) | none => .ok (imageBytes s x a n)⟩

/-! ## Activation checks -/

/-- Bytes of a row of `16 × (dim + 1)` elements in a format (R188). -/
def rowSize (fmt dim : Nat) : Nat :=
  let n := 16 * (dim + 1)
  if fmt = 10 then 4 * n else if fmt = 8 ∨ fmt = 9 then 2 * n else ceilDiv (n * 33) 32

/-- The largest of a list of FP32 values, +0 for none. -/
def largest (l : List W32) : W32 := match l with | [] => 0 | x :: t => t.foldl fmax x

/-- FP16 entries of a table. -/
def halves (d : List Byte) : List Val := (chunks 2 d).map (fun b => decodeEl 9 (leNat b))

/-- Whether the fields of an attention record meet R166. -/
def attnOk (g : Geo) (w : W128) : Bool :=
  let sc := val32 (BitVec.ofNat 32 (bits w 127 96))
  let rope := bits w 87 86
  bits w 82 64 == 0 && rope != 3 && !(rope != 0 && g.d != 128) &&
  (match sc with | .fin _ m _ => m != 0 | _ => false)

/-- Whether a bias entry is allowed (R166). -/
def biasOk (v : Val) : Bool := match v with | .nan => false | .inf s => s | _ => true

/-- Whether the fields of a routing record meet R188. -/
def routeOk (w : W256) : Bool :=
  let e := bits w 127 116 + 1
  let k := bits w 115 113 + 1
  let sp := bits w 112 109
  let i := bits w 83 80
  let o := bits w 79 76
  let c := bits w 75 72
  let dim := bits w 95 84
  bits w 108 96 == 0 && bits w 55 0 == 0 && decide (k + sp ≤ e) && decide (sp ≤ 8) &&
  ([0, 1, 5, 8, 9, 10] : List Nat).contains i && ([8, 9, 10] : List Nat).contains o && ([8, 10] : List Nat).contains c &&
  decide (rowSize i dim ≤ 61440) && decide (rowSize o dim ≤ 61440) && bits w 191 160 != 0

/-- Check one item after another. -/
def checkAll {α β : Type} (f : α → Checked β) (acc : List β) : List α → Checked (List β)
  | [] => passed acc
  | x :: t => andThen (f x) (fun y => checkAll f (acc ++ [y]) t)

/-- One attention record with its tables (R166): the record and bmax of each head. -/
def checkAttn (s : State) (x : PlateSet) (g : Geo) (l : Nat) : Checked (W128 × List W32) :=
  andThen (readTable s x 0x0006 (bits x.header 351 320) (16 * l) 16) (fun d =>
    let w : W128 := BitVec.ofNat 128 (leNat d)
    let heads := g.ng * g.hg * (bits w 95 88 + 1)
    if !attnOk g w then failed 0x0006
    else
      let go : Checked (W128 × List W32) :=
        if bit w 85 then andThen (readTable s x 0x0006 (bits w 31 0) 0 (512 * heads)) (fun t =>
          if !(halves t).all biasOk then failed 0x0006
          else passed (w, (chunks 512 t).map (fun h => largest ((halves h).map toF32))))
        else passed (w, List.replicate heads 0)
      if bits w 87 86 = 0 then go else andThen (readTable s x 0x0006 (bits w 63 32) 0 256) (fun _ => go))

/-- One routing record with its tables (R188); an all-zero record has none (R294). -/
def checkRoute (s : State) (x : PlateSet) (l : Nat) : Checked W256 :=
  andThen (readTable s x 0x0009 (bits x.header 319 288) (32 * l) 32) (fun d =>
    let w : W256 := BitVec.ofNat 256 (leNat d)
    let e := bits w 127 116 + 1
    if w = 0 then passed w
    else if !routeOk w then failed 0x0009
    else andThen (readTable s x 0x0009 (bits w 191 160) 0 (4 * e)) (fun m =>
      if (chunks 4 m).any (fun b => decide (65536 ≤ leNat b)) then failed 0x0009
      else if bits w 159 128 = 0 then passed w
      else andThen (readTable s x 0x0009 (bits w 159 128) 0 (4 * e)) (fun t =>
        if (chunks 4 t).any (fun b => match val32 (BitVec.ofNat 32 (leNat b)) with | .fin _ _ _ => false | _ => true) then failed 0x0009
        else passed w)))

/-- Whether two plates share an image page (R295). -/
def sharesPage (x : PlateSet) : Bool :=
  x.plates.any (fun e => x.plates.any (fun f => e.1 != f.1 && decide (e.2.page < f.2.page + platePages f.2) && decide (f.2.page < e.2.page + platePages e.2)))

/-- The records of a set with a geometry (R144, R166, R188, R294). -/
def checkRecords (s : State) (x : PlateSet) : Checked PlateSet :=
  andThen (readTable s x 0x0004 (bits x.header 383 352) 0 16) (fun d =>
    let w : W128 := BitVec.ofNat 128 (leNat d)
    let g := geoOf w
    if !geoOk w then failed 0x0004
    else andThen (checkAll (checkAttn s x g) [] (List.range g.nl)) (fun at_ =>
      andThen (checkAll (checkRoute s x) [] (if bits x.header 319 288 = 0 then [] else List.range g.nl)) (fun rt =>
        let bm := at_.zipIdx.flatMap (fun e => e.1.2.zipIdx.map (fun h => (e.2 * 65536 + h.2, h.1)))
        passed { x with geo := w, attn := at_.map (·.1), bmax := bm, routes := rt })))

/-- The set with the records its activation has checked (R144, R166, R188, R295, R479). -/
def checkSet (s : State) (x : PlateSet) : Checked PlateSet :=
  if sharesPage x then failed 0x001F
  else
    let cost : Checked W256 := if bits x.header 287 256 = 0 then passed 0
      else andThen (readTable s x 0x001F (bits x.header 287 256) 0 32) (fun d => passed (BitVec.ofNat 256 (leNat d)))
    andThen cost (fun c =>
      if bits x.header 383 352 != 0 then checkRecords s { x with cost := c }
      else if bits x.header 351 320 = 0 ∧ bits x.header 319 288 = 0 ∧ bits x.header 415 384 = 0 then passed { x with cost := c } else failed 0x0004)

/-- The ring consumer counters of commands whose exempt wait ends count from now (R358). -/
def rearm (s : State) (f : Cmd → Bool) : State :=
  (s.cmds.filter f).foldl (fun s c => setRing s c.ring { getRing s c.ring with moved := s.time.ftime }) s

/-- Change every accepted command that satisfies a test. -/
def updAllCmds (s : State) (f : Cmd → Bool) (g : Cmd → Cmd) : State := { s with cmds := updAll f g s.cmds }

/-! ## Waiting pins and activation (R274, R301, R302) -/

/-- Make a set CURRENT for an activation and its id's previous generation RETIRED, in one step (R301): the SET_ID that was CURRENT. The
command starts here (R263). -/
def makeCurrent (s : State) (c : Cmd) (y : PlateSet) : State × Nat :=
  let p := c.part
  let s := startCmd s c.ring c.seq
  let old := currentSet s p (bits y.setId 11 0)
  let s := match old with | some o => updSet s p o.setId (fun z => { z with st := .retired }) | none => s
  (updSet s p y.setId (fun _ => { y with st := .current }), match old with | some o => o.setId.toNat | none => 0)

/-- The end of an activation, and of the waits for it. -/
def endActivation (s : State) (c : Cmd) (d : Done) : State :=
  resolvePins (complete s c.ring c.seq d) c.part (dfield c 507 496)

/-- End an activation FAULT with a syndrome. -/
def failActivation (s : State) (c : Cmd) (syn : Nat) : State :=
  resolvePins (faultCmd s c syn (if syn = 0x0023 then 511 else 0) 0) c.part (dfield c 507 496)

/-- Act on a PLATESET_ACTIVATE by the state of its set (R301). -/
def activate (s : State) (c : Cmd) : State :=
  let p := c.part
  let id : W16 := BitVec.ofNat 16 (dfield c 511 496)
  match findSet s p id with
  | none => failActivation s c 0x0023
  | some x => match x.st with
    | .loading => updCmd s c.ring c.seq (fun c => { c with wait := .loading })
    | .current => endActivation s c { status := stOk, result := id.toNat <<< 112 }
    | .broken => endActivation s c { status := brokenStatus x }
    | .retired =>
      let (s, old) := makeCurrent s c x
      endActivation s c { status := stOk, result := old <<< 112 }
    | .ready =>
      if reloading s p id then updCmd s c.ring c.seq (fun c => { c with wait := .reload })
      else
        let k := checkSet s x
        let s := k.ces.foldl raise' s
        match k.out with
        | .error (.fail syn) => failActivation s c syn
        | .error (.ue r f) => frameBad (raiseDone (updCmd s c.ring c.seq (fun c => { c with wait := .reload })) { r with part := some p }) f
        | .ok y =>
          let (s, old) := makeCurrent s c y
          endActivation s c { status := stOk, result := old <<< 112 }

/-- PLATESET_ACTIVATE (R301). -/
def execPlatesetActivate (r q : Nat) (s : State) : Host.Outcome State Fault Refusal :=
  match runnable s r q 0x11 with
  | none => .next s
  | some c => .next (activate s c)

/-- Activations that wait on a set go on (R300, R301, R305). -/
def wakeActivations (s : State) (p : Nat) (id : W16) : State :=
  (s.cmds.filter (fun c => c.part == p && opcodeOf c == 0x11 && (c.wait == .loading || c.wait == .reload) &&
      dfield c 511 496 == id.toNat)).foldl (fun s c => activate (updCmd s c.ring c.seq (fun c => { c with wait := .none })) c) s

/-! ## PLATE_LOAD (R297 to R299) -/

/-- Plate indices of a PLATE_LOAD. -/
def loadRange (c : Cmd) : List Nat := rangeFrom (dfield c 495 476) (dfield c 475 456 + 1)

/-- The four source descriptors of a PLATE_LOAD. -/
def loadSources (c : Cmd) : List W64 := [320, 256, 192, 128].map (fun lo => BitVec.ofNat 64 (dfield c (lo + 63) lo))

/-- Whether the manifest header breaks R297 for a first load of set `id`. -/
def headerBad (h : W512) (id : Nat) : Bool :=
  bits h 511 496 != id || bits h 475 448 != 0 || bits h 255 0 != 0 || bits h 495 476 == 0

/-- Whether a plate entry breaks R297. -/
def entryBad (h e : W512) : Bool :=
  bits e 191 0 != 0 || bits e 223 192 == 0 || decide (bits h 447 416 < bits e 255 224 + ceilDiv (bits e 223 192) 65536)

/-- The plate an entry describes. -/
def plateOfEntry (e : W512) (src : List W64) : Plate :=
  { digest := BitVec.ofNat 256 (bits e 511 256), page := bits e 255 224, length := bits e 223 192, sources := src }

/-- The running PLATE_LOADs of a set. -/
def loadsOf (s : State) (p : Nat) (id : W16) : List Cmd :=
  s.cmds.filter (fun c => c.part == p && opcodeOf c == 0x10 && c.started && dfield c 511 496 == id.toNat)

/-- Plates of a set that are resident. -/
def residentCount (x : PlateSet) : Nat := (x.plates.filter (fun e => e.2.resident)).length

/-- Whether every plate of a set is resident (R300). -/
def allResident (x : PlateSet) : Bool := decide (residentCount x = bits x.header 495 476)

/-- The plates of a PLATE_LOAD's range in its set. -/
def rangePlates (x : PlateSet) (c : Cmd) : List (Nat × Plate) := (loadRange c).map (fun i => (i, tget {} x.plates i))

/-- RESULT of a PLATE_LOAD (R299): the first plate that failed, how many did, and the plates of the set now resident. -/
def loadResult (x : PlateSet) (c : Cmd) : Nat :=
  let bad := (rangePlates x c).filter (fun e => e.2.failed)
  ((match bad with | [] => 0 | e :: _ => e.1) <<< 108) + (bad.length <<< 88) + (residentCount x <<< 68)

/-- Complete a PLATE_LOAD whose plates are all loaded, skipped or failed (R298, R299). -/
def endLoad (s : State) (c : Cmd) : State :=
  match findSet s c.part (BitVec.ofNat 16 (dfield c 511 496)) with
  | none => s
  | some x =>
    let ps := rangePlates x c
    if ps.any (fun e => !e.2.resident && !e.2.failed) then s
    else
      let bad := ps.filter (fun e => e.2.failed)
      let st := if bad.any (fun e => e.2.corrupt) then stPlateCorrupt else if bad.isEmpty then stOk else stPlateMissing
      complete s c.ring c.seq { status := st, result := loadResult x c }

/-- A plate that a CANCELLED PLATE_LOAD was loading (R299): another load of it takes it over, else it is as though never begun. -/
def letGo (s : State) (c : Cmd) (id : W16) (e : Nat × Plate) : State :=
  let heirs := (loadsOf s c.part id).filter (fun k => !(k.ring == c.ring && k.seq == c.seq) && (loadRange k).contains e.1)
  updPlate s c.part id e.1 (fun y => match heirs with
    | k :: _ => { y with reading := some (k.ring, k.seq) }
    | [] => { y with reading := none, attempts := 0, buf := [], got := false })

/-- What a CANCEL of a PLATE_LOAD leaves (R299): the plates it was loading are let go; its RESULT counts those resident. -/
def cancelLoad (s : State) (c : Cmd) : State × Nat :=
  let id : W16 := BitVec.ofNat 16 (dfield c 511 496)
  match findSet s c.part id with
  | none => (s, 0)
  | some x => ((x.plates.filter (fun e => e.2.reading == some (c.ring, c.seq) && !e.2.resident && !e.2.failed && !e.2.reload)).foldl
      (fun s e => letGo s c id e) s, loadResult x c)

/-- Go on after a change in the plates of a set: READY at the last plate (R300), and the loads that end. -/
def settleSet (s : State) (p : Nat) (id : W16) : State :=
  let s := match findSet s p id with
    | some x => if x.st == .loading && allResident x then wakeActivations (updSet s p id (fun x => { x with st := .ready })) p id else s
    | none => s
  (loadsOf s p id).foldl endLoad s

/-- Begin to load the plates of a range that are neither resident nor being loaded (R297, R298): a plate whose entry
cannot be read fails as missing. -/
def beginPlates (s : State) (c : Cmd) (id : W16) (es : List (Nat × Option W512)) : State :=
  es.foldl (fun s e =>
    let x := getPlate s c.part id e.1
    let mine : Option (Nat × Nat) := some (c.ring, c.seq)
    if x.resident || (x.reading.isSome && !x.failed) then s
    else match e.2 with
      | none => failPlate (updPlate s c.part id e.1 (fun _ => { reading := mine })) c.part id e.1
      | some w => startAttempt (updPlate s c.part id e.1 (fun _ => { plateOfEntry w (loadSources c) with reading := mine })) c.part id e.1) s

/-- The entries of a range, none where one cannot be read (R297). -/
def readEntries (s : State) (man : Nat) (is_ : List Nat) : List (Nat × Option W512) :=
  is_.map (fun i => (i, (hostRead s (man + 64 + 64 * i) 64).map (fun b => BitVec.ofNat 512 (leNat b))))

/-- PLATE_LOAD with its header read (R297). -/
def loadPlates (s : State) (c : Cmd) (h : W512) : State :=
  let id : W16 := BitVec.ofNat 16 (dfield c 511 496)
  let old := findSet s c.part id
  let differs := match old with | some x => x.header != h | none => false
  if old.isNone && headerBad h id.toNat then faultSyn s c 0x001F
  else if differs then faultSyn s c 0x0020
  else if bits h 495 476 ≤ dfield c 495 476 + dfield c 475 456 then faultCmd s c 0x0013 495 0
  else
    let es := readEntries s (dfield c 447 384) (loadRange c)
    if es.any (fun e => match e.2 with | some w => entryBad h w | none => false) then faultSyn s c 0x001F
    else
      match old with
      | none =>
        let s := startCmd s c.ring c.seq
        let s := { s with psets := s.psets ++ [{ setId := id, part := c.part, header := h }] }
        settleSet (beginPlates s c id es) c.part id
      | some x => match x.st with
        | .loading => settleSet (beginPlates (startCmd s c.ring c.seq) c id es) c.part id
        | .broken => complete s c.ring c.seq { status := brokenStatus x, result := residentCount x <<< 68 }
        | _ => complete s c.ring c.seq { status := stOk, result := bits h 495 476 <<< 68 }

/-- PLATE_LOAD (R297). -/
def execPlateLoad (r q : Nat) (s : State) : Host.Outcome State Fault Refusal :=
  match runnable s r q 0x10 with
  | none => .next s
  | some c => match hostRead s (dfield c 447 384) 64 with
    | none => .next (faultCmd s c 0x0026 0 (dfield c 447 384))
    | some b => .next (loadPlates s c (BitVec.ofNat 512 (leNat b)))

/-! ## Attempts (R296, R298) -/

/-- A group of nine strong frames of one stack, the first stack in order from `k` with nine free (R221, log 10). -/
def newGroup (s : State) (p k : Nat) : Option (State × List Nat × Nat) :=
  let x := getPart s p
  let n := tileCount x
  let t := (List.range n).find? (fun i =>
    decide (9 ≤ freeIn s (firstFrame (x.tileBase.toNat + (k + i) % n)) (stackFrames - reservedFrames (x.tileBase.toNat + (k + i) % n))))
  t.bind (fun i =>
    let tile := x.tileBase.toNat + (k + i) % n
    let data := (List.range 8).foldl (fun (acc : Option (State × List Nat)) _ => acc.bind (fun (s, fs) =>
      (freeNear s tile).map (fun f => (allocFrame s f 3 p 1 0, fs ++ [f])))) (some (s, []))
    data.bind (fun (s, fs) => (freeNear s tile).map (fun f => (allocFrame s f 5 p 0 0, fs, f))))

/-- Strong frames for `n` groups of a plate that starts at image page `page`: data frames and check frames. -/
def newGroups (s : State) (p page : Nat) : Nat → Option (State × List Nat × List Nat)
  | 0 => some (s, [], [])
  | n + 1 => (newGroups s p page n).bind (fun (s, fs, cs) =>
      (newGroup s p (page / 8 + n)).map (fun (s, f, c) => (s, fs ++ f, cs ++ [c])))

/-- Write the bytes of a plate to its strong frames, with the check lines of each group (R221). -/
def writeGroups (s : State) (fs cs : List Nat) (d : List Byte) : State :=
  let s := (chunks 65536 d).zipIdx.foldl (fun s e => writeFrame s (nth 0 fs e.2) 0 e.1) s
  cs.zipIdx.foldl (fun s e => touchChecks s e.1 (ceilDiv (Nat.min 65536 (d.length - 524288 * e.2)) 64)) s

/-- Write a plate into new strong frames (R221, R297). -/
def placePlate (s : State) (p : Nat) (x : Plate) (d : List Byte) : Option (State × List Nat × List Nat) :=
  (newGroups (reclaim s p) p x.page (ceilDiv (platePages x) 8)).map (fun (s, fs, cs) => (writeGroups s fs cs d, fs, cs))

/-- The source an attempt reads: the `attempts`-th in cyclic order (R298). -/
def attemptSource (x : Plate) : Option W64 := if x.attempts = 0 then none else sourceAt x.sources (x.attempts - 1)

/-- What a plate's current source in the far working region gives (R296); nothing of another source. -/
def attemptFar (s : State) (p : Nat) (x : Plate) : Option MemRead :=
  (attemptSource x).bind (fun w =>
    if bits w 63 62 = 3 then some (readPart s p 0 (2 ^ 47 + bits w 61 0 + 65536 * x.page) x.length) else none)

/-- The data an attempt has delivered (R296): host memory, the far working region, or what a peer has sent; none
where the source fails. -/
def attemptData (s : State) (p : Nat) (x : Plate) : Option (List Byte) :=
  match attemptFar s p x with
  | some m => if m.err.isSome || m.ue.isSome then none else some m.bytes
  | none => (attemptSource x).bind (fun w =>
    if bits w 63 62 = 1 then hostRead s (bits w 61 0 + 65536 * x.page) x.length
    else if x.buf.length = x.length then some x.buf else none)

/-- What reading an attempt's source raises, about the command that loads the plate (R220, R229, R232, R343). -/
def attemptErrs (s : State) (p : Nat) (x : Plate) : State :=
  match attemptFar s p x with
  | none => s
  | some m =>
    let s := m.ces.foldl raise' s
    let about := fun (r : Rec) => { r with part := some p, cmd := if x.reload then none else x.reading }
    match m.err, m.ue with
    | some (.retired _), _ => raiseDone s (about { code := 0x0802, sev := sevContained, unitType := uFar })
    | none, some (r, f) => frameBad (raiseDone s (about r)) f
    | _, _ => s

/-- An attempt fails (R298): the next source is tried, or the plate fails. -/
def attemptFailed (s : State) (p : Nat) (id : W16) (i : Nat) (corrupt : Bool) : State :=
  settleSet (startAttempt (updPlate s p id i (fun y => { y with corrupt := corrupt })) p id i) p id

/-- A plate of the set under way: not resident, not failed, an attempt made. -/
def underWay (x : Plate) : Bool := !x.resident && !x.failed && x.attempts != 0

/-- The data of an attempt is complete (R296 to R299): the plate becomes resident, waits for frames, or the attempt
is corrupt. -/
def attemptArrived (s : State) (p : Nat) (id : W16) (i : Nat) (d : List Byte) : State :=
  let x := getPlate s p id i
  if sha3w d != x.digest then attemptFailed s p id i true
  else match placePlate s p x d with
    | none => updAllCmds (updPlate s p id i (fun y => { y with got := true })) (fun c => x.reading == some (c.ring, c.seq)) (fun c => { c with wait := .frames })
    | some (s, fs, cs) =>
      let s := rearm s (fun c => x.reading == some (c.ring, c.seq) && c.wait == .frames)
      let s := if x.reload then (x.frames ++ x.checks).foldl (fun s f => retireFrame s p f) s else s
      let s := updPlate s p id i (fun y => { y with resident := true, frames := fs, checks := cs, buf := [], corrupt := false, lastGood := s.time.ftime })
      settleSet (updAllCmds s (fun c => x.reading == some (c.ring, c.seq)) (fun c => { c with wait := .none })) p id

/-- PLATE_ATTEMPT_DONE (R296, R298): the source of the current attempt has answered. -/
def execPlateAttemptDone (p : Nat) (set : W16) (i : Nat) (s : State) : Host.Outcome State Fault Refusal :=
  if 8 ≤ p then .fault .noSuchUnit
  else
    let x := getPlate s p set i
    if !underWay x then .next s
    else
      let d := attemptData s p x
      let s := attemptErrs s p x
      match d with
      | some d => .next (attemptArrived s p set i d)
      | none => match (attemptSource x).map (fun w => bits w 63 62) with
        | some 2 => .next s
        | _ => .next (attemptFailed s p set i false)

/-- PLATE_ATTEMPT_TIMEOUT (R296): 100 ms without the plate; one that the source has delivered only waits for frames. -/
def execPlateAttemptTimeout (p : Nat) (set : W16) (i : Nat) (s : State) : Host.Outcome State Fault Refusal :=
  if 8 ≤ p then .fault .noSuchUnit
  else
    let x := getPlate s p set i
    if underWay x && !x.got && decide (x.since + 105000000 ≤ s.time.ftime) then .next (attemptFailed s p set i false) else .next s

/-- Data of a plate arrives from a peer (R296): nothing at all says that the peer does not hold it. -/
def plateData (s : State) (p : Nat) (src : W16) (set : W16) (i : Nat) (d : List Byte) : State :=
  let x := getPlate s p set i
  match attemptSource x with
  | none => s
  | some w =>
    if !underWay x || bits w 63 62 != 2 || bits w 61 46 != src.toNat then s
    else if d.isEmpty then attemptFailed s p set i false
    else
      let buf := x.buf ++ d
      let s := updPlate s p set i (fun y => { y with buf := buf })
      if buf.length < x.length then s else attemptArrived s p set i (buf.take x.length)

/-- The bytes of a resident plate as its strong frames give them. -/
def plateBytes (s : State) (x : Plate) : List Byte := (x.frames.flatMap (fun f => readOut s f 0 65536)).take x.length

/-- Read a resident plate whole: its bytes, or none where a line is uncorrectable, which is handled as a mismatch (R220, R343). -/
def readPlate (s : State) (x : Plate) : State × Option (List Byte) :=
  let les := x.frames.map (fun f => (f, lineErrors s f 0 1023))
  let t := (les.flatMap (fun e => e.2.1)).foldl raise' s
  match les.find? (fun e => e.2.2.isSome) with
  | some (f, (_, some r)) => (frameBad (raiseDone t r) f, none)
  | _ => (t, some (plateBytes s x))

/-! ## Retirement (R303) -/

/-- A LOADING set that is freed ends the commands that wait on it (R303). -/
def cancelWaiters (s : State) (p : Nat) (id : W16) : State :=
  (s.cmds.filter (fun c => c.part == p && ((c.started && opcodeOf c == 0x10) || (c.wait == .loading && opcodeOf c == 0x11)) && dfield c 511 496 == id.toNat)).foldl
    (fun s c => finish s c.ring c.seq stCancelled) s

/-- PLATESET_RETIRE by the state of the set (R303). -/
def retireSet (s : State) (c : Cmd) : State :=
  let id : W16 := BitVec.ofNat 16 (dfield c 511 496)
  match findSet s c.part id with
  | none => faultCmd s c 0x0023 511 0
  | some x =>
    let s := startCmd s c.ring c.seq
    let s := match x.st with
      | .loading => cancelWaiters (freeSet s x) c.part id
      | .ready => cancelWaiters (freeSet s x) c.part id
      | .current => sweepSets (updSet s c.part id (fun y => { y with st := .retired }))
      | _ => sweepSets s
    resolvePins (finish s c.ring c.seq stOk) c.part (bits id 11 0)

/-- PLATESET_RETIRE (R303). -/
def execPlatesetRetire (r q : Nat) (s : State) : Host.Outcome State Fault Refusal :=
  match runnable s r q 0x12 with
  | none => .next s
  | some c => .next (retireSet s c)

/-! ## The milk run (R304, R305) -/

/-- Ticks of fabric time in a minute (R323). -/
def minute : Nat := 63000000000

/-- Verify one plate through its strong frames (R304): a match notes the time; a line error or a mismatch reloads
it (R305, R343). -/
def verifyPlate (s : State) (p : Nat) (id : W16) (i : Nat) : State :=
  let x := getPlate s p id i
  if !x.resident then s
  else match readPlate s x with
    | (s, none) => s
    | (s, some d) =>
      if sha3w d = x.digest then updPlate s p id i (fun y => { y with lastGood := s.time.ftime }) else plateMismatch s p id i

/-- A pass over every resident plate of a partition. -/
def milkPass (s : State) (p : Nat) : State :=
  let todo := (s.psets.filter (fun x => x.part == p)).flatMap (fun x => x.plates.map (fun e => (x.setId, e.1)))
  todo.foldl (fun s e => verifyPlate s p e.1 e.2) (setPart s p { getPart s p with milkLast := s.time.ftime })

/-- Whether the milk run of a partition is due (R292, R304). -/
def milkDue (s : State) (p : Nat) : Bool :=
  let x := getPart s p
  let m := Nat.min 1440 x.milkMin.toNat
  m != 0 && x.st == .ready && decide (x.milkLast + m * minute ≤ s.time.ftime)

/-- MILK_RUN_PASS (R304). -/
def execMilkRunPass (p : Nat) (s : State) : Host.Outcome State Fault Refusal :=
  if 8 ≤ p then .fault .noSuchUnit else if milkDue s p then .next (milkPass s p) else .next s

/-- Whether a command has launched nothing yet: it has no step, or one that is gathered or whose launch is held (R305). -/
def notLaunched (s : State) (c : Cmd) : Bool :=
  match findStep s c.ring c.seq with
  | some y => y.phase == .gather || (y.phase == .launched && !s.launches.any (fun l => l.started && l.steps.contains (c.ring, c.seq)))
  | none => !c.started || s.launches.all (fun l => !(l.steps.contains (c.ring, c.seq)))

/-- Launches that never started and that no step is left in go. -/
def dropHollow (s : State) : State :=
  { s with launches := s.launches.filter (fun l => l.started || l.expert.isSome || !l.steps.isEmpty) }

/-- A command ends without launching because its set is BROKEN; one of the Fixed class resumes on its partner (R305, R286). -/
def endBroken (s : State) (status : Byte) (c : Cmd) : State :=
  if c.cls == clsFixed then updStep (dropFromLaunches s c.ring c.seq) c.ring c.seq (fun y => { y with phase := .held })
  else if notLaunched s c then finish (dropFromLaunches s c.ring c.seq) c.ring c.seq status
  else s

/-- The set becomes BROKEN (R305): commands that still pin it end without launching, Fixed steps are held for their
partners, and the id may be left with no current generation. -/
def breakSet (s : State) (p : Nat) (id : W16) (corrupt : Bool) : State :=
  let s := updSet s p id (fun x => { x with st := .broken, corruptB := corrupt, plates := x.plates.map (fun e => (e.1, { e.2 with reload := false })) })
  let mine := s.cmds.filter (fun c => c.part == p && c.pin == some id && ([0x01, 0x03, 0x04, 0x05, 0x20] : List Nat).contains (opcodeOf c))
  let s := mine.foldl (fun s c => endBroken s (if corrupt then stPlateCorrupt else stPlateMissing) c) s
  sweepSets (resolvePins (wakeActivations (dropHollow s) p id) p (bits id 11 0))

/-- PLATE_RELOAD_DONE (R305): held launches proceed and Fixed steps may be replayed, or the set is BROKEN. -/
def execPlateReloadDone (p : Nat) (set : W16) (i : Nat) (s : State) : Host.Outcome State Fault Refusal :=
  if 8 ≤ p then .fault .noSuchUnit
  else
    let x := getPlate s p set i
    if !x.reload then .next s
    else if x.resident then
      let s := rearm s (fun c => c.part == p && c.pin == some set && c.started)
      .next (wakeActivations (updPlate s p set i (fun y => { y with reload := false })) p set)
    else if x.failed then .next (breakSet s p set x.corrupt)
    else .next s

end Sys2Proof.Machine
end

