-- ==== Sys2Proof/Machine/Vx.lean ====
section
/-! DEFINITION. The issue of VX instructions: their slot operands, occupancy, pad cycles and latencies (R122, R130). -/

namespace Sys2Proof.Machine

open Sys2Proof

/-! ## Issue (R130) -/

/-- Whether vector register `v` is usable in cycle `now` (R101, R130). -/
def vecFree (k : Core) (v : BitVec 5) : Bool := decide (tget 0 k.vecAt v.toNat ≤ k.cyc)

/-- The vector registers an instruction reads or writes. -/
def vxRegs (i : Instr) : List (BitVec 5) :=
  match i with
  | .vld _ _ o => [o.vd] | .vst _ _ o => [o.va]
  | .vadd _ _ o => [o.vd, o.va, o.vb] | .vsub _ _ o => [o.vd, o.va, o.vb] | .vmul _ _ o => [o.vd, o.va, o.vb]
  | .vfma _ _ o => [o.vd, o.va, o.vb, o.vc] | .vmax _ _ o => [o.vd, o.va, o.vb] | .vmin _ _ o => [o.vd, o.va, o.vb]
  | .vcmp _ _ o => [o.vd, o.va, o.vb] | .vsel _ _ o => [o.vd, o.va, o.vb, o.vc] | .vspl _ _ o => [o.vd]
  | .vcvt _ _ o => [o.vd, o.va] | .vexp2 _ _ o => [o.vd, o.va] | .vrcp _ _ o => [o.vd, o.va] | .vrsq _ _ o => [o.vd, o.va]
  | .vrot _ _ o => [o.vd, o.va] | .vbias _ _ o => [o.vd, o.va] | .vmsk _ _ o => [o.vd, o.va]
  | .vsmx _ _ o => [o.vd, o.va, o.vb] | .vred _ _ o => [o.va] | .vrng _ _ o => [o.vd]
  | _ => []

/-- Write a vector result that is usable `lat` cycles from now (R130). -/
def vresult (k : Core) (v : BitVec 5) (x : Lanes) (lat : Nat) : Core :=
  let k := setVreg k v x
  { k with vecAt := tset k.vecAt v.toNat (k.cyc + lat) }

/-- The Vector engine is busy for `occ` cycles. -/
def vbusy (k : Core) (occ : Nat) : Core := { k with busyVx := k.cyc + occ }

/-- A lane operation with no pad: occupancy 1 (R130). -/
def vxLane (s : State) (c : Nat) (vd : BitVec 5) (x : Core → Lanes) (lat : Nat) : Issued :=
  let k := getCore s c
  .go (setCore s c (vbusy (vresult k vd (x k) lat) 1))

/-- Slot operand of a VX instruction: `n` slot rows from `r0`. -/
def vxUse (o : VxArgs) (acc : Access) (r0 n : Nat) : SlotUse :=
  { pad := o.sref.pad.toNat, slot := o.sref.slot.toNat, acc := acc, flag := o.sref.flag, r0 := r0, n := n }

/-- First slot row of a VX instruction: ROW + s[SR] (R122). -/
def vxRow (q : Queued) (o : VxArgs) : Nat := o.row.toNat + q.sc.r.toNat

/-- Cycles of an access to `n` slot rows (R66). -/
def useCycles (k : Core) (u : SlotUse) : Nat := ceilDiv u.n (Nat.max 1 (slotOf k u.pad u.slot).bankCount.toNat)

/-- Vector register `v` will be usable `lat` cycles from now (R130). -/
def vpend (k : Core) (v : BitVec 5) (lat : Nat) : Core := { k with vecAt := tset k.vecAt v.toNat (k.cyc + lat) }

/-- A VX instruction that reads a slot from cycle 0 on and writes vd `extra` cycles after the last read: occupancy rv (R130). -/
def vxRead (s : State) (c : Nat) (q : Queued) (h : Hdr) (o : VxArgs) (bytes extra : Nat) : Issued :=
  let pad := o.sref.pad.toNat
  let u := vxUse o .read (vxRow q o) (ceilDiv bytes (rowW pad))
  withSlots s c 4 q.addr h.timed [u] (fun s =>
    let k := getCore s c
    let rv := useCycles k u
    let evs := issueEv u k.cyc ++ readEvs (slotOf k pad u.slot) pad u.slot u.r0 u.n k.cyc 0 ++ endEv u (k.cyc + rv - 1) ++
      [(k.cyc + rv + extra - 1, .form 0 u.n 0)]
    .go (addFlight (setCore s c (vbusy (vpend k o.vd (rv + extra)) rv)) c
      { eng := 4, addr := q.addr, due := k.cyc + rv - 1, evs := evs, job := some q, lanes := some (vregOf k o.va) }))

/-- VST: the vector is written in cycles 1 to rv (R130). -/
def vxStore (s : State) (c : Nat) (q : Queued) (h : Hdr) (o : VxArgs) : Issued :=
  let pad := o.sref.pad.toNat
  let fmt := o.fmt.toNat
  let blk := bit o.fn 0
  let u := vxUse o .write (vxRow q o) (ceilDiv (vecBytes fmt blk) (rowW pad))
  withSlots s c 4 q.addr h.timed [u] (fun s =>
    let k := getCore s c
    let rv := useCycles k u
    let d := storeLanes fmt blk (bit o.fn 1) (vregOf k o.va)
    let evs := issueEv u k.cyc ++ writeEvs (slotOf k pad u.slot) pad u.slot (u.r0 * rowW pad) d (k.cyc + 1) ++ endEv u (k.cyc + rv)
    .go (addFlight (setCore s c (vbusy k rv)) c { eng := 4, addr := q.addr, due := k.cyc + rv, evs := evs }))

/-- VSMX (R128, R130): `n` rows from `r0`, of which `len` bytes at slot byte `off` are read from cycle 0 and written from cycle `wr`
on; vd and vb are usable in cycle `lat`. -/
def vxSmx (s : State) (c : Nat) (q : Queued) (h : Hdr) (o : VxArgs) (u : SlotUse) (off len wr lat occ : Nat → Nat) : Issued :=
  withSlots s c 4 q.addr h.timed [u] (fun s =>
    let k := getCore s c
    let rv := useCycles k u
    let e := slotOf k 2 u.slot
    let evs := issueEv u k.cyc ++ readEvs e 2 u.slot u.r0 u.n k.cyc 0 ++ [(k.cyc + wr rv - 1, .form 0 0 0)] ++
      putEvs e 2 u.slot (off rv) 0 (len rv) (k.cyc + wr rv) ++ [(k.cyc + lat rv - 1, .form 1 0 0)] ++ endEv u (k.cyc + wr rv + rv - 1)
    .go (addFlight (setCore s c (vbusy (vpend (vpend k o.vd (lat rv)) o.vb (lat rv)) (occ rv))) c
      { eng := 4, addr := q.addr, due := k.cyc + wr rv + rv - 1, evs := evs, job := some q, lanes := some (vregOf k o.va) }))

/-- VSMX in row mode (R128, R130): read in cycle 0, write in cycle 19, result in cycle 20. -/
def vxSmxRow (s : State) (c : Nat) (q : Queued) (h : Hdr) (o : VxArgs) : Issued :=
  let off := vxRow q o * 256 + 16 * q.sc.b.toNat
  vxSmx s c q h o (vxUse o .update (off / 256) 1) (fun _ => off) (fun _ => 16) (fun _ => 19) (fun _ => 20) (fun _ => 2)

/-- VSMX in lane mode (R128, R130): reads in cycles 0 to rv − 1, writes in cycles rv + 13 to 2rv + 12. -/
def vxSmxLane (s : State) (c : Nat) (q : Queued) (h : Hdr) (o : VxArgs) : Issued :=
  vxSmx s c q h o (vxUse o .update (vxRow q o) 8) (fun _ => vxRow q o * 256) (fun _ => 2048) (fun rv => rv + 13) (fun rv => 2 * rv + 13) id

/-- VMSK, FN = 0 (R127, R130): one row, 16 bytes of mask. -/
def vxMask (s : State) (c : Nat) (q : Queued) (h : Hdr) (o : VxArgs) : Issued :=
  let pad := o.sref.pad.toNat
  let off := vxRow q o * rowW pad + o.imm.toNat
  let u := vxUse o .read (off / rowW pad) 1
  withSlots s c 4 q.addr h.timed [u] (fun s =>
    let k := getCore s c
    let evs := issueEv u k.cyc ++ readEvs (slotOf k pad u.slot) pad u.slot u.r0 1 k.cyc 0 ++ endEv u k.cyc ++
      [(k.cyc + 4, .form 0 (off % rowW pad) 0)]
    .go (addFlight (setCore s c (vbusy (vpend k o.vd 5) 1)) c
      { eng := 4, addr := q.addr, due := k.cyc, evs := evs, job := some q, lanes := some (vregOf k o.va) }))

/-- VRED (R125, R130): the scalar register is usable 10 cycles from now. -/
def vxRed (s : State) (c : Nat) (o : VxArgs) : Issued :=
  let k := getCore s c
  let k := setSreg k o.vd (vredVal o.fn.toNat (vregOf k o.va))
  .go (setCore s c (vbusy { k with regAt := tset k.regAt o.vd.toNat (k.cyc + 10) } 1))

/-- Try to issue the VX instruction at the head of the queue. -/
def issueVx (s : State) (c : Nat) (q : Queued) : Issued :=
  if !(vxRegs q.ins).all (vecFree (getCore s c)) then .hold
  else match q.ins with
    | .vld _ h o => vxRead s c q h o (vecBytes o.fmt.toNat (bit o.fn 0)) 3
    | .vst _ h o => vxStore s c q h o
    | .vadd _ _ o => vxLane s c o.vd (fun k => lane2 fadd (vregOf k o.va) (vregOf k o.vb)) 4
    | .vsub _ _ o => vxLane s c o.vd (fun k => lane2 fsub (vregOf k o.va) (vregOf k o.vb)) 4
    | .vmul _ _ o => vxLane s c o.vd (fun k => lane2 fmul (vregOf k o.va) (vregOf k o.vb)) 4
    | .vfma _ _ o => vxLane s c o.vd (fun k => lane3 ffma (vregOf k o.va) (vregOf k o.vb) (vregOf k o.vc)) 4
    | .vmax _ _ o => vxLane s c o.vd (fun k => lane2 fmax (vregOf k o.va) (vregOf k o.vb)) 4
    | .vmin _ _ o => vxLane s c o.vd (fun k => lane2 fmin (vregOf k o.va) (vregOf k o.vb)) 4
    | .vcmp _ _ o => vxLane s c o.vd (fun k => lane2 (fun a b => if vcmpCond o.fn.toNat a b then 0xFFFFFFFF else 0) (vregOf k o.va) (vregOf k o.vb)) 4
    | .vsel _ _ o => vxLane s c o.vd (fun k => lane3 (fun a b m => if m = 0 then b else a) (vregOf k o.va) (vregOf k o.vb) (vregOf k o.vc)) 4
    | .vspl _ _ o => vxLane s c o.vd (fun _ => splat (if bit o.fn 0 then o.imm else BitVec.ofNat 32 q.sc.a.toNat)) 4
    | .vcvt _ _ o => vxLane s c o.vd (fun k => cvtLanes o.fmt.toNat (bit o.fn 0) (bit o.fn 1) (vregOf k o.va)) 4
    | .vexp2 _ _ o => vxLane s c o.vd (fun k => lane1 fexp2 (vregOf k o.va)) 6
    | .vrcp _ _ o => vxLane s c o.vd (fun k => lane1 frcp (vregOf k o.va)) 6
    | .vrsq _ _ o => vxLane s c o.vd (fun k => lane1 frsq (vregOf k o.va)) 6
    | .vrot _ h o => vxRead s c q h o 256 7
    | .vbias _ h o => vxRead s c q h o 512 5
    | .vmsk _ h o => if o.fn = 0 then vxMask s c q h o
        else vxLane s c o.vd (fun k => vmskCausal (BitVec.ofNat 32 q.sc.a.toNat) (BitVec.ofNat 32 q.sc.b.toNat) (vregOf k o.va)) 4
    | .vsmx _ h o => if o.fn = 0 then vxSmxRow s c q h o else vxSmxLane s c q h o
    | .vred _ _ o => vxRed s c o
    | .vrng _ _ o => vxLane s c o.vd (fun _ => vrngLanes (bit o.fn 0) q.sc.a q.sc.b q.sc.r q.sc.c) 12
    | _ => .go s

end Sys2Proof.Machine
end

