-- ==== Sys2Proof/Machine/Attention.lean ====
section
/-! DEFINITION. Attention of PREFILL and DECODE (07): attention records (R165), stored keys and values (R167), masks
(R168, R173), the chunked reference computation (R169) and Skim (R175 to R178). -/

namespace Sys2Proof.Machine

open Sys2Proof

/-! ## Records and small arithmetic -/

/-- An attention parameter record (R165) with the bytes of its tables. -/
structure Layer where
  ascale  : W32
  qpk     : Nat
  rope    : Nat
  bias    : Bool
  skimOk  : Bool
  ropeTab : List Byte
  biasTab : List Byte
  deriving DecidableEq, Repr, Inhabited

/-- Layer `l` of a set: its record and tables (R165). -/
def layerOf (s : State) (x : PlateSet) (g : Geo) (l : Nat) : Layer :=
  let w := nth 0 x.attn l
  let qpk := bits w 95 88 + 1
  let rope := bits w 87 86
  { ascale := BitVec.ofNat 32 (bits w 127 96), qpk := qpk, rope := rope, bias := bit w 85, skimOk := bit w 84,
    ropeTab := if rope = 0 then [] else imageBytes s x (1024 * bits w 63 32) 256,
    biasTab := if bit w 85 then imageBytes s x (1024 * bits w 31 0) (512 * (g.ng * g.hg * qpk)) else [] }

/-- Query heads of a layer. -/
def queryHeads (g : Geo) (y : Layer) : Nat := g.ng * g.hg * y.qpk

/-- An FP32 value times a power of two, rounded once. -/
def scale2 (e : Int) (x : W32) : W32 := match val32 x with | .fin s m k => toF32 (.fin s m (k + e)) | v => toF32 v

/-- log2 e in FP32 (R169). -/
def l2e : W32 := 0x3FB8AA3B

/-- α of a layer (R169). -/
def alphaOf (g : Geo) (y : Layer) : W32 := scale2 ((g.ks : Int) - 127) (fmul y.ascale l2e)

/-- Rotate a head's vector at a position (R126, R167). -/
def rotated (y : Layer) (pos : Nat) (v : List W32) : List W32 :=
  if y.rope = 0 then v else (vrotLanes (y.rope == 2) pos y.ropeTab (lanesOf v)).toList

/-- The stored bytes of one head's key or value (R167): times 2^(127 − scale), then rounded to KFMT. -/
def storedBytes (g : Geo) (scale : Nat) (v : List W32) : List Byte :=
  v.map (fun x => BitVec.ofNat 8 (laneCode g.kfmt false (scale2 (127 - (scale : Int)) x)))

/-- A value rounded to FP16 (R29). -/
def half (x : W32) : Val := decodeEl 9 (storeEl 9 false (val32 x))

/-- An exact reduction of products of FP16 values with FP32 output (R169, R21 to R29). -/
def dotHalf (a b : List Val) : W32 :=
  toF32 (entryVal (dot {} { fmt := 9, els := a, scales := none } { fmt := 9, els := b, scales := none }))

/-! ## Keys and values of a token (R167) -/

/-- The token record of one group (R111): keys of its heads, then values (log 12). -/
def tokenRecord (g : Geo) (y : Layer) (dig : List W256) (l grp pos : Nat) (h : List W32) : List Byte :=
  let head := fun (which k : Nat) => (List.range g.d).map (fun e => Config.qkv dig l h which ((grp * g.hg + k) * g.d + e))
  (List.range g.hg).flatMap (fun k => storedBytes g g.ks (rotated y pos (head 1 k))) ++
  (List.range g.hg).flatMap (fun k => storedBytes g g.vs (head 2 k))

/-- What the work of a layer on a step came to: it waits for a near frame (R158), it has failed, or it goes on. -/
inductive Work (α : Type) where
  | hold
  | bad (s : State) (e : WalkErr)
  | ok (s : State) (x : α)
  deriving DecidableEq, Repr

/-- Go on with work that has succeeded. -/
def workOn {α β : Type} (w : Work α) (f : State → α → Work β) : Work β :=
  match w with
  | .hold => .hold
  | .bad s e => .bad s e
  | .ok s x => f s x

/-- Go on with what the page walker gave; a want of frames waits for reclaim (R158). -/
def walked {α β : Type} (s : State) (r : Except WalkErr α) (f : α → Work β) : Work β :=
  match r with
  | .error .noFrame => .hold
  | .error e => .bad s e
  | .ok x => f x

/-- Write the record of one position and group through the page walker (R158), which updates the page's summary (R146). The page written
is noted. -/
def writeToken (s : State) (si : Nat) (g : Geo) (l grp pos : Nat) (d : List Byte) : Work (List (Nat × Nat × Nat)) :=
  match walk s (getSess s si) g l grp (pos / g.p) with
  | none => .ok s []
  | some e => walked s (writablePage s si g l grp (pos / g.p) e) (fun r =>
      walked r.1 (readLines r.1 (sumErrors r.1 r.2.2)) (fun t => .ok (putToken t r.2.1 r.2.2 g 3 (pos % g.p) d) [(l, grp, pos / g.p)]))

/-- Write the records of a list of (group, position, bytes). -/
def writeTokens (s : State) (si : Nat) (g : Geo) (l : Nat) (acc : List (Nat × Nat × Nat)) :
    List (Nat × Nat × List Byte) → Work (List (Nat × Nat × Nat))
  | [] => .ok s acc
  | (grp, pos, d) :: rest =>
    workOn (writeToken s si g l grp pos d) (fun s ch => writeTokens s si g l (acc ++ ch.filter (fun c => !acc.contains c)) rest)

/-! ## Masks (R168, R173, R174) -/

/-- Code of block `n` of a mask object. -/
def maskCode (m : Mask) (n : Nat) : Nat := (nth 0 m.codes (n / 4)).toNat / 4 ^ (n % 4) % 4

/-- Whether a mask object allows (query position, key position); outside its range everything is allowed. -/
def maskAllows (m : Mask) (q k : Nat) : Bool :=
  let a := (q - m.qbase) / 128
  let b := (k - m.kbase) / 128
  if q < m.qbase ∨ k < m.kbase ∨ m.nqb ≤ a ∨ m.nkb ≤ b then true
  else
    let n := a * m.nkb + b
    match maskCode m n with
    | 0 => false
    | 1 => true
    | _ =>
      let mixed := ((List.range n).filter (fun i => maskCode m i == 2)).length
      let o := 2048 * mixed + 16 * ((q - m.qbase) % 128)
      let j := (k - m.kbase) % 128
      (nth 0 m.bitmaps (o + j / 8)).toNat.testBit (j % 8)

/-- Whether a key position is allowed for a query row (R168). -/
def allowed (m : Option Mask) (pe pq k : Nat) : Bool :=
  decide (k < pe) && (decide (k ≤ pq) || (match m with | some x => x.noncausal | none => false)) &&
  (match m with | some x => maskAllows x pq k | none => true)

/-! ## The reference computation (R169) -/

/-- What fixes a step's attention in one layer and group. -/
structure AttnIn where
  si   : Nat
  geo  : Geo
  lay  : Layer
  l    : Nat
  grp  : Nat
  pe   : Nat
  mask : Option Mask
  tau2 : Option W32
  bmax : List W32
  deriving DecidableEq, Repr, Inhabited

/-- A query row of one head: its position, its query head, q16, the running statistics and output. -/
structure RowHead where
  pq   : Nat
  head : Nat
  q    : List Val
  st   : Stat := statInit
  o    : List W32
  seen : Bool := false
  deriving DecidableEq, Repr, Inhabited

/-- Pages of chunk `j` (R168). -/
def chunkPages (g : Geo) (j : Nat) : List Nat := if g.p ≤ 128 then rangeFrom (128 * j / g.p) (128 / g.p) else [128 * j / g.p]

/-- KV head of a query head within its group. -/
def kvHead (a : AttnIn) (head : Nat) : Nat := head / a.lay.qpk % a.geo.hg

/-- Elements of a head's run of a summary half (R146). -/
def sumHead (g : Geo) (sum : List Byte) (half kv : Nat) : List Val :=
  ((sum.drop (half * 512 + kv * g.d)).take g.d).map (fun b => decodeEl g.kfmt b.toNat)

/-- The sign-changed value. -/
def valNeg (v : Val) : Val := match v with | .fin s m e => .fin (!s) m e | .inf s => .inf (!s) | .nan => .nan

/-- max(v, 0) of an FP16 value. -/
def valPos (v : Val) : Val := match v with | .fin true _ _ => .fin false 0 0 | .inf true => .fin false 0 0 | v => v

/-- Whether a value is NaN. -/
def valNaN (v : Val) : Bool := v == .nan

/-- Whether Skim skips a page for a row (R176): never where the page's summary, one block for all heads, holds a NaN byte. -/
def skips (s : State) (a : AttnIn) (r : RowHead) (page : Nat) : Bool :=
  match a.tau2, walk s (getSess s a.si) a.geo a.l a.grp page with
  | some t2, some e =>
    if e.sum = 0 ∨ r.seen = false then false
    else
      let sum := readSum s e.sum
      let kv := kvHead a r.head
      let u := sumHead a.geo sum 0 kv
      let w := sumHead a.geo sum 1 kv
      if sum.any (fun b => valNaN (decodeEl a.geo.kfmt b.toNat)) then false
      else
        let ub := dotHalf (r.q.map valPos ++ r.q.map (fun v => valPos (valNeg v))) (u ++ w.map valNeg)
        let t := fadd (fmul ub (alphaOf a.geo a.lay)) (nth 0 a.bmax r.head)
        fcmp t (fsub r.st.m t2) == some .lt
  | _, _ => false

/-- The element vector of a key position in the page that holds it (R145). -/
def keyAt (s : State) (a : AttnIn) (kv pos f : Nat) : List Val :=
  (readOut s f (kv * a.geo.p * a.geo.d + pos % a.geo.p * a.geo.d) a.geo.d).map (fun b => decodeEl a.geo.kfmt b.toNat)

/-- Element `e` of the value of a key position. -/
def valueAt (s : State) (a : AttnIn) (kv pos e f : Nat) : Val :=
  decodeEl a.geo.kfmt (nth 0 (readOut s f (32768 + kv * a.geo.d * a.geo.p + e * a.geo.p + pos % a.geo.p) 1) 0).toNat

/-- The frame that holds a position's page, once it is in near memory. -/
def frameOfPos (s : State) (a : AttnIn) (pos : Nat) : Option Nat :=
  (walk s (getSess s a.si) a.geo a.l a.grp (pos / a.geo.p)).map (·.pfn)

/-- One chunk for one row: `skip` names the pages the row skips (R169). -/
def rowChunk (s : State) (a : AttnIn) (j : Nat) (skip : List Nat) (r : RowHead) : RowHead :=
  let pos := rangeFrom (128 * j) 128
  let live := fun k => allowed a.mask a.pe r.pq k && !skip.contains (k / a.geo.p)
  if !pos.any live then r
  else
    let kv := kvHead a r.head
    let al := alphaOf a.geo a.lay
    let tab := (a.lay.biasTab.drop (512 * r.head)).take 512
    let score := fun (k : Nat) => match frameOfPos s a k with
      | none => inf32 true
      | some f =>
        let x := fmul (dotHalf r.q (keyAt s a kv k f)) al
        if a.lay.bias then fadd x (toF32 (decodeEl 9 (leNat ((tab.drop (2 * bucket ((r.pq : Int) - k))).take 2)))) else x
    let sc := lanesOf (pos.map (fun k => if live k then score k else inf32 true))
    let (st, p) := softmaxRow r.st sc
    let ps := (pos.zip p.toList).filter (fun e => live e.1)
    let o := r.o.zipIdx.map (fun e =>
      let pv := dotHalf (ps.map (fun x => half x.2)) (ps.map (fun x => match frameOfPos s a x.1 with
        | some f => valueAt s a kv x.1 e.2 f | none => .fin false 0 0))
      ffma e.1 st.c pv)
    { r with st := st, o := o, seen := true }

/-- Bring a page to near memory and read it whole: corrected lines are reported, an uncorrectable line ends the
work (R110, R162, R220). -/
def fetchPage (s : State) (a : AttnIn) (page : Nat) : Work Unit :=
  match walk s (getSess s a.si) a.geo a.l a.grp page with
  | none => .ok s ()
  | some e => walked s (recallPage s a.si a.geo a.l a.grp page e) (fun s =>
      match walk s (getSess s a.si) a.geo a.l a.grp page with
      | none => .ok s ()
      | some e =>
        let le := lineErrors s e.pfn 0 1023
        walked s (readLines s (le.1, le.2.map (fun r => (r, e.pfn)))) (fun s => .ok s ()))

/-- Fetch a list of pages. -/
def fetchPages (s : State) (a : AttnIn) : List Nat → Work Unit
  | [] => .ok s ()
  | p :: rest => workOn (fetchPage s a p) (fun s _ => fetchPages s a rest)

/-- Read the summaries of pages for Skim's tests, with the walks to them (R146, R176, R220). -/
def readSums (s : State) (a : AttnIn) : List Nat → Work Unit
  | [] => .ok s ()
  | p :: rest => match walk s (getSess s a.si) a.geo a.l a.grp p with
    | none => readSums s a rest
    | some e => walked s (readLines s (bothErrors (tableErrors s (getSess s a.si) a.geo a.l a.grp p) (sumErrors s e.sum)))
        (fun s => readSums s a rest)

/-- The chunks of a group for its rows, ascending: the rows and the pages whose fetch Skim saves (R169, R178). -/
def chunksGo (s : State) (a : AttnIn) (rows : List RowHead) (saved : List Nat) : List Nat → Work (List RowHead × List Nat)
  | [] => .ok s (rows, saved)
  | j :: rest =>
    let pages := chunkPages a.geo j
    let busy := rows.filter (fun r => (rangeFrom (128 * j) 128).any (allowed a.mask a.pe r.pq))
    if busy.isEmpty then chunksGo s a rows saved rest
    else
      let tested := a.tau2.isSome && busy.any (·.seen)
      workOn (readSums s a (if tested then pages else [])) (fun s _ =>
        let skipOf := fun r => pages.filter (skips s a r)
        let save := pages.filter (fun p => busy.all (fun r => skips s a r p))
        workOn (fetchPages s a (pages.filter (fun p => !save.contains p))) (fun s1 _ =>
          chunksGo s1 a (rows.map (fun r => rowChunk s1 a j (skipOf r) r)) ((saved ++ save).eraseDups) rest))

/-- The output of a row's head (R169). -/
def headOut (g : Geo) (r : RowHead) : List W32 :=
  if r.st.m = inf32 true then List.replicate g.d 0
  else r.o.map (fun x => scale2 ((g.vs : Int) - 127) (fmul x (frcp r.st.l)))

/-- The query rows of one group (R167): every query head of the group at every new position. -/
def groupHeads (a : AttnIn) (dig : List W256) (rows : List (Nat × List W32)) : List RowHead :=
  let n := a.geo.hg * a.lay.qpk
  rows.flatMap (fun e => (rangeFrom (a.grp * n) n).map (fun h =>
    let q := rotated a.lay e.1 ((List.range a.geo.d).map (fun i => Config.qkv dig a.l e.2 0 (h * a.geo.d + i)))
    { pq := e.1, head := h, q := q.map half, o := List.replicate a.geo.d 0 }))

/-- The groups of a layer one by one: the finished rows and the count of saved fetches. -/
def groupsGo (s : State) (a : AttnIn) (dig : List W256) (rows : List (Nat × List W32)) (out : List RowHead) (n : Nat) :
    List Nat → Work (List RowHead × Nat)
  | [] => .ok s (out, n)
  | grp :: rest =>
    let a := { a with grp := grp }
    workOn (chunksGo s a (groupHeads a dig rows) [] (List.range (ceilDiv a.pe 128)))
      (fun s x => groupsGo s a dig rows (out ++ x.1) (n + x.2.length) rest)

/-- The plate digests that stand for a set's weights. -/
def setDigests (x : PlateSet) : List W256 := x.plates.map (fun e => e.2.digest)

/-- What reading the tables of a layer's attention record meets (R126, R165, R220). -/
def layerErrors (s : State) (x : PlateSet) (g : Geo) (l : Nat) : List Rec × Option (Rec × Nat) :=
  let w := nth 0 x.attn l
  bothErrors (if bits w 87 86 = 0 then ([], none) else imageErrors s x (1024 * bits w 63 32) 256)
    (if bit w 85 then imageErrors s x (1024 * bits w 31 0) (512 * (g.ng * g.hg * (bits w 95 88 + 1))) else ([], none))

/-- One layer of a step (R167 to R169): stores the keys and values of its new positions, runs attention, and gives
each row's attention output in head order, the pages changed, the fetches saved, and the memory writes of the step (R349). -/
def layerWork (s : State) (x : PlateSet) (g : Geo) (st : StepRec) (si l : Nat) (tau2 : Option W32) :
    Work (List (List W32) × List (Nat × Nat × Nat) × Nat × List (Nat × List Byte)) :=
  let dig := setDigests x
  let y := layerOf s x g l
  let rows := st.hidden.zipIdx.map (fun e => (st.pe - st.hidden.length + e.2, e.1))
  let recs := rows.flatMap (fun e => (List.range g.ng).map (fun grp => (grp, e.1, tokenRecord g y dig l grp e.1 e.2)))
  let a : AttnIn := { si := si, geo := g, lay := y, l := l, grp := 0, pe := st.pe, mask := st.mask,
                      tau2 := if y.skimOk then tau2 else none,
                      bmax := (List.range (queryHeads g y)).map (fun h => tget 0 x.bmax (l * 65536 + h)) }
  walked s (readLines s (layerErrors s x g l)) (fun s =>
    workOn (writeTokens s si g l [] recs) (fun s ch =>
      workOn (groupsGo s a dig rows [] 0 (List.range g.ng)) (fun s r =>
        let att := rows.map (fun e => (r.1.filter (fun h => h.pq == e.1)).flatMap (headOut g))
        let ws := recs.filterMap (fun e => (walk s (getSess s si) g l e.1 (e.2.1 / g.p)).map (fun t => (frameAddr t.pfn, e.2.2)))
        .ok s (att, ch, r.2, ws))))

end Sys2Proof.Machine
end

