-- ==== Sys2Proof/Machine/Serve.lean ====
section
/-! DEFINITION. The acceptance of a step (R152, R173 to R175, R183, R276, R386): PREFILL and DECODE check what they
name, read tokens and mask, map their pages and wait for the gather window. -/

namespace Sys2Proof.Machine

open Sys2Proof

/-! ## Mask objects (R173, R174) -/

/-- Whether a mask header breaks R173. -/
def maskBad (w : W256) : Bool :=
  bits w 231 224 % 128 != 0 || bits w 199 192 % 128 != 0 || bits w 191 176 == 0 || decide (4096 < bits w 191 176) ||
  bits w 175 160 == 0 || decide (4096 < bits w 175 160) || bits w 158 128 != 0 || bits w 69 64 != 0 || bits w 5 0 != 0

/-- The mask of a header and its codes, without bitmaps; nothing where a code is reserved. -/
def maskOf (w : W256) (codes : List Byte) : Option Mask :=
  let n := bits w 191 176 * bits w 175 160
  let m : Mask := { qbase := bits w 255 224, kbase := bits w 223 192, nqb := bits w 191 176, nkb := bits w 175 160,
                    noncausal := bit w 159, codes := codes, bitmaps := [] }
  if (List.range n).any (fun i => maskCode m i == 3) then none else some m

/-- Bytes of the bitmaps of a mask. -/
def bitmapBytes (m : Mask) : Nat := 2048 * ((List.range (m.nqb * m.nkb)).filter (fun i => maskCode m i == 2)).length

/-- Read a whole mask object as its header, codes and bitmaps, or nothing where R174 refuses it. -/
def readMaskBytes (s : State) (a : Nat) : Option (List Byte × List Byte × List Byte) :=
  (hostRead s a 32).bind (fun h =>
    let w : W256 := BitVec.ofNat 256 (leNat h)
    if maskBad w then none
    else (hostRead s (a + bits w 127 64) (ceilDiv (bits w 191 176 * bits w 175 160) 4)).bind (fun codes =>
      (maskOf w codes).bind (fun m => (hostRead s (a + bits w 63 0) (bitmapBytes m)).map (fun b => (h, codes, b)))))

/-- Read a whole mask object, or nothing where R174 refuses it. -/
def readMask (s : State) (a : Nat) : Option Mask :=
  (readMaskBytes s a).bind (fun e => (maskOf (BitVec.ofNat 256 (leNat e.1)) e.2.1).map (fun m => { m with bitmaps := e.2.2 }))

/-- The mask a step notice carries (R386): header, codes and bitmaps one after the other. -/
def noticeMask (d : List Byte) : Option Mask :=
  let w : W256 := BitVec.ofNat 256 (leNat (d.take 32))
  let n := ceilDiv (bits w 191 176 * bits w 175 160) 4
  if maskBad w then none else (maskOf w ((d.drop 32).take n)).map (fun m => { m with bitmaps := d.drop (32 + n) })

/-! ## Checks of a step (R276, R175, R183) -/

/-- The tokens of a step: read from host memory for PREFILL, one for DECODE (R276); an adopted step takes them from
its notice (R388). -/
def stepTokens (s : State) (c : Cmd) (x : Sess) (prefill : Bool) : Option (List W32) :=
  match c.notice with
  | some n => some (if n.tokens.isEmpty then [x.lastToken] else n.tokens)
  | none =>
  if prefill then
    (hostRead s (dfield c 447 384) (4 * dfield c 479 448)).map (fun b => (chunks 4 b).map (fun w => BitVec.ofNat 32 (leNat w)))
  else if dfield c 479 448 = 2 ^ 32 - 1 then some [x.lastToken]
  else some [BitVec.ofNat 32 (dfield c 479 448)]

/-- Whether TEMP is refused (R276): negative, infinite or NaN; −0 is negative (log 21). -/
def tempBad (w : W32) : Bool := match val32 w with | .fin s _ _ => s | _ => true

/-- τ of a DECODE: 0 selects 16; none where it is NaN or outside 2 to 64, whether or not Skim is enabled (R175). -/
def tauOf (c : Cmd) : Option W32 :=
  let w : W32 := BitVec.ofNat 32 (dfield c 255 224)
  if w = 0 then some 0x41800000
  else if fcmp 0x40000000 w == some .gt || fcmp w 0x42800000 == some .gt || isNaN w then none
  else some w

/-- Whether the step of a job in exact mode meets a layer without full scales (R183). -/
def exactBad (s : State) (p : Nat) (x : PlateSet) : Bool :=
  match activeJob s p with
  | some j => (getJob s j).cmode == 1 && x.attn.any (fun w => !bit w 83)
  | none => false

/-- Why a step is refused. -/
inductive StepBad where
  | syn (n field addr : Nat)
  deriving DecidableEq, Repr

/-- The tokens and mask of a step, or the syndrome that refuses it (R276, R174, R175, R183). -/
def checkStep (s : State) (c : Cmd) (x : Sess) (ps : PlateSet) (prefill : Bool) : Except StepBad (List W32 × Option Mask) :=
  let vocab := bits ps.header 415 384
  let n := dfield c 479 448
  if vocab = 0 then .error (.syn 0x0025 0 0)
  else if prefill && (n == 0 || decide (1048576 < n)) then .error (.syn 0x0013 479 0)
  else if !prefill && n == 2 ^ 32 - 1 && !x.ltv then .error (.syn 0x001B 479 0)
  else match stepTokens s c x prefill with
    | none => .error (.syn 0x0026 0 (dfield c 447 384))
    | some ts =>
      if ts.any (fun t => decide (vocab ≤ t.toNat)) then
        (if prefill then .error (.syn 0x001B 0 (dfield c 447 384)) else .error (.syn 0x001B 479 0))
      else if tempBad (BitVec.ofNat 32 (dfield c 319 288)) then .error (.syn 0x001C 319 0)
      else if !prefill && (tauOf c).isNone then .error (.syn 0x0008 255 0)
      else if exactBad s c.part ps then .error (.syn 0x0024 0 0)
      else
        let a := dfield c 383 320
        if a = 0 then .ok (ts, none)
        else match (match c.notice with | some n => noticeMask n.mask | none => readMask s a) with
          | none => .error (.syn 0x0007 0 a)
          | some m => .ok (ts, some m)

/-! ## Mapping (R152) -/

/-- Pages the positions [pos, pe) fall in, for each layer and group. -/
def pagesFor (g : Geo) (pos pe : Nat) : List (Nat × Nat × Nat) :=
  (List.range g.nl).flatMap (fun l => (List.range g.ng).flatMap (fun grp =>
    (rangeFrom (pos / g.p) (ceilDiv pe g.p - pos / g.p)).map (fun i => (l, grp, i))))

/-- The pages of a step that are not mapped yet. -/
def unmappedPages (s : State) (si : Nat) (g : Geo) (pos pe : Nat) : List (Nat × Nat × Nat) :=
  (pagesFor g pos pe).filter (fun k => (walk s (getSess s si) g k.1 k.2.1 k.2.2).isNone)

/-- Map pages one by one; none where frames are short. -/
def mapPages (s : State) (si : Nat) (g : Geo) (ks : List (Nat × Nat × Nat)) : Option State :=
  ks.foldl (fun (acc : Option State) k => acc.bind (fun s => mapPage s si g k.1 k.2.1 k.2.2)) (some s)

/-! ## The rows -/

/-- A step joins the gather window of its partition, whose length is fixed when it opens (R179, R292). -/
def openGather (s : State) (p : Nat) : State :=
  let x := getPart s p
  if x.gatherAt = 0 then setPart s p { x with gatherAt := gatherEnd s x } else s

/-- The step record of an accepted PREFILL or DECODE. -/
def newStep (s : State) (c : Cmd) (si : Nat) (g : Geo) (prefill : Bool) (ts : List W32) (m : Option Mask) : StepRec :=
  let pe := (getSess s si).position + ts.length
  { ring := c.ring, seq := c.seq, part := c.part, sess := some si, prefill := prefill, job := activeJob s c.part, pe := pe,
    npages := ceilDiv pe g.p, tokens := ts, mask := m, cap := dfield c 271 256, adopted := c.adopted.isSome }

/-- The message of R386 before a step of a paired session launches. -/
def sendNotice (s : State) (c : Cmd) (si : Nat) (ts : List W32) : State :=
  let x := getSess s si
  if x.pstate != 1 || x.shadow then s
  else
    let ts := if opcodeOf c = 0x04 ∧ dfield c 479 448 = 2 ^ 32 - 1 then [] else ts
    let mask := if dfield c 383 320 = 0 then [] else ((readMaskBytes s (dfield c 383 320)).map (fun e => e.1 ++ e.2.1 ++ e.2.2)).getD []
    toPartner s si (.notice x.partnerHandle { desc := c.desc, ring := c.ring, seq := c.seq, tokens := ts, mask := mask })

/-- PREFILL and DECODE once their turn has come (R276, R152). -/
def runStep (s : State) (c : Cmd) (si : Nat) (prefill : Bool) : State :=
  let x := getSess s si
  match findSet s c.part x.plateset with
  | none => finish s c.ring c.seq stPlateMissing
  | some ps =>
    if ps.st == .broken then (if c.cls == clsFixed then s else finish s c.ring c.seq (brokenStatus ps))
    else match checkStep s c x ps prefill with
      | .error (.syn n f a) => faultCmd s c n f a
      | .ok (ts, m) => match setGeo ps with
        | none => faultSyn s c 0x0025
        | some g =>
          let s := reclaim s c.part
          let pe := x.position + ts.length
          match readLines s (tablesErrors s x g (pagesFor g x.position pe)) with
          | .error e => walkFault s c si e 0
          | .ok s =>
          let need := unmappedPages s si g x.position pe
          if g.nleaf * 128 * g.p < pe ∨ (x.quota ≠ 0 ∧ x.quota < x.pages + need.length) then finish s c.ring c.seq stRejected
          else match mapPages s si g need with
            | none => shortage s c
            | some s =>
              let st := newStep s c si g prefill ts m
              let s := startCmd s c.ring c.seq
              let s := sendNotice { s with steps := s.steps ++ [st] } c si ts
              openGather s c.part

/-- The session handle of a step: HANDLE, or the shadow's own for an adopted step (R388). -/
def stepHandle (c : Cmd) : W32 := (handleIn c).getD 0

/-- PREFILL (R276). -/
def execPrefill (r q : Nat) (s : State) : Host.Outcome State Fault Refusal :=
  match runnable s r q 0x03 with
  | none => .next s
  | some c => match openHandle s c.part (stepHandle c) with
    | none => .next (faultCmd s c 0x0003 511 0)
    | some si => if sessionTurn s c (stepHandle c) && !jobHeld s c.part then .next (runStep s c si true) else .next s

/-- DECODE (R276). -/
def execDecode (r q : Nat) (s : State) : Host.Outcome State Fault Refusal :=
  match runnable s r q 0x04 with
  | none => .next s
  | some c => match openHandle s c.part (stepHandle c) with
    | none => .next (faultCmd s c 0x0003 511 0)
    | some si => if sessionTurn s c (stepHandle c) && !jobHeld s c.part then .next (runStep s c si false) else .next s

end Sys2Proof.Machine
end

