-- ==== Sys2Proof/Machine/Separator.lean ====
section
/-! DEFINITION. The Separator (08): routing hash and candidates (R189, R190), assignment (R193, R194), dispatch
messages and credits (R196 to R201), the destination (R202 to R204, R209) and the combine (R205). -/

namespace Sys2Proof.Machine

open Sys2Proof

/-! ## Routing records and the hash -/

/-- draw(t, l, j) of R189. -/
def drawExpert (y : Route) (t : W32) (l j : Nat) : Nat :=
  let salt := y.salt + BitVec.ofNat 64 j * 0x9E3779B97F4A7C15
  ((mix64 (BitVec.ofNat 64 (t.toNat * 65536) ||| BitVec.ofNat 64 l) salt).toNat * y.e) >>> 64

/-- The candidate list of a row (R190). -/
def candidates (y : Route) (t : W32) (l : Nat) : List Nat :=
  (List.range 64).foldl (fun acc j =>
    if y.k + y.spare ≤ acc.length then acc
    else
      let e := drawExpert y t l j
      if acc.contains e then acc else acc ++ [e]) []

/-- One choice of a row (R194): the expert, or none, with the next spare index. -/
def takeExpert (y : Route) (cand : List Nat) (count : Tbl Nat) (c : Nat) (e : Option Nat) (sp : Nat) : Nat → Option Nat × Nat
  | 0 => (none, sp)
  | n + 1 =>
    let full := match e with | none => true | some x => decide (0 < c) && decide (c ≤ tget 0 count x)
    if !full then (e, sp)
    else match cand[sp]? with
      | none => (none, sp)
      | some x => takeExpert y cand count c (some x) (sp + 1) n

/-- What assigning rows gives: the choices of each row, counts, and moved and dropped choices by row. -/
structure Assigned where
  rows    : List (List (Option Nat)) := []
  count   : Tbl Nat := []
  moved   : List Nat := []
  dropped : List Nat := []
  deriving DecidableEq, Repr, Inhabited

/-- Assign one row under capacity `c` (R194). -/
def assignRow (y : Route) (l : Nat) (acc : Assigned) (t : W32) (c : Nat) : Assigned :=
  let cand := candidates y t l
  let go := (List.range y.k).foldl (fun (a : List (Option Nat) × Nat × Tbl Nat × Nat × Nat) k =>
    let (done, sp, count, mv, dr) := a
    let (e, sp) := takeExpert y cand count c cand[k]? sp 64
    match e with
    | none => (done ++ [none], sp, count, mv, dr + 1)
    | some x => (done ++ [some x], sp, tset count x (tget 0 count x + 1), if cand[k]? == some x then mv else mv + 1, dr))
    ([], y.k, acc.count, 0, 0)
  { rows := acc.rows ++ [go.1], count := go.2.2.1, moved := acc.moved ++ [go.2.2.2.1], dropped := acc.dropped ++ [go.2.2.2.2] }

/-- Assign the rows of a batch in ascending order; each row with the capacity its command has in force (R193, log 22). -/
def assignRows (y : Route) (l : Nat) (ts : List (W32 × Nat)) : Assigned := ts.foldl (fun acc t => assignRow y l acc t.1 t.2) {}

/-- The endpoint that holds each expert (R187). -/
def placement (s : State) (x : PlateSet) (y : Route) : List W16 :=
  (chunks 4 (imageBytes s x (1024 * y.map) (4 * y.e))).map (fun b => BitVec.ofNat 16 (leNat (b.take 2)))

/-- The experts an endpoint holds, in local order (R188). -/
def localExperts (pl : List W16) (ep : W16) : List Nat := (pl.zipIdx.filter (fun e => e.1 == ep)).map (·.2)

/-! ## The job of a batch -/

/-- The job entry of index `ji`; index 64 stands for a partition in no job: one member, itself (log 20). -/
def sepJob (s : State) (ji p : Nat) : Job :=
  if ji < 64 then getJob s ji else { valid := true, st := .active, part := BitVec.ofNat 3 p, members := [epOf s p] }

/-! ## Messages of a batch (R196, R200) -/

/-- Row slots of one destination: (row, choice) by local expert, then row (R196). -/
def destRows (asg : List (List (Option Nat))) (locals : List Nat) : List (Nat × Nat) :=
  locals.flatMap (fun e => asg.zipIdx.flatMap (fun r => (r.1.zipIdx.filter (fun c => c.1 == some e)).map (fun c => (r.2, c.2))))

/-- Pieces of a row list: `first` rows, then `more` at a time. -/
def splitRows (first more : Nat) (rows : List (Nat × Nat)) : List (List (Nat × Nat)) := rows.take first :: chunks more (rows.drop first)

/-- The dispatch messages to one endpoint (R196, R197): at most 64 KiB each, whole rows, the first with the counts. -/
def msgsTo (asg : List (List (Option Nat))) (locals : List Nat) (rowBytes : Nat) (dst : W16) : List SepMsg :=
  let rows := destRows asg locals
  let table := 16 * ceilDiv (2 * locals.length) 16
  let parts := splitRows ((65536 - 32 - table) / rowBytes) ((65536 - 32) / rowBytes) rows
  let counts := locals.map (fun e => BitVec.ofNat 16 ((asg.flatMap id).filter (fun c => c == some e)).length)
  parts.zipIdx.map (fun p =>
    let base := ((parts.take p.2).map List.length).foldl (· + ·) 0
    let bytes := 32 + (if p.2 = 0 then table else 0) + p.1.length * rowBytes
    { dst := dst, index := p.2, count := parts.length, counts := if p.2 = 0 then counts else [], rows := p.1, base := base,
      credits := ceilDiv bytes 4096 })

/-- Every endpoint of a placement, once each, in order of first expert. -/
def endpoints (pl : List W16) : List W16 := pl.eraseDups

/-! ## The destination (R202 to R204) -/

/-- Held messages of one collection (R202). -/
def collection (s : State) (p : Nat) (job : W32) (tag : W16) (l : Nat) : List DestMsg :=
  s.sep.dest.filter (fun d => d.part == p && d.job == job && d.tag == tag && d.layer == l)

/-- Local expert of row `i` of a message, from the source's counts. -/
def rowExpert (counts : List W16) (i : Nat) : Nat :=
  (counts.foldl (fun (acc : Nat × Nat × Bool) c =>
    let (e, left, found) := acc
    if found then acc else if left < c.toNat then (e, left, true) else (e + 1, left - c.toNat, false)) (0, i, false)).1

/-- The counts a source sent in its last message 0 (R196, log 102). -/
def countsOf (ds : List DestMsg) (src : W16) : List W16 :=
  match (ds.filter (fun d => d.src == src && d.index == 0)).getLast? with | some d => d.counts | none => []

/-- Whether a held message belongs to the collection of (partition, job, tag, layer). -/
def inColl (p : Nat) (job : W32) (tag : W16) (l : Nat) (d : DestMsg) : Bool := d.part == p && d.job == job && d.tag == tag && d.layer == l

/-- Change every held message of a collection. -/
def updColl (s : State) (p : Nat) (job : W32) (tag : W16) (l : Nat) (f : DestMsg → DestMsg) : State :=
  { s with sep := { s.sep with dest := updAll (inColl p job tag l) f s.sep.dest } }

/-- Launch the rows of a collection that no launch reads yet, expert by expert, in runs of at most RUN rows, each with its shape word
(R202). -/
def launchExperts (s : State) (p ji : Nat) (tag : W16) (l : Nat) : State :=
  let j := sepJob s ji p
  let ds := collection s p j.jobId tag l
  if !ds.any (fun d => d.planned) then s
  else
    let free := ds.flatMap (fun d => ((List.range d.rows.length).filter (fun i => !d.busy.contains i)).map (fun i =>
      (rowExpert (countsOf ds d.src) (d.base + i), (d.src, d.index, i))))
    let es := (free.map (·.1)).eraseDups
    let runs := es.flatMap (fun e => (chunks (Nat.max 1 j.run.toNat) ((free.filter (fun f => f.1 == e)).map (·.2))).map (fun rs => (e, rs)))
    let cores := liveCores s (getPart s p)
    let s := runs.foldl (fun s r =>
      { s with
        launches := s.launches ++ [{ id := s.dev.launchNo, part := p, cores := cores, steps := [], kernel := false, shape := r.2.length,
                                     expert := some ⟨j.jobId, tag, l, r.1, r.2⟩, layer := l }]
        dev := { s.dev with launchNo := s.dev.launchNo + 1 } }) s
    updColl s p j.jobId tag l (fun d => { d with busy := List.range d.rows.length })

/-- Whether a shape word is one of the collection of (partition, job, tag, layer). -/
def shapeOf (p : Nat) (job : W32) (tag : W16) (l : Nat) (w : ShapeWord) : Bool := w.part == p && w.job == job && w.tag == tag && w.layer == l

/-- Rows that local expert `e` receives over the count tables of a collection (R202). -/
def expertTotal (ds : List DestMsg) (e : Nat) : Nat := ((ds.filter (fun d => d.index == 0)).map (fun d => (nth 0 d.counts e).toNat)).foldl (· + ·) 0

/-- Plan a collection once message 0 of every member is held (R202): one shape word for each local expert, in a place of its own since the
spec gives no address (log 101). An expert with no row has a launch record of shape word 0, for which every core records SHAPE_ZERO.
Messages that come after the plan are planned at once. -/
def planCollection (s : State) (p ji : Nat) (tag : W16) (l : Nat) : State :=
  let j := sepJob s ji p
  let ds := collection s p j.jobId tag l
  let plan := fun (s : State) => updColl s p j.jobId tag l (fun d => { d with planned := true })
  if ds.any (fun d => d.planned) then plan s
  else if !j.members.all (fun m => ds.any (fun d => d.src == m && d.index == 0)) then s
  else
    let n := (ds.map (fun d => d.counts.length)).foldl Nat.max 0
    let cores := liveCores s (getPart s p)
    let words := (List.range n).map (fun e =>
      let k := expertTotal ds e
      ({ part := p, job := j.jobId, tag := tag, layer := l, expert := e, rows := k, cores := if k = 0 then cores else [] } : ShapeWord))
    let x := getPart s p
    let s := setPart s p { x with zeroExp := x.zeroExp + (words.filter (fun w => w.rows == 0)).length }
    plan { s with sep := { s.sep with shapes := s.sep.shapes.filter (fun w => !shapeOf p j.jobId tag l w) ++ words } }

/-! ## Returns at the source (R204, R205, R210) -/

/-- The batch of a return (R210). -/
def openBatch (s : State) (ji : Nat) (tag : W16) (l : Nat) : Option Batch :=
  s.sep.batches.find? (fun b => b.job == ji && b.tag == tag && b.layer == l && !b.failed)

/-- Change the open batch of a tag and layer. -/
def updBatch (s : State) (ji : Nat) (tag : W16) (l : Nat) (f : Batch → Batch) : State :=
  { s with sep := { s.sep with batches := updFirst (fun b => b.job == ji && b.tag == tag && b.layer == l && !b.failed) f s.sep.batches } }

/-- A step whose experts a destination refused (R204): a fatal error against the step, which resets no domain (log 103), and a Stop bath of
its job. -/
def refuseStep (s : State) (ji : Nat) (b : Batch) : State :=
  let l := s.launches.find? (fun l => l.id == b.launch)
  let x := raise s { synRec 0x0009 (some b.part) uSep 0 0 with sev := sevDomain, cmd := l.bind (fun l => l.steps.head?) }
  let s := x.st
  if ji < 64 then stopBath s ji 0x01 x.seq
  else
    let s := retireBatches s ji b.tag
    match l with
    | none => s
    | some l => l.steps.foldl (fun s k => failCmd s k.1 k.2 x.seq stFault) (removeLaunch s l)

/-- Take a return at the source (R200, R204, R210). -/
def takeReturn (s : State) (p ji : Nat) (src tag : W16) (l index credits status : Nat) (rows : List (List Byte)) : State :=
  match openBatch s ji tag l with
  | none => staleReturn s p ji src tag l index credits
  | some b => match b.msgs.find? (fun m => m.dst == src && m.index == index && m.sent && !m.back) with
    | none => staleReturn s p ji src tag l index credits
    | some m =>
      let s := addCredits s ji src.toNat credits
      let s := logInputs s ((s.launches.filter (fun k => k.id == b.launch)).flatMap (·.steps)) (rows.map (.ret l))
      let s := updBatch s ji tag l (fun b =>
        { b with msgs := b.msgs.map (fun k => if k.dst == src && k.index == index then { k with back := true } else k),
                 results := b.results ++ m.rows.zip rows, lastMove := s.time.ftime })
      if status = 0 then s
      else if status = 7 then refuseStep s ji b
      else updBatch s ji tag l (fun b => { b with failed := true })

/-- Answer a held message whose rows all have results (R204); its own device takes the return at once. -/
def answerMsg (s : State) (ji : Nat) (d : DestMsg) : State :=
  let rows := (List.range d.rows.length).map (fun i => tget [] d.out i)
  let s := updColl s d.part d.job d.tag d.layer (fun k => if k.src == d.src && k.index == d.index then { k with answered := true } else k)
  if d.src == epOf s d.part then takeReturn s d.part ji d.src d.tag d.layer d.index d.credits 0 rows
  else sendReturn s d 0 rows

/-- Whether every message that a member has sent to a collection since its last message 0 has been answered. -/
def memberDone (ds : List DestMsg) (m : W16) : Bool :=
  let mine := ds.filter (fun d => d.src == m)
  match (mine.filter (fun d => d.index == 0)).getLast? with
  | some d => mine.all (fun k => k.answered) && decide (d.count ≤ mine.length)
  | none => false

/-- Drop a collection once every message of every member has been answered. -/
def dropCollection (s : State) (p ji : Nat) (tag : W16) (l : Nat) : State :=
  let j := sepJob s ji p
  if j.members.all (memberDone (collection s p j.jobId tag l)) then
    { s with sep := { s.sep with dest := s.sep.dest.filter (fun d => !inColl p j.jobId tag l d) } }
  else s

/-- What reading the placement table of a route meets (R187, R220). -/
def mapErrors (s : State) (x : PlateSet) (y : Route) : List Rec × Option (Rec × Nat) := imageErrors s x (1024 * y.map) (4 * y.e)

/-- What reading the combine weights of a route meets. -/
def weightErrors (s : State) (x : PlateSet) (y : Route) : List Rec × Option (Rec × Nat) :=
  if y.wtab = 0 then ([], none) else imageErrors s x (1024 * y.wtab) (4 * y.e)

/-- Report what reading a table of the plate image has met: an uncorrectable line is handled as a mismatch of its plate, and its record is
given (R220, R305, R343). -/
def tableRead (s : State) (e : List Rec × Option (Rec × Nat)) : State × Option Nat :=
  let s := e.1.foldl raise' s
  match e.2 with
  | none => (s, none)
  | some (r, f) =>
    let x := raise s r
    (frameBad (dropLatch x.st x.seq) f, some x.seq)

/-- A destination reads the placement table for the first message of a source (R204). -/
def readMap (s : State) (ji : Nat) (d : DestMsg) : State :=
  match (destSet s d.part ji d.tag d.layer).bind (fun x => (layerRoute x d.layer).map (fun y => (x, y))) with
  | some (x, y) => if d.index = 0 then (tableRead s (mapErrors s x y)).1 else s
  | none => s

/-- Whether a dispatch names experts the destination does not hold (R204). -/
def wrongExperts (s : State) (p ji : Nat) (d : DestMsg) : Bool :=
  match destSet s p ji d.tag d.layer with
  | none => true
  | some x => match layerRoute x d.layer with
    | none => true
    | some y => d.index == 0 && d.counts.length != (localExperts (placement s x y) (epOf s p)).length

/-- Take a dispatch message at the destination (R202, R204, R209). -/
def takeDispatch (s : State) (ji : Nat) (d : DestMsg) : State :=
  let j := sepJob s ji d.part
  let answer := fun (s : State) (st : Byte) => if d.src == epOf s d.part then takeReturn s d.part ji d.src d.tag d.layer d.index d.credits st.toNat []
    else sendReturn s d st []
  if j.retired.contains d.tag then answer s 0x02
  else if wrongExperts s d.part ji d then answer s 0x07
  else
    let s := readMap s ji d
    let s := logInputs { s with sep := { s.sep with dest := s.sep.dest ++ [d] } }
      ((s.launches.filter (fun k => k.part == d.part && k.tag == some d.tag && k.job.getD 64 == ji && k.expert.isNone)).flatMap (·.steps))
      (d.rows.map (.dispatch d.layer))
    let s := if d.rows.isEmpty then answerMsg s ji d else s
    dropCollection (launchExperts (planCollection s d.part ji d.tag d.layer) d.part ji d.tag d.layer) d.part ji d.tag d.layer

/-! ## Sending (R198, R200) -/

/-- Rows of a message as bytes. -/
def msgRows (b : Batch) (m : SepMsg) : List (List Byte) := m.rows.map (fun r => nth [] b.rows r.1)

/-- Send one message of a batch: over Zhevlink, or to its own device (R198). -/
def sendMsg (s : State) (b : Batch) (m : SepMsg) : State :=
  let j := sepJob s b.job b.part
  let s := putCredits s b.job m.dst.toNat (getCredits s b.job m.dst.toNat j.g.toNat - m.credits)
  let s := updBatch s b.job b.tag b.layer (fun b =>
    { b with msgs := b.msgs.map (fun k => if k.dst == m.dst && k.index == m.index then { k with sent := true } else k), lastMove := s.time.ftime })
  let rows := msgRows b m
  if m.dst == epOf s b.part then
    takeDispatch s b.job { src := m.dst, job := j.jobId, tag := b.tag, layer := b.layer, index := m.index, count := m.count,
                           counts := m.counts, rows := rows, base := m.base, credits := m.credits, part := b.part }
  else
    let h : SepHdr := { sepHdr j b.tag b.layer 0 s.dev.hubTag with
      msgIndex := BitVec.ofNat 16 m.index, msgCount := BitVec.ofNat 16 m.count, nrows := BitVec.ofNat 16 rows.length,
      rowBase := BitVec.ofNat 32 m.base, credits := BitVec.ofNat 8 m.credits, fmt := b.fmt }
    send s b.part m.dst chSep pkMessage j.jobId 0 0 (.sep 0x01 h m.counts rows)

/-- The command a launch serves first. -/
def launchCmd (s : State) (l : Launch) : Option Cmd := (l.steps.head?).bind (fun k => findCmd s k.1 k.2)

/-- The plate set a launch pins; an expert launch runs the set its destination serves from (R90, R204). -/
def launchSet (s : State) (l : Launch) : W16 :=
  match l.expert with
  | some e => ((destSet s l.part ((jobById s l.part e.job).getD 64) e.tag e.layer).map (·.setId)).getD 0
  | none => ((launchCmd s l).map Cmd.set).getD 0

/-- FLAGS[0] of a KERNEL_RUN's launch block: a Separator stage follows (R280). -/
def stageFlag (c : Cmd) : Bool := leNat ((c.launchBlk.drop 0x0A).take 2) % 2 == 1

/-- Whether a launch may still start a batch: a KERNEL_RUN with a stage to come, or a serving launch with an expert layer to come. -/
def maySend (s : State) (l : Launch) : Bool :=
  !l.steps.isEmpty && l.expert.isNone &&
  (if l.kernel then l.stage != .separate && (launchCmd s l).any stageFlag
   else !l.todo.isEmpty || (match findSet s l.part (launchSet s l) with
     | some x => (List.range x.attn.length).any (fun k => decide ((if l.stage == .separate then l.layer + 1 else l.layer) ≤ k) && (layerRoute x k).isSome)
     | none => false))

/-- Whether a batch waits for the batches of a tag that its job issued earlier (R198). -/
def waitsTurn (s : State) (b : Batch) : Bool :=
  s.launches.any (fun l => l.part == b.part && l.job.getD 64 == b.job && l.tag.isSome && decide (l.issue < b.issue) && maySend s l)

/-- Insert a batch in the order of its messages: STEP_TAG issue order, then LAYER (R198). -/
def insertBatch (b : Batch) : List Batch → List Batch
  | [] => [b]
  | x :: t => if decide (b.issue < x.issue) || (b.issue == x.issue && decide (b.layer < x.layer)) then b :: x :: t else x :: insertBatch b t

/-- The next message that credits allow: the first unsent one to each endpoint in the order of R198 (R200). -/
def nextMsg (s : State) : Option (Batch × SepMsg) :=
  let go := (s.sep.batches.foldl (fun l b => insertBatch b l) []).foldl (fun (acc : Option (Batch × SepMsg) × List (Nat × W16)) b =>
    if b.failed || waitsTurn s b then acc
    else b.msgs.foldl (fun acc m =>
      if m.sent || acc.1.isSome || acc.2.contains (b.job, m.dst) then acc
      else if m.credits ≤ getCredits s b.job m.dst.toNat (sepJob s b.job b.part).g.toNat then (some (b, m), acc.2)
      else (acc.1, acc.2 ++ [(b.job, m.dst)])) acc) (none, [])
  go.1

/-- Send messages while credits allow, at most `n`. -/
def sendReady (s : State) : Nat → State
  | 0 => s
  | n + 1 => match nextMsg s with
    | none => s
    | some (b, m) => sendReady (sendMsg s b m) n

/-- Unsent messages of every batch. -/
def unsent (s : State) : Nat := (s.sep.batches.map (fun b => (b.msgs.filter (fun m => !m.sent)).length)).foldl (· + ·) 0

/-- A batch whose turn has come waits for credits and returns from now on (R198, R358). -/
def turnCome (s : State) (b : Batch) : Batch := if b.turn || waitsTurn s b then b else { b with turn := true, lastMove := s.time.ftime }

/-- Send every message that credits allow. -/
def pumpSep (s : State) : State :=
  sendReady { s with sep := { s.sep with batches := s.sep.batches.map (turnCome s) } } (unsent s)

/-- Start a batch (R194, R196): counts the moved and dropped choices and sends what credits allow. -/
def startBatch (s : State) (ji p launch : Nat) (tag : W16) (x : PlateSet) (y : Route) (l addr : Nat) (ts : List (W32 × Nat))
    (rows : List (List Byte)) (owners : List (Nat × Nat)) : State :=
  let a := assignRows y l ts
  let pl := placement s x y
  let msgs := (endpoints pl).flatMap (fun ep => msgsTo a.rows (localExperts pl ep) (rowSize y.ifmt y.dim) ep)
  let mv := a.moved.foldl (· + ·) 0
  let dr := a.dropped.foldl (· + ·) 0
  let passed := (a.rows.filter (fun r => r.all (fun c => c.isNone))).length
  let pt := getPart s p
  let s := setPart s p { pt with movedCh := pt.movedCh + mv, droppedCh := pt.droppedCh + dr, passedRows := pt.passedRows + passed }
  let s := (owners.zip (a.moved.zip a.dropped)).foldl (fun s e =>
    updStep s e.1.1 e.1.2 (fun z => { z with moved := z.moved + e.2.1, dropped := z.dropped + e.2.2 })) s
  let issue := ((s.launches.find? (fun k => k.id == launch)).map (·.issue)).getD 0
  let b : Batch := { job := ji, tag := tag, layer := l, launch := launch, part := p, pset := x.setId, rows := rows, owners := owners,
                     issue := issue, fmt := BitVec.ofNat 4 y.ifmt, tokens := ts.map (·.1), assign := a.rows, msgs := msgs, addr := addr, moved := mv, dropped := dr, lastMove := s.time.ftime }
  pumpSep { s with sep := { s.sep with batches := s.sep.batches ++ [b] } }

/-! ## Combine (R205) -/

/-- Whether a batch holds the return of every message. -/
def batchDone (b : Batch) : Bool := !b.failed && b.msgs.all (fun m => m.back)

/-- Elements of a returned row widened to FP32 (R205). -/
def widenRow (fmt : Nat) (d : List Byte) : List W32 :=
  let w := if fmt = 10 then 4 else 2
  (chunks w d).map (fun b => toF32 (decodeEl fmt (leNat b)))

/-- Weight of an expert (R187, R205). -/
def weightOf (s : State) (x : PlateSet) (y : Route) (e : Nat) : W32 :=
  if y.wtab = 0 then frcp (toF32 (.fin false y.k 0))
  else BitVec.ofNat 32 (leNat (imageBytes s x (1024 * y.wtab + 4 * e) 4))

/-- One combined row (R205). -/
def combineRow (s : State) (x : PlateSet) (y : Route) (b : Batch) (r : Nat) : List Byte :=
  let n := 16 * (y.dim + 1)
  let acc := (List.range y.k).foldl (fun (acc : List W32) k =>
    match nth none (nth [] b.assign r) k, b.results.find? (fun e => e.1 == (r, k)) with
    | some e, some d => List.zipWith (fun a v => ffma (weightOf s x y e) v a) acc (widenRow y.ofmt d.2)
    | _, _ => acc) (List.replicate n 0)
  convertRow y.cfmt false (acc.map val32)

/-- The combined rows of a batch. -/
def combineBatch (s : State) (x : PlateSet) (y : Route) (b : Batch) : List (List Byte) :=
  (List.range b.rows.length).map (combineRow s x y b)

/-- Remove a batch. -/
def dropBatch (s : State) (b : Batch) : State :=
  { s with sep := { s.sep with batches := s.sep.batches.filter (fun k => !(k.job == b.job && k.tag == b.tag && k.layer == b.layer)) } }

end Sys2Proof.Machine
end

