-- ==== Sys2Proof/Machine/Release.lean ====
section
/-! DEFINITION. The end of a step: sampling (R277), the RESULT (R278), Proof (R346 to R352), the exposure of a Fixed
step (R386), release (R285) and the rows FIXED_STEP_RELEASE and PROOF_REPLAY_DONE. -/

namespace Sys2Proof.Machine

open Sys2Proof

/-! ## Sampling (R277) -/

/-- a / b rounded to FP32, for a positive finite divisor (R277). -/
def fdivPos (a b : W32) : W32 :=
  match val32 a, val32 b with
  | .fin s m e, .fin _ n f => if n = 0 then nan32 else pack32 s (sticky (m * 2 ^ 80 / n) (m * 2 ^ 80 % n != 0)) (e - f - 81)
  | _, _ => nan32

/-- ARGMAX over a vocabulary, in the order and with the ties of R125. -/
def argmaxList (l : List W32) : Option Nat :=
  (l.zipIdx.foldl (fun (acc : Option (Int × Nat)) p =>
    if isNaN p.1 then acc
    else match acc with
      | none => some (ordKey p.1, p.2)
      | some (m, i) => if m < ordKey p.1 then some (ordKey p.1, p.2) else some (m, i)) none).map (·.2)

/-- Insert (value, index) in descending order of value, ties to the lower index. -/
def insertDesc (x : W32 × Nat) : List (W32 × Nat) → List (W32 × Nat)
  | [] => [x]
  | y :: t => if ordKey y.1 < ordKey x.1 then x :: y :: t else y :: insertDesc x t

/-- The indices of the `k` largest values (R277). -/
def keepTop (k : Nat) (z : List W32) : List Nat :=
  if k = 0 ∨ z.length ≤ k then List.range z.length
  else ((z.zipIdx.foldl (fun l x => insertDesc x l) []).take k).map (·.2)

/-- The token drawn from scaled logits (R277), none where the manual names none. -/
def drawToken (z : List W32) (topk : Nat) (u : W32) : Option Nat :=
  let kept := keepTop topk z
  let m := largest (kept.map (fun i => nth 0 z i))
  let w := z.zipIdx.map (fun p => if kept.contains p.2 then fexp2 (fsub p.1 m) else 0)
  let c := (w.foldl (fun (acc : List W32 × W32) x => let n := fadd acc.2 x; (acc.1 ++ [n], n)) ([], 0)).1
  let last := nth 0 c (c.length - 1)
  c.findIdx? (fun x => fcmp x (fmul u last) == some .gt)

/-- The sampling draw: VRNG FN 1 with key SEED, session input 0, the position and draw index 0 (R277, R394). -/
def sampleDraw (seed : W64) (pos : Nat) : W32 := pack32 false ((gen seed 0 (BitVec.ofNat 64 pos) 0).toNat >>> 8) (-24)

/-- The token of a step (R277), none where the manual names none (log 24). -/
def sampleToken (logits : List W32) (temp : W32) (topk : Nat) (seed : W64) (pos : Nat) : Option Nat :=
  if temp = 0 then argmaxList logits
  else
    let g := fdivPos l2e temp
    drawToken (logits.map (fun x => fmul x g)) topk (sampleDraw seed pos)

/-- The token a step samples from its last hidden row; a free value where the manual names none (log 24). -/
def stepToken (s : State) (c : Cmd) (x : PlateSet) (st : StepRec) : State × W32 :=
  let vocab := bits x.header 415 384
  let h := nth [] st.hidden (st.hidden.length - 1)
  let logits := (List.range vocab).map (Config.logit (setDigests x) h)
  let seed := match st.sess with | some i => (getSess s i).seed | none => 0
  match sampleToken logits (BitVec.ofNat 32 (dfield c 319 288)) (dfield c 287 272) seed st.pe with
  | some t => (s, BitVec.ofNat 32 t)
  | none => let (n, s) := freeNow s; (s, BitVec.ofNat 32 (Config.freeNat n % vocab))

/-- RESULT of PREFILL and DECODE (R278). -/
def stepResult (st : StepRec) (tok : W32) : W128 :=
  let cut := fun n => Nat.min n 65535
  BitVec.ofNat 128 ((tok.toNat <<< 96) + ((st.pe % 2 ^ 32) <<< 64) + (cut st.skipped <<< 48) + (cut st.moved <<< 32) + (cut st.dropped <<< 16))

/-! ## Suspicion (R346, R347) -/

/-- Whether Proof is armed for the steps of a partition (R346). -/
def proofArmed (s : State) (p : Nat) (job : Option Nat) : Bool :=
  match job with
  | some j => (getJob s j).check == 1
  | none => (getPart s p).pcheck

/-- Cores that ran a share of a step. -/
def stepCores (st : StepRec) : List Nat := (st.shares.map (·.2)).eraseDups

/-- Tiles that ran a share of a step. -/
def stepTiles (st : StepRec) : List Nat := ((stepCores st).map (· / 16)).eraseDups

/-- Whether a record makes a step suspect (R347): a corrected error of its cores or stacks, or a residue event of its
tiles in the window or 1 ms before it. -/
def recTriggers (st : StepRec) (r : Rec) : Bool :=
  (r.code == 0x0105 && decide (st.firstAt ≤ r.ftime) && (stepCores st).contains r.unitId.toNat) ||
  (r.code == 0x0201 && decide (st.firstAt ≤ r.ftime) && r.unitType == uStack && (stepTiles st).contains r.unitId.toNat) ||
  (r.code == 0x0107 && decide (st.firstAt ≤ r.ftime + 1050000) && (stepTiles st).contains (r.unitId.toNat / 16))

/-- Whether an excursion of the tiles' temperature or voltage makes a step suspect (R347): the readings are free
values (log 5). -/
def excursion (s : State) (st : StepRec) : Bool :=
  let p := getPart s st.part
  (stepTiles st).any (fun t => decide (p.proofTemp.toNat ≤ Config.freeNat (s.fresh + 2 * t) % 4096) ||
    decide (p.proofMv.toNat < Config.freeNat (s.fresh + 2 * t + 1) % 65536))

/-- Whether a step is drawn under PROOF_N (R346, R347): never for 0, always for 1. -/
def drawnProof (s : State) (st : StepRec) : Bool :=
  let n := (getPart s st.part).proofN.toNat
  n != 0 && (n == 1 || Config.entropy (s.fresh + 16) n)

/-- Whether an injection of kind `k` is armed for a partition (R357). -/
def partInjection (s : State) (k : BitVec 4) (p : Nat) : Option Inject := s.err.armed.find? (fun i => i.kind == k && i.part.toNat == p)

/-- Take an armed injection away. -/
def dropInjection (s : State) (i : Inject) : State := { s with err := { s.err with armed := s.err.armed.erase i } }

/-- Decide at the end of a step's last core whether it is proven before release (R347). -/
def judgeStep (s : State) (r q : Nat) : State :=
  match findStep s r q with
  | none => s
  | some st =>
    let recs := (tget [] s.err.cper st.part).any (recTriggers st)
    let sus := st.armed && (st.suspect || recs || excursion s st || drawnProof s st)
    let s := { s with fresh := s.fresh + 17 }
    let (s, sus) := match partInjection s 5 st.part with
      | some i => (dropInjection s i, true)
      | none => (s, sus)
    updStep s r q (fun y => { y with suspect := sus })

/-! ## Digests of a step (R349, log 25) -/

/-- The per-page digests of the pages a step changed (R349). -/
def pageDigests (s : State) (st : StepRec) : List W256 :=
  match st.sess.bind (fun i => (sessGeo s i).map (fun g => (i, g))) with
  | none => []
  | some (i, g) => st.changed.filterMap (fun k => (walk s (getSess s i) g k.1 k.2.1 k.2.2).map (fun e =>
      (makeRec s 1 (kvId k.1 k.2.1 k.2.2) e.pfn e.sum).digest))

/-- The step digest: SHA3-256 over the page digests and RESULT (R349). -/
def stepDigest (s : State) (st : StepRec) : W256 :=
  sha3w ((pageDigests s st).flatMap (fun d => natLE 32 d.toNat) ++ natLE 16 st.result.toNat)

/-- The digest of share `k` of the step (R349). -/
def shareDigest (st : StepRec) (k : Nat) : W256 :=
  sha3w ((st.writes.filter (fun w => w.1 == k)).flatMap (fun w => natLE 8 w.2.1 ++ w.2.2))

/-- The original run of a step: one digest for each core of each launch, in launch order. -/
def originalRun (s : State) (st : StepRec) : RunDigest :=
  { step := stepDigest s st, shares := (List.range st.shares.length).map (shareDigest st), result := st.result, pages := [] }

/-! ## Rotated runs (R347, R348) -/

/-- Whether a step waits for a rotated run on this device: a Fixed step once its partner's digest differs, any other suspect step. -/
def wantsRun (s : State) (st : StepRec) : Bool :=
  st.suspect && !st.proven &&
  (st.phase == .proving || (st.phase == .exposing && (st.partnerDig.isSome || !(match st.sess with | some i => paired (getSess s i) | none => false))))

/-- The step of a partition whose rotated run is next: replays of one partition run in step acceptance order (R347). -/
def nextReplay (s : State) (p : Nat) : Option StepRec :=
  (s.cmds.filter (fun c => c.part == p)).findSome? (fun c => (findStep s c.ring c.seq).bind (fun st => if wantsRun s st then some st else none))

/-- Take up to `n` near frames of a partition for the pages a rotated run writes (R348). -/
def takeScratch (s : State) (p : Nat) : Nat → State × List Nat
  | 0 => (s, [])
  | n + 1 => match newNear s p 2 0 with
    | none => (s, [])
    | some (s, f) =>
      let x := takeScratch s p n
      (x.1, f :: x.2)

/-- Begin the next rotated run of a partition: it writes into scratch frames, one for each page the step changed (R348). With too few
free frames it waits. -/
def startReplay (s : State) (p : Nat) : State :=
  match nextReplay s p with
  | none => s
  | some st =>
    if !st.scratch.isEmpty || decide (nearFree s p < st.changed.length) then s
    else
      let x := takeScratch s p st.changed.length
      updStep x.1 st.ring st.seq (fun y => { y with scratch := x.2 })

/-- Whether the rotated run of a step is under way: it is next, and has its scratch frames. -/
def replaying (s : State) (st : StepRec) : Bool :=
  (nextReplay s st.part).any (fun y => y.ring == st.ring && y.seq == st.seq) && (st.scratch.length == st.changed.length)

/-! ## Release (R285) -/

/-- The completion of a released step: position, last token, journal and completion (R152, R278, R287, R388); a Timed step that comes too
late is DEADLINE_FAIL, and its session stays where it was (R290, R152). -/
def releaseStep (s : State) (r q : Nat) : State :=
  match findStep s r q, findCmd s r q with
  | some st, some c =>
    let s := dropFromLaunches s r q
    if lateCmd s c then complete s r q { status := stDeadline }
    else
    let s := match st.sess with
      | some i =>
        if st.kernel then s
        else
          let x := getSess s i
          setSess s i { x with position := st.pe, lastToken := st.token, ltv := true,
                               fixedPos := if c.cls == clsFixed then st.pe else x.fixedPos,
                               fixedSeq := if c.cls == clsFixed then q else x.fixedSeq }
      | none => s
    complete s r q { status := if st.adopted then stMigrated else stOk, result := st.result.toNat,
                     route := st.moved != 0 || st.dropped != 0, proof := st.proven }
  | _, _ => s

/-- Send a Fixed step's changed pages, its input log where Proof is to replay it, RESULT and digest to the partner, a reference held on
each page until the partner takes it (R386, R374, R349). -/
def exposeStep (s : State) (r q : Nat) : State :=
  match findStep s r q with
  | none => s
  | some st => match st.sess.bind (fun i => (sessGeo s i).map (fun g => (i, g))) with
    | none => s
    | some (i, g) =>
      let x := getSess s i
      let recs := st.changed.filterMap (fun k => (walk s x g k.1 k.2.1 k.2.2).map (fun e => (e, makeRec s 1 (kvId k.1 k.2.1 k.2.2) e.pfn e.sum)))
      let s := recs.foldl (fun s e => addRef s e.1.pfn) s
      let s := recs.foldl (fun s e => endCopy (toPartner (beginCopy s st.part) i (.exp x.partnerHandle (.shadow e.2))) st.part) s
      let s := if st.suspect then toPartner s i (.exp x.partnerHandle (.inputs (BitVec.ofNat 64 q) st.inputs)) else s
      let s := toPartner s i (.exp x.partnerHandle (.stepEnd (BitVec.ofNat 64 q) st.result recs.length))
      let s := setSess s i { getSess s i with expId := x.expId + 1, expOpen := x.expOpen + 1 }
      updStep s r q (fun y => { y with phase := .exposing, toSend := recs.map (fun e => (e.1.pfn, e.1.sum, e.2.id.toNat)) })

/-- The end of a step's work: Proof, exposure or release, by class (R285, R290, R347). -/
def stepDone (s : State) (r q : Nat) : State :=
  let s := judgeStep s r q
  match findStep s r q, findCmd s r q with
  | some st, some c =>
    let fixedPaired := c.cls == clsFixed && (match st.sess with | some i => paired (getSess s i) | none => false)
    if fixedPaired then exposeStep s r q
    else if st.suspect then startReplay (updStep s r q (fun y => { y with phase := .proving })) st.part
    else if c.cls == clsFixed then updStep s r q (fun y => { y with phase := .exposing, acked := true })
    else releaseStep s r q
  | _, _ => s

/-- Whether a Fixed step can be released (R285, R386, R387). -/
def releasable (s : State) (st : StepRec) : Bool :=
  let proofOk := !st.suspect || st.proven
  match st.sess with
  | none => false
  | some i =>
    let x := getSess s i
    st.phase == .exposing && proofOk && (if paired x then st.acked && !x.reexp && decide (s.time.ftime ≤ x.lease) else true)

/-- FIXED_STEP_RELEASE (R285). -/
def execFixedStepRelease (r q : Nat) (s : State) : Host.Outcome State Fault Refusal :=
  match findStep s r q, findCmd s r q with
  | some st, some c => if c.cls == clsFixed && releasable s st then .next (releaseStep s r q) else .next s
  | _, _ => .next s

/-! ## Proof outcomes (R349 to R352) -/

/-- DETAIL of E_PROOF_MISMATCH (R337). -/
def proofDetail (q launch share unit : Nat) (ep : W16) : BitVec 496 :=
  BitVec.ofNat 496 (((q % 2 ^ 64) <<< 432) + ((launch % 65536) <<< 416) + ((share % 256) <<< 408) + ((unit % 65536) <<< 392) + (ep.toNat <<< 376))

/-- Steps not yet released that ran a share on a core become suspect (R347, R352). -/
def suspectCore (s : State) (c : Nat) : State :=
  { s with steps := updAll (fun st => (stepCores st).contains c && st.phase != .released && st.armed) (fun st => { st with suspect := true }) s.steps }

/-- Whether a command needs a launch and has no work left that runs or is done: in a partition in FAULT nothing launches it (R227). -/
def unlaunched (s : State) (c : Cmd) : Bool :=
  needsLaunch (opcodeOf c) && !s.launches.any (fun l => l.started && l.steps.contains (c.ring, c.seq)) &&
  (match findStep s c.ring c.seq with
   | some st => st.phase == .gather || st.phase == .launched || st.phase == .held
   | none => true)

/-- End a command that a partition in FAULT cannot launch, with record `n` (R227, R342); one whose job runs here takes its job with it
(R331). -/
def endUnlaunched (s : State) (n : Nat) (c : Cmd) : State :=
  let job := ((findStep s c.ring c.seq).bind (·.job)).filter (fun j => (getJob s j).st == .active)
  match job with
  | some j => stopBath s j 0x01 n
  | none => endNoCore (updStep (dropFromLaunches s c.ring c.seq) c.ring c.seq (fun y => { y with phase := .held })) c

/-- End every command of a partition in FAULT that it cannot launch. -/
def endAllUnlaunched (s : State) (p n : Nat) : State :=
  dropHollow ((s.cmds.filter (fun c => c.part == p && unlaunched s c)).foldl (fun s c => endUnlaunched s n c) s)

/-- Quarantine a core (R352), with the device record that keeps it (R407); a partition left with no unfenced core goes
to FAULT, and what it can launch no more ends (R227). -/
def quarantine (s : State) (c n : Nat) : State :=
  let s := writeDevRec { s with dev := { s.dev with quar := setBit s.dev.quar c true } } 1 (setBit 0 c true)
  let s := suspectCore s c
  match partOfTile s (c / 16) with
  | none => s
  | some p =>
    let x := getPart s p
    if (liveCores s x).isEmpty then endAllUnlaunched (setPart s p { x with st := .fault, fromReady := true, faultRec := n }) p n else s

/-- The first share that differs between two runs, in launch order and then by share index (R350). -/
def firstShare (a b : RunDigest) : Nat := ((a.shares.zip b.shares).findIdx? (fun p => p.1 != p.2)).getD 0

/-- LAUNCH and SHARE of the share of index `k` of a step (R337): its launch, and its core's position in that launch. -/
def shareName (st : StepRec) (k : Nat) : Nat × Nat :=
  let l := (nth (0, 0) st.shares k).1
  (l, ((st.shares.take k).filter (fun x => x.1 == l)).length)

/-- The record that made a step suspect on a core, or on its tile: the one an E_PROOF_MISMATCH of that core names in RELATED (R333, R352,
log 50). -/
def oddRecord (s : State) (st : StepRec) (c : Nat) : Nat :=
  (((tget [] s.err.cper st.part).filter (fun r => recTriggers st r && r.unitType == uCore &&
    (r.unitId.toNat == c || (r.code == 0x0107 && r.unitId.toNat / 16 == c / 16)))).map (·.seq)).foldl (fun _ n => n) 0

/-- Raise E_PROOF_MISMATCH naming step, share and odd core, and quarantine the core (R350, R352); an error that is only queued is not
acted on (R344). -/
def oddCore (s : State) (st : StepRec) (k c : Nat) : State :=
  let x := raise s { code := 0x0601, sev := sevContained, part := some st.part, unitType := uHub, cmd := some (st.ring, st.seq), inj := st.runInj,
                     related := oddRecord s st c, detail := proofDetail st.seq (shareName st k).1 (shareName st k).2 c (epOf s st.part) }
  if x.act then quarantine (dropLatch x.st x.seq) c x.seq else x.st

/-- The core that ran share `k` in rotated run `n` (R348): the next unfenced core in the same order. -/
def rotatedCore (s : State) (p n c : Nat) : Nat :=
  let x := getPart s p
  let t := tileCount x
  let at_ := fun k => if 1 < t then (x.tileBase.toNat + (c / 16 - x.tileBase.toNat + k) % t) * 16 + c % 16 else c / 16 * 16 + (c % 16 + k) % 16
  ((List.range 16).map (fun i => at_ (n + i))).find? (fun k => !isFenced s k) |>.getD (at_ n)

/-- Take the majority run's pages and RESULT in place of the original's (R350). -/
def adoptRun (s : State) (st : StepRec) (run : RunDigest) : State :=
  let s := match st.sess.bind (fun i => (sessGeo s i).map (fun g => (i, g))) with
    | none => s
    | some (i, g) => run.pages.foldl (fun s pg => match walk s (getSess s i) g pg.layer pg.group pg.page with
        | none => s
        | some e =>
          let s := writeFrame s e.pfn 0 pg.bytes
          if e.sum = 0 then s else writeBlk s e.sum 0 pg.summary) s
  updStep s st.ring st.seq (fun y => { y with result := run.result, token := BitVec.ofNat 32 (bits run.result 127 96) })

/-- Whether two runs agree: at step level for a Fixed step, at share level otherwise (R349). -/
def sameRun (fixed : Bool) (a b : RunDigest) : Bool := if fixed then a.step == b.step else a.shares == b.shares

/-- A step that is proven goes on to its release (R349). -/
def provenStep (s : State) (r q : Nat) (fixed : Bool) : State :=
  let s := updStep s r q (fun y => { y with proven := true, phase := if fixed then .exposing else y.phase })
  if fixed then s else releaseStep s r q

/-- A Fixed step that resumes on its partner is held, and its session is given up to the partner (R351, R388, log 36). -/
def yieldStep (s : State) (st : StepRec) : State :=
  let s := updStep s st.ring st.seq (fun y => { y with phase := .held })
  match st.sess with
  | some i => (let x := getSess s i; setSess s i { x with yield_ := x.pstate == 1 })
  | none => s

/-- All three runs differ (R351): the hub control complex raises E_PROOF_MISMATCH against every tile that ran a share, which is reset, or
escalates where it is under reset already (R345). A Fixed step is held for its partner. -/
def noMajority (s : State) (st : StepRec) (c : Cmd) : State :=
  let go := (stepTiles st).foldl (fun (acc : State × Option Nat) t =>
    let covered := (acc.1.dev.recovery.find? (fun r => within (.tile t) r.dom)).map (·.dom)
    let x := raise acc.1 { code := 0x0601, sev := sevDomain, part := some st.part, unitType := uHub, syn := 0x0022, inj := st.runInj,
                           cmd := some (st.ring, st.seq), detail := proofDetail st.seq 0 0 (16 * t) (epOf acc.1 st.part) } (on := some (.tile t))
    let s := dropLatch x.st x.seq
    let s := if !x.act then x.st else match covered with
      | some e => doubleFault s e
      | none => freezeTile s t x.seq
    (s, some (acc.2.getD x.seq))) (s, none)
  if c.cls == clsFixed then yieldStep go.1 st
  else complete (noteErr go.1 st.ring st.seq (go.2.getD 0)) st.ring st.seq { status := stFault }

/-- Tell the partner that its replay of a step was the odd run (R350): it keeps the exposure and names its odd core itself. -/
def partnerOdd (s : State) (st : StepRec) : State :=
  match st.sess with
  | none => s
  | some i => toPartner s i (.exp (getSess s i).partnerHandle (.odd (BitVec.ofNat 64 st.seq)))

/-- The decision of the third run (R350, R351): original `o`, second `a` (the partner's replay where `far`), third `b`. -/
def decideRuns (s : State) (st : StepRec) (c : Cmd) (o a b : RunDigest) (second third : Nat → Nat) (far : Bool) : State :=
  let fixed := c.cls == clsFixed
  let ran := fun (k : Nat) => (nth (0, 0) st.shares k).2
  if sameRun fixed a b then
    let k := firstShare o b
    provenStep (adoptRun (oddCore s st k (ran k)) st b) st.ring st.seq fixed
  else if sameRun fixed o b then
    let k := firstShare a o
    provenStep (if far then partnerOdd s st else oddCore s st k (second (ran k))) st.ring st.seq fixed
  else if sameRun fixed o a then
    let k := firstShare b o
    provenStep (oddCore s st k (third (ran k))) st.ring st.seq fixed
  else noMajority s st c

/-- Injection kind 0x6 corrupts one share digest of the next Proof (R357). -/
def corruptShare (s : State) (st : StepRec) (run : RunDigest) : State × RunDigest :=
  match partInjection s 6 st.part with
  | none => (s, run)
  | some i => (updStep (dropInjection s i) st.ring st.seq (fun y => { y with runInj := true }),
      match run.shares with | x :: t => { run with shares := (x ^^^ 1) :: t } | [] => run)

/-- The replay of a noticed step at the partner ends (R349): its step digest goes to the primary, and the run is kept. -/
def shadowReplay (s : State) (r q : Nat) (run : RunDigest) : State :=
  match s.sess.find? (fun e => e.2.shadow && e.2.st == .open_ && e.2.notices.any (fun n => n.ring == r && n.seq == q)) with
  | none => s
  | some e => toPartner (setSess s e.1 { e.2 with replay := some (q, run) }) e.1 (.stepDigest e.2.partnerHandle q run.step)

/-- The core that ran share `k` of a replay at the partner: the unfenced cores of the partition in order, since the spec does not say
which cores a partner's replay runs on (DESIGN CHOICE, log 50). -/
def shadowCore (s : State) (p k : Nat) : Nat :=
  let cs := liveCores s (getPart s p)
  nth 0 cs (k % Nat.max 1 cs.length)

/-- Rotated run 1 of a partner whose replay was the odd run (R350): the first share that differs names its odd core. -/
def shadowOdd (s : State) (i q : Nat) (first run : RunDigest) : State :=
  let x := getSess s i
  let p := x.part.toNat
  let k := firstShare first run
  let c := shadowCore s p k
  let s := setSess s i { x with replay := none, oddSeq := none }
  let r := raise s { code := 0x0601, sev := sevContained, part := some p, unitType := uHub, detail := proofDetail q 0 k c (epOf s p) }
  if r.act then quarantine (dropLatch r.st r.seq) c r.seq else r.st

/-- A replay that ends at a partner: its own rotated run where its first replay was odd, else the replay of a noticed step. -/
def shadowRun (s : State) (r q : Nat) (run : RunDigest) : State :=
  match s.sess.find? (fun e => e.2.shadow && e.2.oddSeq == some q && (e.2.replay.map (·.1)) == some q) with
  | some e => match e.2.replay with
    | some x => shadowOdd s e.1 q x.2 run
    | none => s
  | none => shadowReplay s r q run

/-- Compare a rotated run that has ended (R349, R350). -/
def judgeRun (s : State) (st : StepRec) (c : Cmd) (run : RunDigest) : State :=
  let fixed := c.cls == clsFixed
  let o := originalRun s st
  let (s, run) := corruptShare s st run
  let st := { st with runInj := match findStep s st.ring st.seq with | some y => y.runInj | none => false }
  let one := rotatedCore s st.part 1
  let two := rotatedCore s st.part 2
  match st.partnerDig, st.runs with
  | some d, _ =>
    -- a Fixed step: the partner's replay differed, and this is the third run
    decideRuns s st c o { run with step := d, shares := if d = run.step then run.shares else [] } run id one true
  | none, [] =>
    if sameRun false o run || (fixed && sameRun true o run) then provenStep s st.ring st.seq fixed
    else updStep s st.ring st.seq (fun y => { y with runs := [run] })
  | none, a :: _ => decideRuns s st c o a run one two false

/-- PROOF_REPLAY_DONE (R347 to R350): the rotated run under way in a partition, or a partner's replay, ends and is compared; its scratch
frames are given back, and the next one begins. -/
def execProofReplayDone (r q : Nat) (run : RunDigest) (s : State) : Host.Outcome State Fault Refusal :=
  match findStep s r q, findCmd s r q with
  | some st, some c =>
    let s := startReplay s st.part
    let st := (findStep s r q).getD st
    if replaying s st then .next (startReplay (judgeRun (freeScratch s r q) { st with scratch := [] } c run) st.part) else .next s
  | _, _ => .next (shadowRun s r q run)

end Sys2Proof.Machine
end

