-- ==== Sys2Proof/Machine/Launch.lean ====
section
/-! DEFINITION. Launches (R89, R90, R92, R98, R179, R180, R213): starting a kernel on its cores, the gather window, the
layers of a serving launch with their collectives and Separator stages, KERNEL_RUN (R280), and the rows
GATHER_WINDOW_CLOSE, KERNEL_RUN and LAUNCH_END. -/

namespace Sys2Proof.Machine

open Sys2Proof

/-! ## Starting a core (R89, R90, R98) -/

/-- Whether a slot survives a launch (R90). -/
def keepsSlot (e : SlotEntry) (p : Nat) (pset : W16) : Bool :=
  e.retain && e.keeper == some (p, pset) && (e.st == .empty || e.st == .full)

/-- A pad at a launch (R89, R90): slots not kept are undefined and the rows they leave are not valid. -/
def launchPad (x : Pad) (p : Nat) (pset : W16) : Pad :=
  let slots := x.slots.map (fun e => if keepsSlot e.2 p pset then e else (e.1, { e.2 with rowCount := 0, st := .empty, owner := 7 }))
  let kept := (x.slots.filter (fun e => keepsSlot e.2 p pset)).map (·.2)
  { x with slots := slots, valid := x.valid.filter (fun k => kept.any (fun e => covers e k)) }

/-- A core at the first instruction of a kernel (R89, R98). -/
def launchCore (k : Core) (ctx : CoreCtx) (image : List W128) (args : Tbl W64) : Core :=
  { run := .running, ctx := some ctx, gpr := args, ibuf := image, maps := [],
    padW := launchPad k.padW ctx.part ctx.pset, padA := launchPad k.padA ctx.part ctx.pset, padP := launchPad k.padP ctx.part ctx.pset,
    tag := k.tag, lastPart := k.lastPart, errRec := k.errRec }

/-- Whether a core can take a launch: idle, unfenced and not under reset. -/
def coreFree (s : State) (c : Nat) : Bool := (getCore s c).run == .idle && !isFenced s c && !underReset s (.core c)

/-- Whether a partition can launch work: READY, awake, its cores powered (R422). -/
def canLaunch (s : State) (p : Nat) : Bool :=
  let x := getPart s p
  x.st == .ready && !x.waking && decide (x.pstate ≤ 1) && !underReset s .hub

/-! ## Step tags (R207) -/

/-- Whether an earlier use of a tag still waits for a return (R207). -/
def tagHeld (s : State) (ji : Nat) (t : W16) : Bool := s.sep.batches.any (fun b => b.job == ji && b.tag == t)

/-- Whether the next tag of a launch's job is free (R207). -/
def tagFree (s : State) (l : Launch) : Bool :=
  match l.job, l.tag with
  | some j, none => !tagHeld s j (getJob s j).stepTag
  | _, _ => true

/-- A tag is issued to a launch (R198, R207): what an earlier use has left of its shape words is gone. -/
def issueTag (s : State) (l : Launch) (job : W32) (t : W16) : State × Launch :=
  let x := s.sep
  ({ s with sep := { x with issued := x.issued + 1, shapes := x.shapes.filter (fun w => !(w.part == l.part && w.job == job && w.tag == t) ||
      x.dest.any (fun d => d.part == w.part && d.job == w.job && d.tag == w.tag)) } },
   { l with tag := some t, issue := x.issued })

/-- Give a launch its step tag (R207); outside a job the launch number serves (log 20). -/
def giveTag (s : State) (l : Launch) : State × Launch :=
  match l.tag, l.job with
  | some _, _ => (s, l)
  | none, some j =>
    let x := getJob s j
    issueTag (setJob s j { x with stepTag := x.stepTag + 1, openTags := x.openTags ++ [x.stepTag],
                                  retired := x.retired.filter (· != x.stepTag), steps := x.steps + 1 }) l x.jobId x.stepTag
  | none, none => issueTag s l 0 (BitVec.ofNat 16 l.id)

/-! ## Starting waiting launches -/

/-- Change launch `id`. -/
def updLaunch (s : State) (id : Nat) (f : Launch → Launch) : State := { s with launches := updFirst (fun l => l.id == id) f s.launches }

/-- The hidden rows of a step before the first layer. -/
def firstHidden (x : PlateSet) (st : StepRec) : List (List W32) :=
  st.tokens.zipIdx.map (fun e => Config.embed (setDigests x) e.1 (st.pe - st.tokens.length + e.2))

/-- Note that the steps of a launch run on its cores (R346, R347). -/
def markSteps (s : State) (l : Launch) : State :=
  l.steps.foldl (fun s k => updStep s k.1 k.2 (fun st =>
    { st with phase := .launched, firstAt := if st.shares.isEmpty then s.time.ftime else st.firstAt,
              shares := st.shares ++ l.cores.map (fun c => (l.num, c)), armed := proofArmed s l.part l.job })) s

/-- The shares of an expert launch are shares of the steps of this partition under its tag (R346, R357's worked example). -/
def markExperts (s : State) (l : Launch) (e : ExpertRun) : State :=
  (s.launches.filter (fun k => k.part == l.part && k.tag == some e.tag && k.expert.isNone &&
      (match k.job with | some j => (getJob s j).jobId == e.job | none => e.job == 0))).foldl (fun s k =>
    k.steps.foldl (fun s q => updStep s q.1 q.2 (fun st => { st with shares := st.shares ++ l.cores.map (fun c => (l.num, c)) })) s) s

/-- A launch of commands of these rings starts or ends: their consumer counters move (R358). -/
def touchRings (s : State) (steps : List (Nat × Nat)) : State :=
  steps.foldl (fun s k => setRing s k.1 { getRing s k.1 with moved := s.time.ftime }) s

/-- Give the kernel that a launch starts its launch number: that of the launch itself for the first, a new one for each later layer
(R98). -/
def numberLaunch (s : State) (l : Launch) : State × Launch :=
  if l.layer = 0 ∨ l.expert.isSome then (s, { l with num := l.id })
  else ({ s with dev := { s.dev with launchNo := s.dev.launchNo + 1 } }, { l with num := s.dev.launchNo })

/-- Start a launch that waits (R89, R98): its cores run for it, and the kernel is a step of its partition (R153). -/
def beginLaunch (s : State) (l : Launch) : State :=
  let (s, l) := numberLaunch s l
  let (s, l') := if l.expert.isSome then (s, l) else giveTag s l
  let s := startStep (updLaunch s l.id (fun _ => { l' with started := true })) l.part (launchStep l.num)
  let pin := launchSet s l
  let k := (l.steps.head?).getD (0, 0)
  let s := l.cores.foldl (fun s c => setCore s c (launchCore (getCore s c) ⟨l.id, l.part, 0, pin, k.1, k.2⟩ [] [])) s
  touchRings (match l'.expert with | some e => markExperts s l' e | none => markSteps s l') l.steps

/-- Whether a waiting launch can start (R305, R207). -/
def launchReady (s : State) (l : Launch) : Bool :=
  canLaunch s l.part && l.cores.all (coreFree s) && !reloading s l.part (launchSet s l) && tagFree s l && !l.cores.isEmpty

/-- Start waiting launches in order; a launch that waits holds its cores for itself (R180). -/
def startGo (s : State) (held : List Nat) : List Launch → State
  | [] => s
  | l :: rest =>
    if l.started || l.stage != .run then startGo s held rest
    else if launchReady s l && !l.cores.any (fun c => held.contains c) then startGo (beginLaunch s l) held rest
    else startGo s (held ++ l.cores) rest

/-- Start every launch that can start. -/
def startLaunches (s : State) : State := startGo s [] s.launches

/-- Cores whose serving kernel has ended become idle (R103). -/
def idleCores (s : State) (l : Launch) : State :=
  l.cores.foldl (fun s c =>
    let k := getCore s c
    if k.run == .running && (k.ctx.map (·.launch)) == some l.id then setCore s c { k with run := .idle, ctx := none, lastPart := some l.part } else s) s

/-! ## The gather window (R179, R180) -/

/-- Bucket of a step (R179). -/
def bucketOf (n : Nat) : Nat := if n ≤ 1 then 0 else clog2 n

/-- Whether a Timed step forces the window to close (R179, R290). -/
def timedForces (s : State) (st : StepRec) : Bool :=
  match findCmd s st.ring st.seq with
  | some c => c.timed && decide (bits c.desc 63 0 ≤ s.time.ftime + ceilDiv (c.bound * 105) (100 * tileCount (getPart s st.part)))
  | none => false

/-- The steps of a partition in its gather window. -/
def gathered (s : State) (p : Nat) : List StepRec := s.steps.filter (fun st => st.part == p && st.phase == .gather && !st.kernel)

/-- Whether the window of a partition closes now (R179). -/
def gatherDue (s : State) (p : Nat) : Bool :=
  let x := getPart s p
  let ss := gathered s p
  !ss.isEmpty && (x.gatherAt == 0 || decide (x.gatherAt - 1 ≤ s.time.ftime) || ss.any (timedForces s))

/-- Ring sequence order. -/
def ringOrder (a b : Nat × Nat) : Bool := decide (a.1 < b.1) || (a.1 == b.1 && decide (a.2 ≤ b.2))

/-- Insert in ring sequence order. -/
def insertOrder (x : Nat × Nat) : List (Nat × Nat) → List (Nat × Nat)
  | [] => [x]
  | y :: t => if ringOrder x y then x :: y :: t else y :: insertOrder x t

/-- The key of a step's launch: bucket, PREFILL or DECODE, pinned set (log 26). -/
def launchKey (s : State) (st : StepRec) : Nat × Bool × W16 :=
  (bucketOf st.npages, st.prefill, ((findCmd s st.ring st.seq).map Cmd.set).getD 0)

/-- The launches of a window: buckets in descending order, at most 4,096 steps each (R179, R180). -/
def windowLaunches (s : State) (p : Nat) : List (List (Nat × Nat)) :=
  let ss := gathered s p
  let top := (ss.map (fun st => bucketOf st.npages)).foldl Nat.max 0
  let keys := (ss.map (launchKey s)).eraseDups
  (List.range (top + 1)).reverse.flatMap (fun b => (keys.filter (fun k => k.1 == b)).flatMap (fun k =>
    chunks 4096 ((ss.filter (fun st => launchKey s st == k)).foldl (fun acc st => insertOrder (st.ring, st.seq) acc) [])))

/-- Add a serving launch. It takes every unfenced core of its partition, so that the launches of a window run one after another: the
spec names no cores for it (DESIGN CHOICE, log 82). -/
def addLaunch (s : State) (p : Nat) (steps : List (Nat × Nat)) : State :=
  let job := (steps.head?).bind (fun k => (findStep s k.1 k.2).bind (·.job))
  { s with
    launches := s.launches ++ [{ id := s.dev.launchNo, part := p, cores := liveCores s (getPart s p), steps := steps, kernel := false, job := job }]
    dev := { s.dev with launchNo := s.dev.launchNo + 1 } }

/-- Put the first hidden rows into the steps of the window. -/
def embedSteps (s : State) (p : Nat) : State :=
  (gathered s p).foldl (fun s st => match (findCmd s st.ring st.seq).bind (fun c => findSet s p c.set) with
    | none => s
    | some x => updStep s st.ring st.seq (fun y => { y with hidden := firstHidden x y, phase := .launched, changed := [], skipped := 0, moved := 0, dropped := 0 })) s

/-- Close the window of a partition (R179). -/
def closeGather (s : State) (p : Nat) : State :=
  let groups := windowLaunches s p
  let s := setPart s p { getPart s p with gatherAt := 0 }
  startLaunches (groups.foldl (fun s g => addLaunch s p g) (embedSteps s p))

/-- GATHER_WINDOW_CLOSE (R179). -/
def execGatherWindowClose (p : Nat) (s : State) : Host.Outcome State Fault Refusal :=
  if 8 ≤ p then .fault .noSuchUnit else if gatherDue s p then .next (closeGather s p) else .next s

/-! ## Layers of a serving launch -/

/-- A step leaves its launch. -/
def leaveLaunch (s : State) (r q : Nat) : State := dropFromLaunches s r q

/-- A Fixed step goes back for its replay; one whose replay has failed too resumes on its partner, where it has one (R286, log 91). -/
def retryFixed (s : State) (st : StepRec) : State :=
  let mate : Bool := match st.sess with | some i => paired (getSess s i) | none => false
  if st.replays != 0 && mate then yieldStep s st else updStep s st.ring st.seq replayed

/-- A step of a launch fails with record `n` (R342): FAULT, or a Fixed step goes back for its replay. -/
def failStep (s : State) (r q n : Nat) : State :=
  match findStep s r q with
  | none => s
  | some st =>
    let s := leaveLaunch s r q
    match st.job.filter (fun j => (getJob s j).st == .active) with
    | some j => stopBath s j 0x01 n
    | none =>
      match findCmd s r q with
      | none => s
      | some c => if c.cls == clsFixed then retryFixed s st else complete (noteErr s r q n) r q { status := stFault }

/-- Abandon the tag of a launch that no step needs any more (R208). -/
def abandonTag (s : State) (l : Launch) : State :=
  match l.job, l.tag with
  | some j, some t => retireTag s j t
  | none, some t =>
    destRetire (retireBatches s 64 t) l.part 0 t
  | _, none => s

/-- The tag of a launch whose steps have all ended is no longer open. -/
def closeTag (s : State) (l : Launch) : State :=
  match l.job, l.tag with
  | some j, some t => let x := getJob s j; setJob s j { x with openTags := x.openTags.filter (· != t) }
  | _, _ => s

/-- Remove a launch and start those that wait for its cores. -/
def dropLaunch (s : State) (l : Launch) : State :=
  startLaunches (removeLaunch (idleCores s l) l)

/-- A launch whose work has failed with record `n`: its steps end (R342), and it goes. -/
def failLaunch (s : State) (l : Launch) (n : Nat) : State :=
  let s := l.steps.foldl (fun s k => failStep s k.1 k.2 n) s
  dropLaunch (abandonTag s l) l

/-- Steps stopped by a CANCEL complete CANCELLED at the layer boundary (R282). -/
def cancelSteps (s : State) (l : Launch) : State :=
  l.steps.foldl (fun s k => match findCmd s k.1 k.2 with
    | some c => if c.cancel then finish (leaveLaunch s k.1 k.2) k.1 k.2 stCancelled else s
    | none => s) s

/-- Launch `id` as it stands. -/
def findLaunch (s : State) (id : Nat) : Option Launch := s.launches.find? (fun l => l.id == id)

/-- The finished launch: its steps end in ring sequence order (R180). -/
def finishServing (s : State) (l : Launch) (x : PlateSet) : State :=
  let s := closeTag s l
  let order := l.steps.foldl (fun acc k => insertOrder k acc) []
  let s := order.foldl (fun s k => match findStep s k.1 k.2, findCmd s k.1 k.2 with
    | some st, some c =>
      let (s, tok) := stepToken s c x st
      let s := updStep s k.1 k.2 (fun y => { y with token := tok, result := stepResult y tok })
      stepDone s k.1 k.2
    | _, _ => s) s
  dropLaunch s l

/-- Go to the next layer at the layer boundary, or finish (R213); a partition in FAULT launches nothing more (R227). -/
def nextLayer (s : State) (id : Nat) : State :=
  match findLaunch s id with
  | none => s
  | some l0 =>
    let s := cancelSteps s l0
    match findLaunch s id with
    | none => s
    | some l =>
      if l.steps.isEmpty then dropLaunch (abandonTag s l) l
      else match findSet s l.part (launchSet s l) with
        | none => dropLaunch s l
        | some x =>
          if l.layer + 1 < x.attn.length then
            let s := updLaunch (idleCores s l) id (fun l => { l with layer := l.layer + 1, started := false, ended := [], stage := .run, outs := [] })
            if (getPart s l.part).st == .fault then endAllUnlaunched s l.part (getPart s l.part).faultRec else startLaunches s
          else finishServing s l x

/-- The rows of a launch: owner and hidden row, step by step. -/
def launchRows (s : State) (l : Launch) : List ((Nat × Nat) × List W32) :=
  l.steps.flatMap (fun k => match findStep s k.1 k.2 with | some st => st.hidden.map (fun h => (k, h)) | none => [])

/-- Put new hidden rows, in the order of `launchRows`. -/
def putRows' (s : State) (rows : List ((Nat × Nat) × List W32)) (steps : List (Nat × Nat)) : State :=
  steps.foldl (fun s k => updStep s k.1 k.2 (fun st => { st with hidden := (rows.filter (fun r => r.1 == k)).map (·.2) })) s

/-- Tokens of the rows of a launch with the capacity their command has in force (R193). -/
def rowTokens (s : State) (l : Launch) (y : Route) : List (W32 × Nat) :=
  l.steps.flatMap (fun k => match findStep s k.1 k.2 with
    | some st => st.tokens.map (fun t => (t, if st.cap = 0 then y.cap else st.cap))
    | none => [])

/-- A batch of a layer's Separator stage: the rows that wait for it, at most 65,535 of them (R191, R192, log 102). -/
def stageRound (s : State) (l : Launch) (x : PlateSet) (y : Route) : State :=
  let (s, bad) := tableRead s (mapErrors s x y)
  match bad with
  | some n => (match findLaunch s l.id with | some l => failLaunch s l n | none => s)
  | none =>
    let now := l.todo.take 65535
    let s := updLaunch s l.id (fun l => { l with stage := .separate, started := true, todo := l.todo.drop 65535 })
    startLaunches (startBatch s (l.job.getD 64) l.part l.id (l.tag.getD 0) x y l.layer 0 (now.map (·.2.1)) (now.map (·.2.2)) (now.map (·.1)))

/-- After a layer's dense part: its Separator stage, or the next layer (R213). -/
def afterDense (s : State) (id : Nat) : State :=
  match findLaunch s id with
  | none => s
  | some l => match findSet s l.part (launchSet s l) with
    | none => s
    | some x => match layerRoute x l.layer with
      | none => nextLayer s id
      | some y =>
        let rows := launchRows s l
        let n := rowSize y.ifmt y.dim
        let todo := (rows.zip (rowTokens s l y)).map (fun e =>
          (e.1.1, e.2, (List.range n).map (Config.dispatchRow (setDigests x) l.layer e.1.2)))
        stageRound (updLaunch (idleCores s l) id (fun l => { l with todo := todo, outs := [] })) { l with todo := todo, outs := [] } x y

/-! ## Collectives of a layer (R181, R182, R328) -/

/-! ## The end of a layer's kernel -/

/-- A step whose pages could not be read fails with its record (R109, R162, R232). -/
def attendFails (s : State) (c : Cmd) (e : WalkErr) : State :=
  let s := e.ces.foldl raise' s
  let x := match e with
    | .retired _ => keyRetired s c
    | .line _ r f => let y := raiseCmdDone s c r; (frameBad y.1 f, y.2)
    | _ => raiseCmd s c (synRec 0x0005 (some c.part) uHub 0 0)
  failStep x.1 c.ring c.seq x.2

/-- The attention outputs of the rows of a launch, step by step, none while a page waits for a frame (R158); a step whose pages cannot be
read fails. The page writes count to the launch's first share: the spec does not say which core writes which record (DESIGN CHOICE,
log 92). -/
def attendSteps (s : State) (l : Launch) (x : PlateSet) (g : Geo) (acc : List ((Nat × Nat) × List W32)) :
    List (Nat × Nat) → Option (State × List ((Nat × Nat) × List W32))
  | [] => some (s, acc)
  | k :: rest => match findStep s k.1 k.2, findCmd s k.1 k.2 with
    | some st, some c =>
      let tau := if !st.prefill && bit c.desc 223 then (tauOf c).map (fun t => fmul t l2e) else none
      match layerWork s x g st (st.sess.getD 0) l.layer tau with
      | .hold => none
      | .ok s (att, ch, n, ws) =>
        let s := updStep s k.1 k.2 (fun y => { y with changed := y.changed ++ ch.filter (fun e => !y.changed.contains e), skipped := y.skipped + n })
        let share := ((findStep s k.1 k.2).bind (fun y => y.shares.findIdx? (fun x => x.1 == l.num))).getD 0
        let s := ws.foldl (fun s w => noteShare s k.1 k.2 share w.1 w.2) s
        attendSteps s l x g (acc ++ att.map (fun a => (k, a))) rest
      | .bad s e => attendSteps (attendFails s c e) l x g acc rest
    | _, _ => attendSteps s l x g acc rest

/-- The hidden rows after the projection of a layer has been formed (R181). -/
def denseRows (s : State) (l : Launch) (x : PlateSet) (ys : List (List W32)) : State :=
  let rows := launchRows s l
  let out := (rows.zip ys).map (fun e => (e.1.1, Config.layerOut (setDigests x) l.layer e.1.2 e.2))
  putRows' s out l.steps

/-- Cut a list into rows of the lengths that a layer's projection gives. -/
def cutRows {α : Type} : List Nat → List α → List (List α)
  | [], _ => []
  | n :: ns, v => v.take n :: cutRows ns (v.drop n)

/-- A launch whose reduction is complete goes on with its dense part (R181, R182, R330). -/
def sumDone (s : State) (l : Launch) (x : PlateSet) (c : Coll) (es : List Nat) : State :=
  let s := logInputs s l.steps [.coll l.layer es]
  let ys := elemRows c.dtype c.anchors es
  let n := (launchRows s l).length
  let s := updLaunch s l.id (fun l => { l with coll := none })
  afterDense (denseRows s l x (cutRows (List.replicate n (ys.length / Nat.max n 1)) ys)) l.id

/-- The activation scales of every member are here (R182): each row's anchors over the whole K, at most 65,536, and the reduction of the
windows. A longer K has no exact mode, and the steps end as R183 gives (log 93). -/
def scalesDone (s : State) (l : Launch) (x : PlateSet) (j : Nat) (segs : List (List Nat)) : State :=
  let s := logInputs s l.steps (segs.map (.coll l.layer))
  let n := Nat.max 1 l.att.length
  let rows := l.att.zipIdx.map (fun e => (e.1, rowScales segs n e.2))
  if rows.any (fun r => decide (65536 < 32 * r.2.length)) then
    let s := l.steps.foldl (fun s k => match findCmd s k.1 k.2 with
      | some c => faultSyn (leaveLaunch s k.1 k.2) c 0x0024
      | none => s) s
    match findLaunch s l.id with
    | some l => dropLaunch (abandonTag s l) l
    | none => s
  else
    let dig := setDigests x
    let (d, as_) := exactElems dig l.layer (rows.map (fun r => (r.1, scanAnchors x.setId l.layer (Config.project dig l.layer r.1).length r.2)))
    let (s, q) := startColl s j 1 1 d.length d as_
    updLaunch s l.id (fun l => { l with stage := .reduce, coll := some q, att := [] })

/-- A launch whose collective is complete goes on (R181, R182, R330). -/
def collDone (s : State) (id : Nat) : State :=
  match findLaunch s id with
  | none => s
  | some l => match l.job, l.coll, findSet s l.part (launchSet s l) with
    | some j, some q, some x => match s.fab.colls.find? (isColl j (BitVec.ofNat 16 q)) with
      | none => s
      | some c =>
        let drop := fun (s : State) => { s with fab := { s.fab with colls := s.fab.colls.filter (fun c => !isColl j (BitVec.ofNat 16 q) c) } }
        match l.stage with
        | .scales => match gathered3 s c with
          | some segs => scalesDone (drop s) l x j segs
          | none => s
        | .reduce => match collResult s c with
          | some es => sumDone (drop s) l x c es
          | none => s
        | _ => s
    | _, _, _ => s

/-- Carry a launch's collectives on as far as what is here allows: the gather of scales and then the reduction. -/
def reduced (s : State) (id : Nat) : State := collDone (collDone s id) id

/-- A layer's attention is done: its projection is formed, over the job's members where its heads are split (R181, R182). -/
def projectLayer (s : State) (l : Launch) (x : PlateSet) (rows : List (List W32)) : State :=
  let dig := setDigests x
  let alone := afterDense (denseRows s l x (rows.map (Config.project dig l.layer))) l.id
  match l.job with
  | none => alone
  | some j =>
    if !(Config.headsSplit dig l.layer && decide (1 < (getJob s j).members.length)) then alone
    else if (getJob s j).cmode == 1 then
      let m := scaleElems dig l.layer rows
      let (s, q) := startColl s j 3 2 m.length m []
      reduced (updLaunch s l.id (fun l => { l with stage := .scales, coll := some q, started := true, att := rows })) l.id
    else
      let d := partialElems dig l.layer rows
      let (s, q) := startColl s j 1 0 d.length d []
      reduced (updLaunch s l.id (fun l => { l with stage := .reduce, coll := some q, started := true })) l.id

/-- A layer's kernel ends on every core (R213): a running step no longer (R153). None while a page waits for a frame (R158). -/
def layerEnds (s : State) (l : Launch) (x : PlateSet) (g : Geo) : Option State :=
  (attendSteps (idleCores s l) l x g [] l.steps).map (fun a =>
    let s := endStep a.1 l.part (launchStep l.num)
    match findLaunch s l.id with
    | none => s
    | some l => projectLayer s l x (a.2.map (·.2)))

/-! ## KERNEL_RUN (R280) -/

/-- A field of the launch block: `n` bytes at offset `o`. -/
def blkField (c : Cmd) (o n : Nat) : Nat := leNat ((c.launchBlk.drop o).take n)

/-- Fields of the launch block that R280 forbids, with the bit offset of their most significant bit. -/
def blockBad (c : Cmd) : Option Nat :=
  let f := blkField c
  let shapes := (List.range 4).flatMap (fun i =>
    let w := f (0xC0 + 16 * i) 16
    let o := (0xC0 + 16 * i) * 8
    let use := nbits w 63 62
    [(use != 0 && nbits w 65 64 != 0, o + 127), ((use == 1 && nbits w 61 58 != 0) || (2 ≤ use && nbits w 61 58 == 0), o + 61), (nbits w 33 0 != 0, o + 33)])
  worst (shapes ++ [(nbits (f 0x9E 2) 15 12 != 0, 0x9E * 8 + 15), (c.cls != clsTimed && f 0x98 4 != 0, 0x98 * 8 + 31),
    (nbits (f 0x0A 2) 15 1 != 0, 0x0A * 8 + 15), (f 8 2 == 0 || decide (4096 < f 8 2), 8 * 8 + 15), (f 0 8 % 16 != 0, 63)])

/-- The cores a CORES mask selects (R280). -/
def kernelCores (s : State) (c : Cmd) : List Nat :=
  let m := blkField c 0x10 16
  let p := getPart s c.part
  ((List.range 128).filter (fun i => m.testBit i)).map (fun i => p.tileBase.toNat * 16 + i)

/-- Whether the CORES mask is refused (R280). -/
def coresBad (s : State) (c : Cmd) : Bool :=
  let m := blkField c 0x10 16
  m == 0 || decide (2 ^ (16 * tileCount (getPart s c.part)) ≤ m) || (kernelCores s c).any (fun k => isFenced s k)

/-- What reading the shape words of a launch gives (R215), a failed read of partition memory among it. -/
inductive Shapes where
  | syn (n addr : Nat)
  | mem (m : MemRead) (addr : Nat)
  | zero (ces : List Rec)
  | ok (args : Tbl W64) (ces : List Rec)
  deriving DecidableEq, Repr

/-- Whether a read of partition memory has failed: outside, under a retired key, or uncorrectable (R229, R232, R343). -/
def MemRead.bad (m : MemRead) : Bool := m.err.isSome || m.ue.isSome

/-- Raise what a failed read of partition memory for a command means: its record (R229, R232, R343). -/
def readFails (s : State) (c : Cmd) (m : MemRead) (a : Nat) : State × Nat :=
  let s := m.ces.foldl raise' s
  match m.err, m.ue with
  | some (.retired _), _ => raiseCmdDone s c { code := 0x0802, sev := sevContained, part := some c.part, unitType := uFar }
  | none, some (r, f) => let x := raiseCmdDone s c r; (frameBad x.1 f, x.2)
  | _, _ => raiseCmd s c (synRec 0x0002 (some c.part) uHub 0 a)

/-- One shape reference of a launch block (R214, R215) over what the ones before it gave. -/
def readShape (s : State) (c : Cmd) (acc : Shapes) (i : Nat) : Shapes :=
  let w := blkField c (0xC0 + 16 * i) 16
  let use := nbits w 63 62
  let a := nbits w 127 64
  let go := fun (args : Tbl W64) (ces : List Rec) (zero : Bool) =>
    let m := readPart s c.part c.set a 4
    let v := leNat m.bytes
    if m.bad then .mem m a
    else if nbits w 57 34 ≠ 0 ∧ nbits w 57 34 < v then .syn 0x000B a
    else if zero || (use != 2 && v == 0) then .zero (ces ++ m.ces)
    else .ok (if 2 ≤ use then tset args (nbits w 61 58) (BitVec.ofNat 64 v) else args) (ces ++ m.ces)
  match acc with
  | .ok args ces => if use = 0 then acc else go args ces false
  | .zero ces => if use = 0 then acc else go [] ces true
  | x => x

/-- The shape words of a launch block (R214, R215) over its argument words. -/
def readShapes (s : State) (c : Cmd) (args : Tbl W64) : Shapes := (List.range 4).foldl (readShape s c) (.ok args [])

/-- The kernel image of a launch: its words and corrected lines, or why it cannot be taken (R92, R229, R280). -/
def readKernel (s : State) (c : Cmd) : MemRead := readPart s c.part c.set (blkField c 0 8) (16 * blkField c 8 2)

/-- The words of an image. -/
def imageWords (d : List Byte) : List W128 := (chunks 16 d).map (fun b => BitVec.ofNat 128 (leNat b))

/-- The argument words of a launch (R98). -/
def kernelArgs (c : Cmd) : Tbl W64 :=
  ((List.range 15).map (fun i => (i + 1, BitVec.ofNat 64 (blkField c (0x20 + 8 * i) 8)))).filter (fun e => e.2 != 0)

/-- Start a KERNEL_RUN on its cores (R89, R92, R98, R280). -/
def startKernel (s : State) (c : Cmd) (h : W32) (sess : Option Nat) (ws : List W128) (args : Tbl W64) : State :=
  let s := startStep (startCmd s c.ring c.seq) c.part (launchStep s.dev.launchNo)
  let cores := kernelCores s c
  let job := activeJob s c.part
  let l : Launch := { id := s.dev.launchNo, part := c.part, cores := cores, steps := [(c.ring, c.seq)], kernel := true, started := true, job := job,
                      num := s.dev.launchNo }
  let (s, l) := giveTag s l
  let st : StepRec := { ring := c.ring, seq := c.seq, part := c.part, sess := sess, kernel := true, job := job, phase := .launched }
  let s := { s with launches := s.launches ++ [l], steps := s.steps ++ [st], dev := { s.dev with launchNo := s.dev.launchNo + 1 } }
  let s := markSteps s l
  cores.foldl (fun s k => setCore s k (launchCore (getCore s k) ⟨l.id, c.part, h, c.set, c.ring, c.seq⟩ ws args)) s

/-- Whether the Separator stage of a KERNEL_RUN has no routing record (R479). -/
def stageBad (s : State) (c : Cmd) : Bool :=
  blkField c 0x0A 2 % 2 == 1 && (match findSet s c.part c.set with
    | some x => (layerRoute x (blkField c 0x9C 2)).isNone
    | none => true)

/-- KERNEL_RUN with its session resolved (R280). -/
def runKernel (s : State) (c : Cmd) (h : W32) (sess : Option Nat) : State :=
  let broken := match findSet s c.part c.set with | some x => if x.st == .broken then some (brokenStatus x) else none | none => none
  match broken, blockBad c with
  | some b, _ => finish s c.ring c.seq b
  | none, some f => faultCmd s c 0x0013 f (dfield c 511 448)
  | none, none =>
    if coresBad s c then faultCmd s c 0x001E 255 (dfield c 511 448)
    else if stageBad s c then faultSyn s c 0x0009
    else
      let m := readKernel s c
      if m.bad then finish (readFails s c m (blkField c 0 8)).1 c.ring c.seq stFault
      else
        let ws := imageWords m.bytes
        match imageBad ws with
        | some (a, f) =>
          finish (raiseCmd s c { synRec 0x0001 (some c.part) uHub f a with instr := some (a, 0) }).1 c.ring c.seq stFault
        | none => match readShapes s c (kernelArgs c) with
          | .syn n a => faultCmd s c n 0 a
          | .mem m a => finish (readFails s c m a).1 c.ring c.seq stFault
          | .zero ces => finish (ces.foldl raise' s) c.ring c.seq stShapeZero
          | .ok args ces => startKernel ((m.ces ++ ces).foldl raise' s) c h sess ws args

/-- Whether the cores of a KERNEL_RUN can take its launch now. -/
def kernelReady (s : State) (c : Cmd) : Bool :=
  let l : Launch := { id := 0, part := c.part, cores := kernelCores s c, steps := [(c.ring, c.seq)], kernel := true, job := activeJob s c.part }
  blockBad c != none || coresBad s c ||
  (canLaunch s c.part && l.cores.all (fun k => coreFree s k && !s.launches.any (fun y => !y.started && y.cores.contains k)) &&
    !reloading s c.part c.set && tagFree s l)

/-- KERNEL_RUN (R280). -/
def execKernelRun (r q : Nat) (s : State) : Host.Outcome State Fault Refusal :=
  match runnable s r q 0x20 with
  | none => .next s
  | some c =>
    if !kernelReady s c || jobHeld s c.part then .next s
    else match handleIn c with
      | none => .next (runKernel s c 0 none)
      | some h => match openHandle s c.part h with
        | none => .next (faultCmd s c 0x0003 127 (dfield c 511 448))
        | some i => if sessionTurn s c h then .next (runKernel s c h (some i)) else .next s

/-! ## The Separator stage of a KERNEL_RUN (R191, R192) -/

/-- A KERNEL_RUN whose stage has failed with record `n` ends FAULT; where it is a step of an ACTIVE job a Stop bath follows (R192, R331). -/
def kernelFails (s : State) (l : Launch) (c : Cmd) (n : Nat) : State :=
  let s := noteErr (removeLaunch s l) c.ring c.seq n
  match l.job.filter (fun j => (getJob s j).st == .active) with
  | some j => startLaunches (stopBath s j 0x01 n)
  | none => startLaunches (complete (closeTag s l) c.ring c.seq { status := stFault })

/-- A FAULT of a stage that sends nothing (R192). -/
def stageFault (s : State) (l : Launch) (c : Cmd) (syn : Nat) (addr : Nat) : State :=
  let x := raiseCmd s c (synRec syn (some c.part) uHub 0 addr)
  kernelFails x.1 l c x.2

/-- A stage that cannot read partition memory ends FAULT with the record of the read (R229, R232, R343). -/
def stageReadFault (s : State) (l : Launch) (c : Cmd) (m : MemRead) (a : Nat) : State :=
  let x := readFails s c m a
  kernelFails x.1 l c x.2

/-- The arrays of a stage lie in the partition (R192). -/
def stageInside (s : State) (c : Cmd) (y : Route) (n : Nat) : Bool :=
  let p := c.part
  let rd := fun a len => len == 0 || ((pieces a len).all (fun pc => match resolve s p c.set false pc.1 with | .ok _ => true | .error _ => false))
  let wr := fun a len => len == 0 || (writeErr s p c.set a len).isNone
  rd (blkField c 0xA0 8) (4 * n) && rd (blkField c 0xA8 8) (n * rowSize y.ifmt y.dim) && wr (blkField c 0xB0 8) (n * rowSize y.cfmt y.dim)

/-- The Separator stage of a KERNEL_RUN begins once every core has ended (R192): the shape word, the token table and the dispatch rows are
read, and the placement table. -/
def kernelStage (s : State) (l : Launch) (c : Cmd) (x : PlateSet) (y : Route) : State :=
  let rd := readPart s c.part c.set
  let w := rd (blkField c 0xB8 8) 4
  let n := leNat w.bytes
  let rb := rowSize y.ifmt y.dim
  let ts := rd (blkField c 0xA0 8) (4 * n)
  let rs := rd (blkField c 0xA8 8) (n * rb)
  if w.bad then stageReadFault s l c w (blkField c 0xB8 8)
  else if 65535 < n then stageFault s l c 0x000B (blkField c 0xB8 8)
  else if !stageInside s c y n then stageFault s l c 0x0002 0
  else if n != 0 && ts.bad then stageReadFault s l c ts (blkField c 0xA0 8)
  else if n != 0 && rs.bad then stageReadFault s l c rs (blkField c 0xA8 8)
  else
    let s := (w.ces ++ (if n = 0 then [] else ts.ces ++ rs.ces)).foldl raise' s
    let (s, bad) := tableRead s (mapErrors s x y)
    match bad, findCmd s c.ring c.seq with
    | some n, some c => kernelFails s l c n
    | some _, none => dropLaunch s l
    | none, _ =>
      let toks := (chunks 4 ts.bytes).map (fun b => (BitVec.ofNat 32 (leNat b), y.cap))
      let s := updLaunch s l.id (fun l => { l with stage := .separate })
      startLaunches (startBatch s (l.job.getD 64) l.part l.id (l.tag.getD 0) x y (blkField c 0x9C 2) (blkField c 0xB0 8)
        (if n = 0 then [] else toks) (if n = 0 then [] else chunks rb rs.bytes) (List.replicate n (c.ring, c.seq)))

/-- A kernel's command ends OK once its work is done (R280, R349). -/
def kernelDone (s : State) (l : Launch) (r q : Nat) : State :=
  let s := closeTag s l
  let s := updStep s r q (fun st => { st with result := BitVec.ofNat 128 ((l.maxCyc % 2 ^ 64) <<< 64) })
  startLaunches (stepDone (removeLaunch s l) r q)

/-- Every core of a KERNEL_RUN has ended (R103, R280); its kernel is no longer a running step (R153). -/
def kernelLaunchEnds (s : State) (l : Launch) : State :=
  let s := endStep s l.part (launchStep l.num)
  match l.steps.head? with
  | none => dropLaunch s l
  | some (r, q) => match findCmd s r q with
    | none => dropLaunch s l
    | some c => match l.failed with
      | some n =>
        startLaunches (complete (noteErr (abandonTag (removeLaunch s l) l) r q n) r q { status := stFault })
      | none =>
        if blkField c 0x0A 2 % 2 = 0 then kernelDone s l r q
        else match findSet s l.part c.set with
          | none => kernelDone s l r q
          | some x => match layerRoute x (blkField c 0x9C 2) with
            | none => kernelDone s l r q
            | some y => kernelStage s l c x y

/-! ## Experts and combines -/

/-- An expert launch has ended (R202 to R204): results, the returns that are whole, and the collection. -/
def expertEnds (s : State) (l : Launch) (e : ExpertRun) : State :=
  let ji := (jobById s l.part e.job).getD 64
  let dig := match destSet s l.part ji e.tag e.layer with | some x => setDigests x | none => []
  let y := (destSet s l.part ji e.tag e.layer).bind (fun x => layerRoute x e.layer)
  let n := match y with | some y => rowSize y.ofmt y.dim | none => 0
  let put := fun (d : DestMsg) =>
    if d.part == l.part && d.job == e.job && d.tag == e.tag && d.layer == e.layer then
      (e.rows.filter (fun r => r.1 == d.src && r.2.1 == d.index)).foldl (fun d r =>
        { d with out := tset d.out r.2.2 ((List.range n).map (Config.expertRow dig e.layer e.expert (nth [] d.rows r.2.2))) }) d
    else d
  let s := { s with sep := { s.sep with dest := s.sep.dest.map put } }
  let whole := (collection s l.part e.job e.tag e.layer).filter (fun d => !d.answered && !d.rows.isEmpty && decide (d.out.length = d.rows.length))
  let s := whole.foldl (fun s d => answerMsg s ji d) s
  dropLaunch (dropCollection s l.part ji e.tag e.layer) l

/-- The combined rows of a KERNEL_RUN go to SEP_CROWS, where an exposed working page is copied first (R160, R205); none while that copy waits
for a frame (R158). -/
def combineKernel (s : State) (b : Batch) (l : Launch) (d : List Byte) : Option State :=
  match l.steps.head?.bind (fun k => findCmd s k.1 k.2) with
  | none => some (dropLaunch (dropBatch s b) l)
  | some c =>
    let we := workErrors s b.part b.addr d.length
    match we.2 with
    | some (r, f) =>
      let x := raiseCmdDone (we.1.foldl raise' s) c r
      some (kernelFails (frameBad (dropBatch x.1 b) f) l c x.2)
    | none => (storePart (we.1.foldl raise' s) b.part b.addr d).map (fun s => kernelDone (dropBatch s b) l c.ring c.seq)

/-- The combined rows of a serving launch: the next batch of its stage, or, with the last, the hidden rows and the next layer. -/
def combineServing (s : State) (b : Batch) (l : Launch) (x : PlateSet) (y : Route) (rows : List (List Byte)) : State :=
  let outs := l.outs ++ b.owners.zip rows
  let todo := l.todo.filter (fun e => l.steps.contains e.1)
  let s := updLaunch s l.id (fun l => { l with outs := outs, todo := todo })
  if !todo.isEmpty then stageRound s { l with outs := outs, todo := todo } x y
  else
    let keep := outs.filter (fun e => l.steps.contains e.1)
    let out := ((launchRows s l).zip keep).map (fun e => (e.1.1, Config.expertOut (setDigests x) l.layer e.1.2 e.2.2))
    nextLayer (putRows' s out l.steps) l.id

/-- A batch whose returns are all in is combined (R205), once the weights have been read (R187, R220). -/
def combineDone (s : State) (b : Batch) : State :=
  match findSet s b.part b.pset, findLaunch s b.launch with
  | some x, some l => match layerRoute x b.layer with
    | none => dropBatch s b
    | some y =>
      let (t, bad) := tableRead s (weightErrors s x y)
      let rows := combineBatch t x y b
      match bad with
      | some n => (match findLaunch t l.id with
        | some l => if l.kernel then kernelFails (dropBatch t b) l ((launchCmd t l).getD { ring := 0, seq := 0, desc := 0 }) n
                    else failLaunch (dropBatch t b) l n
        | none => dropBatch t b)
      | none => if l.kernel then (combineKernel t b l rows.flatten).getD s else combineServing (dropBatch t b) b l x y rows
  | _, _ => dropBatch s b

/-- Combine every batch that is whole. -/
def combineAll (s : State) : State := (s.sep.batches.filter batchDone).foldl combineDone s

/-! ## LAUNCH_END -/

/-- A serving launch ends: failed launches end their steps, others go on with the layer (R213); none while a page waits for a frame. -/
def servingEnds (s : State) (l : Launch) : Option State :=
  match l.failed with
  | some n => some (failLaunch s l n)
  | none => if l.steps.isEmpty then some (dropLaunch (abandonTag s l) l) else match findSet s l.part (launchSet s l) with
    | none => some (dropLaunch s l)
    | some x => match setGeo x with
      | none => some (dropLaunch s l)
      | some g => layerEnds s l x g

/-- What the end of a launch does, none while a serving write waits for a frame (R158). -/
def launchEnds (s : State) (l : Launch) : Option State :=
  (if l.kernel then some (kernelLaunchEnds s l)
   else match l.expert with
    | some e => some (expertEnds s l e)
    | none => servingEnds s l).map (fun s => combineAll (pumpSep s))

/-- Whether a launch can end: its cores are out of reset, and every core of a KERNEL_RUN has ended its share (R103). -/
def launchSettled (s : State) (l : Launch) : Bool :=
  !l.cores.any (fun c => (getCore s c).run == .stopped || underReset s (.core c)) && (!l.kernel || l.cores.all (fun c => l.ended.contains c))

/-- LAUNCH_END (R213): a launch that runs ends. -/
def execLaunchEnd (n : Nat) (s : State) : Host.Outcome State Fault Refusal :=
  match findLaunch s n with
  | none => .next s
  | some l => if l.started && l.stage == .run && launchSettled s l then
      .next ((launchEnds (touchRings (reclaim s l.part) l.steps) l).getD s)
    else .next s

end Sys2Proof.Machine
end

