-- ==== Sys2Proof/Machine/Control.lean ====
section
/-! DEFINITION. Commands and events that order, stop and report other commands: FENCE, CANCEL, JOURNAL_QUERY
and SET_WAKE_TOLERANCE (R269, R281, R282, R284), the deadline stop of a Timed command (R290), and the interrupt
timer and mask of R258. -/

namespace Sys2Proof.Machine

open Sys2Proof

/-! ## Waking (R424) -/

/-- A wake event of a partition (R424): a partition in P2 or deeper begins its exit; in P4 the device asserts
WAKE_N. -/
def wakePart (s : State) (p : Nat) : State :=
  let x := getPart s p
  if x.pstate < 2 || x.waking then s
  else
    let s := setPart s p { x with waking := true }
    if s.hif.inL12 then { s with pins := { s.pins with wakeN := false } } else s

/-- Set the wake tolerance of a partition, clamped (R284, R425): a lowering is a wake event (R424). -/
def setTol (s : State) (p us : Nat) : State :=
  let x := getPart s p
  let t := Nat.min us 1000000
  let s := setPart s p { x with tol := t }
  if t < x.tol then wakePart s p else s

/-- SET_WAKE_TOLERANCE (R284). -/
def execSetWakeTolerance (r q : Nat) (s : State) : Host.Outcome State Fault Refusal :=
  match runnable s r q 0x42 with
  | none => .next s
  | some c =>
    let s := setTol (startCmd s r q) c.part (dfield c 511 480)
    .next (complete s r q { status := stOk, result := deepest (getPart s c.part).tol <<< 120 })

/-! ## FENCE (R281) -/

/-- FENCE (R281): it completes once no earlier command of its ring is outstanding. -/
def execFence (r q : Nat) (s : State) : Host.Outcome State Fault Refusal :=
  match runnable s r q 0x40 with
  | none => .next s
  | some _ => if (earlier s r q).any (fun c => c.ring == r) then .next s else .next (finish s r q stOk)

/-! ## Stopping a step that has started -/

/-- Drop the references that a step's exposure still holds, and close the exposure (R374). -/
def dropSends (s : State) (st : StepRec) : State :=
  let s := st.toSend.foldl (fun s k => dropRef s st.part k.1 k.2.1) s
  let s := updStep s st.ring st.seq (fun y => { y with toSend := [] })
  match st.sess with
  | none => s
  | some i =>
    let x := getSess s i
    if st.phase == .exposing && !st.acked && paired x then setSess s i { x with expOpen := x.expOpen - 1 } else s

/-- The cores of a launch stop running it. -/
def stopCores (s : State) (l : Launch) : State :=
  (if l.started then l.cores else []).foldl (fun s c =>
    let k := getCore s c
    if k.run == .running || k.run == .ended then
      setCore s c { k with run := .idle, qLd := [], qSt := [], qMx := [], qVx := [], flights := [] }
    else s) s

/-- Launches that no step needs any more are stopped and their tags abandoned (R208, R290). -/
def dropEmpty (s : State) : State :=
  (s.launches.filter (fun l => l.expert.isNone && l.steps.isEmpty)).foldl (fun s l => dropLaunch (abandonTag (stopCores s l) l) l) s

/-- End a command now, with whatever work it has: its step leaves its launch and its exposure. -/
def stopCmd (s : State) (r q : Nat) (d : Done) : State :=
  match findStep s r q with
  | none => complete s r q d
  | some st =>
    complete (dropSends (dropFromLaunches s r q) st) r q d

/-! ## CANCEL (R282) -/

/-- Whether a command that has not started work, or that waits as R299 and R301 describe, is ended by a CANCEL. -/
def cancelNow (s : State) (c : Cmd) : Bool :=
  !c.started || (opcodeOf c == 0x10 && c.wait == .frames) || (opcodeOf c == 0x11 && c.wait == .loading) ||
  (match findStep s c.ring c.seq with
   | some st => !st.kernel && (st.phase == .gather || st.phase == .held || st.phase == .exposing || st.phase == .proving)
   | none => false)

/-- Whether a started step of a command stops at its next layer boundary. -/
def cancelLater (s : State) (c : Cmd) : Bool :=
  match findStep s c.ring c.seq with
  | some st => !st.kernel && (st.phase == .launched || st.phase == .separator)
  | none => false

/-- An exposure whose command has ended before its instant is forgotten (R263). -/
def dropWaiting (s : State) (r q : Nat) : State :=
  { s with exps := s.exps.filter (fun e => e.taken || e.pairing || !(e.ring == r && e.seq == q)) }

/-- Cancel one command: the state, and whether it completes CANCELLED. -/
def cancelOne (s : State) (c : Cmd) : State × Bool :=
  if cancelNow s c then
    let (t, n) := if opcodeOf c = 0x10 then cancelLoad s c else (dropWaiting s c.ring c.seq, 0)
    (afterActivation (stopCmd t c.ring c.seq { status := stCancelled, result := n }) c, true)
  else if cancelLater s c then (updCmd s c.ring c.seq (fun c => { c with cancel := true }), true)
  else (s, false)

/-- Whether sequence number `q` lies in the range of a CANCEL. -/
def inRange (c : Cmd) (q : Nat) : Bool := decide ((q + 2 ^ 64 - dfield c 511 448) % 2 ^ 64 ≤ dfield c 447 436)

/-- Whether a command's ring may name ring `t` (R269). -/
def ownsRing (s : State) (c : Cmd) (t : Nat) : Bool := c.func == 0 || (getRing s t).func.toNat == c.func

/-- CANCEL over the commands of its range (R282). -/
def cancelRange (s : State) (c : Cmd) (t : Nat) : State :=
  let hit := s.cmds.filter (fun x => x.ring == t && inRange c x.seq)
  let known := ((getRing s t).journal.filter (fun e => e.2.st != .empty && inRange c e.2.seq)).length
  let (s, n) := hit.foldl (fun (acc : State × Nat) x =>
    let o := cancelOne acc.1 x
    (o.1, if o.2 then acc.2 + 1 else acc.2)) (s, 0)
  complete (startLaunches (dropEmpty s)) c.ring c.seq { status := stOk, result := (n <<< 96) + (((known - n) % 2 ^ 32) <<< 64) }

/-- CANCEL (R282). -/
def execCancel (r q : Nat) (s : State) : Host.Outcome State Fault Refusal :=
  match runnable s r q 0x41 with
  | none => .next s
  | some c =>
    let t := dfield c 435 421
    if !ownsRing s c t then .next (faultCmd s c 0x0017 435 0) else .next (cancelRange (startCmd s r q) c t)

/-! ## JOURNAL_QUERY (R268, R269) -/

/-- Code of a journal state (R262). -/
def jcode (x : JState) : Nat := match x with | .empty => 0 | .accepted => 1 | .started => 2 | .completed => 3 | .failed => 4

/-- The 64 bytes of a journal entry (R262). -/
def jBytes (e : JEntry) : List Byte :=
  natLE 64 ((e.seq <<< 448) + (e.digest.toNat <<< 320) + (e.result.toNat <<< 192) + (e.accept <<< 128) + (e.ended <<< 64) +
    (e.opcode.toNat <<< 56) + (e.status.toNat <<< 48) + (b2n e.degr <<< 47) + (b2n e.proof <<< 46) + (b2n e.route <<< 45) +
    (jcode e.st <<< 32) + e.errRef.toNat)

/-- The entry shown for sequence number `q`: zeros where the journal does not hold it (R268). -/
def jShow (x : Ring) (q : Nat) : List Byte :=
  let e := journalAt x q
  if e.st = .empty ∨ e.seq ≠ q then List.replicate 64 0 else jBytes e

/-- JOURNAL_QUERY (R269): its own entry shows as STARTED. -/
def execJournalQuery (r q : Nat) (s : State) : Host.Outcome State Fault Refusal :=
  match runnable s r q 0x44 with
  | none => .next s
  | some c =>
    let t := dfield c 367 353
    if !ownsRing s c t then .next (faultCmd s c 0x0017 367 0)
    else
      let s := startCmd s r q
      let x := getRing s t
      let s := (List.range (dfield c 383 368 + 1)).foldl (fun s k =>
        if (getRing s r).mute then s else hostWrite s (dfield c 511 448 + 64 * k) (jShow x ((dfield c 447 384 + k) % 2 ^ 64))) s
      .next (complete s r q { status := stOk, result := (nextSeq x <<< 64) + x.written % 2 ^ 32 })

/-! ## TIMED_DEADLINE_STOP (R290) -/

/-- TIMED_DEADLINE_STOP (R290). -/
def execTimedDeadlineStop (r q : Nat) (s : State) : Host.Outcome State Fault Refusal :=
  match findCmd s r q with
  | none => .next s
  | some c => if lateCmd s c then .next (startLaunches (dropEmpty (stopCmd s r q { status := stDeadline }))) else .next s

/-! ## Interrupts (R258) -/

/-- Whether the timer of a ring's pending completions has run out. -/
def timerDue (s : State) (x : Ring) : Bool :=
  x.ien && !x.mute && x.pendCnt != 0 && x.ctime != 0 && decide (x.pendAt + x.ctime.toNat * 1050 ≤ s.time.ftime)

/-- INTERRUPT_TIMER (R258). -/
def execInterruptTimer (r : Nat) (s : State) : Host.Outcome State Fault Refusal :=
  if 32768 ≤ r then .fault .noSuchUnit
  else
    let x := getRing s r
    if timerDue s x then .next (sendMsix (setRing s r { x with pendCnt := 0 }) x.func.toNat x.vector.toNat) else .next s

/-- Entries of a function's MSI-X table (R242, R243). -/
def msixSize (s : State) (fn : Nat) : Nat := if fn = 0 then 32 else 2 ^ Nat.min 5 s.hif.vfMsix.toNat

/-- MSIX_UNMASK (R258): the entry is unmasked, and a pending message is sent. -/
def execMsixUnmask (fn vec : Nat) (s : State) : Host.Outcome State Fault Refusal :=
  if 64 ≤ fn ∨ msixSize s fn ≤ vec then .fault .noSuchUnit
  else
    let k := msixKey fn vec
    let e : MsixEntry := tget {} s.hif.msix k
    let s1 := { s with hif := { s.hif with msix := tset s.hif.msix k { e with mask := false } } }
    if s.hif.pba.contains k then
      .next (sendMsix { s1 with hif := { s1.hif with pba := s1.hif.pba.filter (· != k) } } fn vec)
    else .next s1

end Sys2Proof.Machine
end

