-- ==== Sys2Proof/Machine/Mx.lean ====
section
/-! DEFINITION. The course of Matrix engine instructions (R49 to R57, R113 to R121): the cycles of their pad accesses, scans,
accumulations and output stage, fixed at issue. -/

namespace Sys2Proof.Machine

open Sys2Proof

/-! ## Pad cycles -/

/-- The least cycle from `c` on in which `bank` is not in `busy` (R52). -/
def nextFree (busy : List (Nat × Nat)) (bank c : Nat) : Nat → Nat
  | 0 => c
  | n + 1 => if busy.contains (c, bank) then nextFree busy bank (c + 1) n else c

/-- Cycles of rows read or written in order, one row of each bank a cycle (R66), around the cells of `busy`. -/
def placeRows (busy : List (Nat × Nat)) (c : Nat) (used : List Nat) : List Nat → List Nat
  | [] => []
  | b :: t =>
    let c' := nextFree busy b (if used.contains b then c + 1 else c) (busy.length + 1)
    c' :: placeRows busy c' (if c' = c then b :: used else [b]) t

/-- Cycles of rows read in any order: each bank moves its next row when it is free (R52). -/
def placeAny (busy : List (Nat × Nat)) (start : Nat) (next : Tbl Nat) : List Nat → List Nat
  | [] => []
  | b :: t =>
    let c := nextFree busy b (tget start next b) (busy.length + 1)
    c :: placeAny busy start (tset next b (c + 1)) t

/-- The bank of slot row `r` of an operand. -/
def bankOf (x : SlotView) (r : Nat) : Nat := (slotRow x.e (x.r0 + r)).1

/-- The course of an instruction: when the array, the block load, the scan, the output port and the two halves are next free, the
block held, the cells (cycle, pad, bank) written by it and by earlier instructions, its events, the last reads of its held and its
streamed operand, and the start of its latest pass. -/
structure Sched where
  streamAt : Nat
  loadAt   : Nat
  scanAt   : Nat
  outAt    : Nat
  half     : Nat × Nat
  heldBlk  : Option (Nat × Nat) := none
  wr       : List (Nat × Nat × Nat)
  evs      : List (Nat × FlightEv) := []
  heldLast : Nat := 0
  strmLast : Nat := 0
  lastPass : Nat := 0
  deriving DecidableEq, Repr

/-- The cells of a pad that the Matrix engine writes (R52). -/
def busyCells (sc : Sched) (pad : Nat) : List (Nat × Nat) := sc.wr.filterMap (fun x => if x.2.1 = pad then some (x.1, x.2.2) else none)

/-- Add reads of rows `rs` of operand `op` in the cycles `cs`, in pass `pass`. -/
def addReads (x : SlotView) (op pass : Nat) (rs cs : List Nat) (sc : Sched) : Sched :=
  { sc with evs := sc.evs ++ List.zipWith (fun r cy => (cy, .read (opIx op r) pass x.pad x.slot (slotKey x.e (x.r0 + r)))) rs cs }

/-- Read rows of an operand in order from cycle `start` on: the course and the last cycle. -/
def readInOrder (x : SlotView) (op pass : Nat) (sc : Sched) (start : Nat) (rs : List Nat) : Sched × Nat :=
  let cs := placeRows (busyCells sc x.pad) start [] (rs.map (bankOf x))
  (addReads x op pass rs cs sc, cs.foldl Nat.max start)

/-- Write `len` bytes of result `i`, of row group `g`, at byte `off` of the output with slot rows of `w` bytes, from cycle `start` on:
the course and the last cycle. -/
def writeOut (x : SlotView) (w i g : Nat) (sc : Sched) (start off len : Nat) : Sched × Nat :=
  if len = 0 then (sc, start)
  else
    let r0 := off / w
    let rs := rangeFrom r0 ((off + len - 1) / w - r0 + 1)
    let bs := rs.map (bankOf x)
    let cs := placeRows [] start [] bs
    let evs := List.zipWith (fun r cy =>
      let lo := Nat.max off (r * w)
      let hi := Nat.min (off + len) ((r + 1) * w)
      (cy, .put i (lo - off) g x.pad x.slot (slotKey x.e (x.r0 + r) * w + lo % w) (hi - lo))) rs cs
    ({ sc with evs := sc.evs ++ evs, wr := sc.wr ++ List.zipWith (fun cy b => (cy, x.pad, b)) cs bs }, cs.foldl Nat.max start)

/-! ## The course of an MX (R49 to R54) -/

/-- Scan cycles of a group (R51). -/
def scanCycles (j : MxJob) (t g : Nat) : Nat :=
  let n := groupRows j.f g * (tileCols j.f t).2
  if fmtGroup j.lh.fmt = 2 then ceilDiv (n * j.f.k) 4096
  else if j.o.pcs then 0
  else ceilDiv (n * ceilDiv j.f.k 32) 2048

/-- The scan of a group with the reads of the entries it accumulates into (R51, R52): the cycle after its last. -/
def scanGroup (j : MxJob) (sc : Sched) (n t g : Nat) : Sched × Nat :=
  let fin := sc.scanAt + scanCycles j t g
  if !j.o.acc then (sc, fin)
  else
    let (y0, ny) := tileCols j.f t
    let rs := (rangeFrom (32 * g) (groupRows j.f g)).flatMap (fun x =>
      rangeFrom (outRow j.ol x + 16 * y0 / 256) (ceilDiv (16 * ny) 256))
    let cs := placeAny (busyCells sc j.so.pad) sc.scanAt [] (rs.map (bankOf j.so))
    (addReads j.so 3 (n * j.f.nk) rs cs sc, Nat.max fin (cs.foldl Nat.max 0 + 1))

/-- The output stage of row `i` of group number `n` of tile `t`, not before cycle `at_`, and the write of the row from the next cycle
on (R54). -/
def outputRow (j : MxJob) (n t g i at_ : Nat) (sc : Sched) : Sched :=
  let start := Nat.max (at_ + 1) sc.outAt
  let sc := { sc with evs := sc.evs ++ [(start - 1, .form 2 n i)] }
  let (sc, e) := writeOut j.so j.ol.w (opIx n i) n sc start (outRow j.ol (32 * g + i) * j.ol.w + outElem j.ol (tileCols j.f t).1) (rowOutLen j t)
  { sc with outAt := e + 1 }

/-- The stream cycles of pass `k` of a group from cycle `cur` on (R48, R53): each row accumulates five cycles after its last stream
cycle, and in the last pass goes on to the output stage in the next, unless its set is converted together (R54). -/
def streamPass (j : MxJob) (n t g k : Nat) (cur x : Nat) (sc : Sched) : Nat → Nat → Sched
  | 0, _ => sc
  | fuel + 1, left =>
    if left = 0 then sc
    else
      let q := Nat.min j.f.q left
      let rs := (rangeFrom x q).flatMap (fun y => rangeFrom (vecRow j.f j.ls y k) (ceilDiv (passBytes j.f j.ls k) 128))
      let (sc, e) := readInOrder j.ss 1 (n * j.f.nk + k) sc cur rs
      let is := rangeFrom (x - 32 * g) q
      let sc := { sc with streamAt := e + 1, strmLast := e, evs := sc.evs ++ is.map (fun i => (e + 5, .form 1 (n * j.f.nk + k) i)) }
      let sc := if k + 1 = j.f.nk ∧ !j.together then is.foldl (fun sc i => outputRow j n t g i (e + 6) sc) sc else sc
      streamPass j n t g k (e + 1) (x + q) sc fuel (left - q)

/-- One pass of a group: block load, stream (R42, R49, R53). `ready` is the earliest first stream cycle. The accumulator entries of
the group are opened before its first. -/
def runPass (j : MxJob) (n t g k ready : Nat) (sc : Sched) : Sched :=
  let (sc, ready) :=
    if sc.heldBlk = some (t, k) then (sc, ready)
    else
      let (sc, e) := readInOrder j.hs 0 (n * j.f.nk + k) sc sc.loadAt (rangeFrom (imageRow j.f j.lh t k) (imageRows j.f j.lh t k))
      ({ sc with heldBlk := some (t, k), heldLast := Nat.max sc.heldLast e }, Nat.max ready (e + 1))
  let start := Nat.max ready sc.streamAt
  let sc := { sc with loadAt := start, lastPass := start, evs := if k = 0 then sc.evs ++ [(start - 1, .form 0 n 0)] else sc.evs }
  streamPass j n t g k start (32 * g) sc 33 (groupRows j.f g)

/-- The output of a set that is converted together: its rows after its last accumulation, one a cycle, and then its scale record
(R54, log 80). -/
def outputSet (j : MxJob) (n t g : Nat) (sc : Sched) : Sched :=
  if !j.together then sc
  else
    let rows := groupRows j.f g
    let last := sc.strmLast + 6
    let sc := (List.range rows).foldl (fun sc i => outputRow j n t g i (last + i) sc) sc
    let sc := { sc with evs := sc.evs ++ [(sc.outAt - 1, .form 3 n 0)] }
    let (y0, ny) := tileCols j.f t
    let (sc, e) := writeOut j.so j.ol.w (opIx n 32) n sc sc.outAt (recRow j.ol g rows * j.ol.w + y0) ny
    { sc with outAt := e + 1 }

/-- Group number `n` (R49): scan, passes, output. -/
def runGroup (j : MxJob) (sc : Sched) (n : Nat) : Sched :=
  let (t, g) := tileGroup j.f n
  let (sc, scanned) := scanGroup j sc n t g
  let sc := (List.range j.f.nk).foldl (fun (sc : Sched) k =>
    let sc := runPass j n t g k (if k = 0 then Nat.max scanned sc.half.1 else 0) sc
    if k = 0 then { sc with scanAt := sc.lastPass } else sc) sc
  let sc := outputSet j n t g sc
  { sc with half := (sc.half.2, sc.outAt) }

/-- Every group of the instruction in the order of R49. -/
def runAll (j : MxJob) (sc : Sched) : Sched := (List.range (j.f.tiles * j.f.groups)).foldl (runGroup j) sc

/-- The reads of the `n` rows of the SC slot from cycle `from_` on, the last of them not before the cycle before the last write, which
is in cycle `fin − 1` (R118): the course and the cycle of the last. -/
def readScales (x : SlotView) (n from_ fin pass : Nat) (sc : Sched) : Sched × Nat :=
  let (sc, e) := readInOrder x 2 pass sc from_ (List.range (n - 1))
  readInOrder x 2 pass sc (Nat.max e (fin - 2)) [n - 1]

/-! ## Issue -/

/-- A slot operand of an MX class instruction with its row offset from s[SR] (R113). -/
def mxSlot (k : Core) (r : SRef) (off : W64) (i : Nat) : SlotView :=
  { pad := r.pad.toNat, slot := r.slot.toNat, e := slotOf k r.pad.toNat r.slot.toNat, r0 := bits off (16 * i + 15) (16 * i) }

/-- Whether a defined slot is too small for `n` rows (R50). -/
def tooSmall (x : SlotView) (n : Nat) : Bool := x.e.rowCount != 0 && decide (slotRows x.e < n)

/-- The slot use of an operand; the range of a slot that is too small is R50's matter. -/
def mxUse (x : SlotView) (acc : Access) (flag : Bool) (n : Nat) : SlotUse :=
  { pad := x.pad, slot := x.slot, acc := acc, flag := flag, r0 := if tooSmall x n then 0 else x.r0, n := if tooSmall x n then 0 else n }

/-- Cells that earlier Matrix engine instructions have yet to write (R52). -/
def pastWrites (k : Core) : List (Nat × Nat × Nat) := k.flights.flatMap (fun f => f.plan.filter (fun x => decide (k.cyc ≤ x.1)))

/-- Put a Matrix engine instruction in the air: its slot changes at issue and at the last accesses of its operands. -/
def flyMx (s : State) (c : Nat) (q : Queued) (view : List SlotView) (us : List (SlotUse × Nat)) (sc : Sched) (due busy : Nat) (hit : Bool) : State :=
  let k := getCore s c
  let all := us.flatMap (fun u => issueEv u.1 k.cyc) ++ sc.evs ++ us.flatMap (fun u => endEv u.1 u.2)
  addFlight (setCore s c { k with busyMx := busy }) c
    { eng := 3, addr := q.addr, due := due, evs := all, job := some q, view := view, plan := sc.wr, inject := hit }

/-- Whether the residue side datapath of core `c` has an armed injection (R357 kind 2). -/
def residueInjection (s : State) (c : Nat) : Option Inject := s.err.armed.find? (fun i => i.kind == 2 && i.unit.toNat == c)

/-- Issue MX (R113 to R118): a held block of an earlier instruction is not used again (log 81). -/
def issueMxOp (s : State) (c : Nat) (q : Queued) (h : Hdr) (o : MxArgs) : Issued :=
  let k0 := getCore s c
  let sA := mxSlot k0 o.sa q.sc.r 0
  let sW := mxSlot k0 o.sw q.sc.r 1
  let sO := mxSlot k0 o.so q.sc.r 2
  let sC := mxSlot k0 o.sc q.sc.r 3
  let j := mxJob o sA sW sO sC q.addr
  let nA := if o.is then heldRows j.f j.la else strmRows j.f j.la
  let nW := if o.is then strmRows j.f j.lw else heldRows j.f j.lw
  let nO := outRows j.ol j.f
  let nC := scRows j.f.m j.f.n
  let uA := mxUse sA .read o.sa.flag nA
  let uW := mxUse sW .read o.sw.flag nW
  let uO := mxUse sO (if o.acc then .update else .write) o.so.flag nO
  let uC := if o.pcs then [mxUse sC .read o.sc.flag nC] else []
  withSlots s c 3 q.addr h.timed ([uA, uW, uO] ++ uC) (fun s =>
    if tooSmall sA nA then .stop [illegalRec s c q.addr 95]
    else if tooSmall sW nW then .stop [illegalRec s c q.addr 86]
    else if tooSmall sO nO then .stop [illegalRec s c q.addr 77]
    else if o.pcs && tooSmall sC nC then .stop [illegalRec s c q.addr 68]
    else
      let k := getCore s c
      let sc := runAll j { streamAt := Nat.max k.cyc k.mxNext, loadAt := k.cyc, scanAt := k.cyc,
                           outAt := Nat.max k.cyc k.mxOut, half := k.mxHalf, wr := pastWrites k }
      let (sc, lastC) := if o.pcs then readScales sC nC k.cyc sc.outAt ((j.f.tiles * j.f.groups - 1) * j.f.nk) sc else (sc, 0)
      let fin := Nat.max sc.outAt (lastC + 1)
      let lastA := if o.is then sc.heldLast else sc.strmLast
      let lastW := if o.is then sc.strmLast else sc.heldLast
      let hit := residueInjection s c
      let s := match hit with | none => s | some i => { s with err := { s.err with armed := s.err.armed.erase i } }
      let s := setCore s c { getCore s c with mxNext := sc.streamAt, mxHalf := sc.half, mxOut := fin }
      .go (flyMx s c q [sA, sW, sO, sC] ([(uA, lastA), (uW, lastW)] ++ uC.map (fun u => (u, lastC)) ++ [(uO, fin - 1)])
            sc (fin - 1) (Nat.max (k.cyc + 1) sc.lastPass) hit.isSome))

/-- A course that begins in cycle `c`. -/
def newSched (c : Nat) : Sched := { streamAt := c, loadAt := c, scanAt := c, outAt := c, half := (c, c), wr := [] }

/-- After an MXSCAN, MXCMB or MXCVT the whole engine is free from cycle `fin` on. -/
def mxAfter (s : State) (c fin : Nat) : State :=
  let k := getCore s c
  setCore s c { k with mxNext := fin, mxHalf := (fin, fin), mxOut := fin }

/-- Issue MXSCAN (R119): preset entries in the spilled layout; the scale rows are read in order from its issue cycle on (log 59). -/
def issueMxscan (s : State) (c : Nat) (q : Queued) (h : Hdr) (o : MxArgs) : Issued :=
  let k0 := getCore s c
  let m := o.mm.toNat + 1
  let n := o.nn.toNat + 1
  let nb := ceilDiv ((o.kk.toNat + 1) * 16) 32
  let rr := ceilDiv nb 128
  let sA := mxSlot k0 o.sa q.sc.r 0
  let sW := mxSlot k0 o.sw q.sc.r 1
  let sO := mxSlot k0 o.so q.sc.r 2
  let e := if o.is then m else n
  let nr := if o.is then n else m
  let ro := ceilDiv (16 * e) 256
  let uA := mxUse sA .read o.sa.flag (m * rr)
  let uW := mxUse sW .read o.sw.flag (n * rr)
  let uO := mxUse sO .write o.so.flag (nr * ro)
  withSlots s c 3 q.addr h.timed [uA, uW, uO] (fun s =>
    if tooSmall sA (m * rr) then .stop [illegalRec s c q.addr 95]
    else if tooSmall sW (n * rr) then .stop [illegalRec s c q.addr 86]
    else if tooSmall sO (nr * ro) then .stop [illegalRec s c q.addr 77]
    else
      let k := getCore s c
      let (sc, la) := readInOrder sA 0 0 (newSched k.cyc) k.cyc (List.range (m * rr))
      let (sc, lw) := readInOrder sW 1 0 sc k.cyc (List.range (n * rr))
      let scanned := k.cyc + ceilDiv (m * n * nb) 2048
      let w := ceilDiv (16 * e) (256 * Nat.max 1 sO.e.bankCount.toNat)
      let sc := (List.range nr).foldl (fun sc x =>
        let at_ := scanned + 3 + x * w
        (writeOut sO 256 (opIx 0 x) 0 { sc with evs := sc.evs ++ [(at_ - 1, .form 2 0 x)] } at_ (x * ro * 256) (16 * e)).1) sc
      let fin := scanned + nr * w + 3
      .go (flyMx (mxAfter s c fin) c q [sA, sW, sO] [(uA, la), (uW, lw), (uO, fin - 1)] sc (fin - 1) fin false))

/-- The course of an MXCMB (R120): `per` pairs of rows are read a cycle from cycle `cur` on, and each is written 6 cycles later. -/
def cmbRows (sX sY : SlotView) (e per n cur : Nat) : Sched :=
  let rs := List.range n
  let cs := rs.map (fun r => cur + r / per)
  rs.foldl (fun sc r =>
    let at_ := cur + r / per + 6
    (writeOut sY 256 (opIx 0 r) 0 { sc with evs := sc.evs ++ [(at_ - 1, .form 2 0 r)] } at_ (256 * r) (Nat.min 256 (16 * e - 256 * r))).1)
    (addReads sY 1 0 rs cs (addReads sX 0 0 rs cs (newSched cur)))

/-- Issue MXCMB (R120): y_i = combine(y_i, x_i). -/
def issueMxcmb (s : State) (c : Nat) (q : Queued) (h : Hdr) (o : MxArgs) : Issued :=
  let k0 := getCore s c
  let e := (o.mm.toNat + 1) * (o.nn.toNat + 1)
  let n := ceilDiv (16 * e) 256
  let sX := mxSlot k0 o.sa q.sc.r 0
  let sY := mxSlot k0 o.so q.sc.r 2
  let uX := mxUse sX .read o.sa.flag n
  let uY := mxUse sY .update o.so.flag n
  withSlots s c 3 q.addr h.timed [uX, uY] (fun s =>
    if tooSmall sX n then .stop [illegalRec s c q.addr 95]
    else if tooSmall sY n then .stop [illegalRec s c q.addr 77]
    else
      let k := getCore s c
      let per := Nat.max 1 (Nat.min sX.e.bankCount.toNat sY.e.bankCount.toNat)
      let rc := ceilDiv (16 * e) (256 * per)
      let fin := k.cyc + rc + 6
      .go (flyMx (mxAfter s c fin) c q [sX, sY] [(uX, k.cyc + rc - 1), (uY, fin - 1)] (cmbRows sX sY e per n k.cyc) (fin - 1) fin false))

/-- The rows of an MXCVT (R121): row `i` is read from cycle `cur + i × u` on and written so that its last part follows 5 cycles after
its span of `u` cycles; each part is formed in the cycle in which it is written. -/
def cvtRows (sA sO : SlotView) (m ri ro rb u cur len : Nat) : Sched :=
  (List.range m).foldl (fun sc i =>
    let (sc, e) := readInOrder sA 0 0 sc (cur + i * u) (rangeFrom (i * ri) ri)
    let start := Nat.max (cur + i * u + u + 5 - rb) sc.outAt
    let sc := { sc with evs := sc.evs ++ (rangeFrom start rb).map (fun cy => (cy, .form 2 0 i)), strmLast := e }
    let (sc, e) := writeOut sO 128 (opIx 0 i) 0 sc start (i * ro * 128) len
    { sc with outAt := e + 1 }) (newSched cur)

/-- Issue MXCVT (R121): rows of entries to output rows. -/
def issueMxcvt (s : State) (c : Nat) (q : Queued) (h : Hdr) (o : MxArgs) : Issued :=
  let k0 := getCore s c
  let m := o.mm.toNat + 1
  let n := o.nn.toNat + 1
  let len := outBytes o.fo.toNat n true
  let ri := ceilDiv (16 * n) 256
  let ro := ceilDiv len 128
  let sA := mxSlot k0 o.sa q.sc.r 0
  let sO := mxSlot k0 o.so q.sc.r 2
  let sC := mxSlot k0 o.sc q.sc.r 3
  let nC := scRows m n
  let uA := mxUse sA .read o.sa.flag (m * ri)
  let uO := mxUse sO .write o.so.flag (m * ro)
  let uC := if o.pcs then [mxUse sC .read o.sc.flag nC] else []
  withSlots s c 3 q.addr h.timed ([uA, uO] ++ uC) (fun s =>
    if tooSmall sA (m * ri) then .stop [illegalRec s c q.addr 95]
    else if tooSmall sO (m * ro) then .stop [illegalRec s c q.addr 77]
    else if o.pcs && tooSmall sC nC then .stop [illegalRec s c q.addr 68]
    else
      let k := getCore s c
      let ra := ceilDiv (16 * n) (256 * Nat.max 1 sA.e.bankCount.toNat)
      let rb := ceilDiv ro (Nat.max 1 sO.e.bankCount.toNat)
      let sc := cvtRows sA sO m ri ro rb (Nat.max ra rb) k.cyc len
      let (sc, lastC) := if o.pcs then readScales sC nC k.cyc sc.outAt 0 sc else (sc, 0)
      let fin := Nat.max sc.outAt (lastC + 1)
      .go (flyMx (mxAfter s c fin) c q [sA, sA, sO, sC] ([(uA, sc.strmLast)] ++ uC.map (fun x => (x, lastC)) ++ [(uO, fin - 1)])
            sc (fin - 1) fin false))

/-- Try to issue the MX class instruction at the head of the queue: only an MX begins before the one before it has ended (R52, R53). -/
def issueMx (s : State) (c : Nat) (q : Queued) : Issued :=
  let free := decide ((getCore s c).mxOut ≤ (getCore s c).cyc)
  match q.ins with
  | .mx _ h o => issueMxOp s c q h o
  | .mxscan _ h o => if free then issueMxscan s c q h o else .hold
  | .mxcmb _ h o => if free then issueMxcmb s c q h o else .hold
  | .mxcvt _ h o => if free then issueMxcvt s c q h o else .hold
  | _ => .go s

end Sys2Proof.Machine
end

