-- ==== Sys2Proof/Machine/Engine.lean ====
section
/-! DEFINITION. The queues of a core's engines (R99), the passing of core cycles, and the dispatch of one
instruction by the Sequencer (R98 to R105, R478). -/

namespace Sys2Proof.Machine

open Sys2Proof

/-! ## Issue from the queues (R79 to R83, R99) -/

/-- The queue of an engine (R71 codes). -/
def queueOf (k : Core) (e : Nat) : List Queued := match e with | 1 => k.qLd | 2 => k.qSt | 3 => k.qMx | _ => k.qVx

/-- Put the queue of an engine. -/
def setQueue (k : Core) (e : Nat) (q : List Queued) : Core :=
  match e with | 1 => { k with qLd := q } | 2 => { k with qSt := q } | 3 => { k with qMx := q } | _ => { k with qVx := q }

/-- Whether an engine cannot issue in this cycle: the Loader and the Storer while an instruction of theirs is
under way, the Matrix and Vector engines while they are occupied (R53, R130, log 7). -/
def engineBusy (k : Core) (e : Nat) : Bool :=
  match e with
  | 3 => decide (k.cyc < k.busyMx)
  | 4 => decide (k.cyc < k.busyVx)
  | _ => k.flights.any (fun f => f.eng == e)

/-- The header of a queued instruction of the MX and VX classes. -/
def hdrOfIns (i : Instr) : Option Hdr :=
  match i with
  | .mx _ h _ => some h | .mxscan _ h _ => some h | .mxcmb _ h _ => some h | .mxcvt _ h _ => some h
  | .vld _ h _ => some h | .vst _ h _ => some h | .vadd _ h _ => some h | .vsub _ h _ => some h | .vmul _ h _ => some h
  | .vfma _ h _ => some h | .vmax _ h _ => some h | .vmin _ h _ => some h | .vcmp _ h _ => some h | .vsel _ h _ => some h
  | .vspl _ h _ => some h | .vcvt _ h _ => some h | .vexp2 _ h _ => some h | .vrcp _ h _ => some h | .vrsq _ h _ => some h
  | .vrot _ h _ => some h | .vbias _ h _ => some h | .vmsk _ h _ => some h | .vsmx _ h _ => some h | .vred _ h _ => some h
  | .vrng _ h _ => some h
  | _ => none

/-- The core cycle at which a timed form is due (R82); none for a wait form. -/
def timedAt (q : Queued) : Option Nat :=
  match hdrOfIns q.ins with
  | some h => if h.timed then some (q.mark + h.offset.toNat) else none
  | none => none

/-- Try to issue an instruction at the head of engine `e`. -/
def issueOf (s : State) (c e : Nat) (q : Queued) : Issued :=
  match e with
  | 3 => issueMx s c q
  | 4 => issueVx s c q
  | _ => match q.ins with
    | .ld _ _ o => issueLdSt s c 1 q o
    | .ldkv _ _ o => issueKv s c 1 q o
    | .ldsk _ _ o => issueKv s c 1 q o
    | .st _ _ o => issueLdSt s c 2 q o
    | .stkv _ _ o => issueKv s c 2 q o
    | .stsh _ _ _ => issueStsh s c q
    | _ => .go s

/-- Count a timed form issued after its offset (R83). -/
def countSlip (k : Core) (e : Nat) (late : Bool) : Core :=
  if !late then k else if e = 3 then { k with slipMx := k.slipMx + 1 } else { k with slipVx := k.slipVx + 1 }

/-- Engine `e` issues the head of its queue if it can in this cycle. -/
def tryIssue (s : State) (c e : Nat) : State :=
  let k := getCore s c
  match queueOf k e with
  | [] => s
  | q :: rest =>
    let early := match timedAt q with | some t => decide (k.cyc < t) | none => false
    let late := match timedAt q with | some t => decide (t < k.cyc) | none => false
    if engineBusy k e || early then s
    else match issueOf s c e q with
      | .hold => s
      | .stop rs => stopNow (setCore s c (setQueue k e rest)) c e q.addr rs
      | .go s => let k := getCore s c; setCore s c (countSlip (setQueue k e rest) e late)

/-- Every engine issues what it can in this cycle, in the order of the engine codes (R78). -/
def pump (s : State) (c : Nat) : State := tryIssue (tryIssue (tryIssue (tryIssue s c 1) c 2) c 3) c 4

/-- One cycle of core `c` in which the Sequencer dispatches nothing more. -/
def coreCycle (s : State) (c : Nat) : State := endCycle (pump s c) c

/-! ## Waiting -/

/-- Whether a core has cycles: it runs a kernel, or its kernel drains after END. -/
def clocked (k : Core) : Bool := k.run == .running || k.run == .ended

/-- The last core cycle in which something is known to change by itself. -/
def horizon (k : Core) : Nat :=
  let regs := ((k.regAt ++ k.vecAt).map (·.2)).filter (fun x => decide (x < never))
  let fl := (k.flights.filter (fun f => f.mem.isNone)).flatMap (fun f => f.due :: f.evs.map (·.1))
  let heads := ((k.qMx.take 1) ++ (k.qVx.take 1)).filterMap timedAt
  let ev := k.flights.flatMap (fun f => f.evs.map (·.1))
  ([k.sqAt, k.busyMx, k.busyVx] ++ regs ++ fl ++ heads ++ ev).foldl Nat.max 0

/-- Core cycles pass until a condition holds or nothing changes by itself any more. -/
def waitFor (c : Nat) (ok : State → Bool) : Nat → State → State
  | 0, s => s
  | n + 1, s =>
    let k := getCore s c
    if ok s || !clocked k || decide (horizon k + 1 < k.cyc) then s else waitFor c ok n (coreCycle s c)

/-- Bound on the cycles a wait counts: two of the longest timed offset. -/
def waitFuel : Nat := 131072

/-! ## Dispatch (R99 to R102) -/

/-- The address after `next`, with the loop stack (R104, R105): at the end of a body the loop goes back to its
start until its count is spent. -/
def loopNext (ls : List LoopEntry) (next : Nat) : Nat × List LoopEntry :=
  match ls with
  | [] => (next, [])
  | l :: t =>
    if next = l.stop + 1 then (if 1 < l.left then (l.start, { l with left := l.left - 1 } :: t) else loopNext t next)
    else (next, l :: t)

/-- The Sequencer has dispatched an instruction and goes on at `next`. -/
def retire (k : Core) (next : Nat) : Core :=
  let (pc, ls) := loopNext k.loops next
  { k with pc := pc, loops := ls, retired := k.retired + 1, sqAt := k.cyc + 1, mapped := false }

/-- Whether scalar register `r` is not pending (R101). -/
def regFree (k : Core) (r : BitVec 5) : Bool := r == 0 || decide (tget 0 k.regAt r.toNat ≤ k.cyc)

/-- Whether every register of a list is not pending. -/
def regsFree (k : Core) (rs : List (BitVec 5)) : Bool := rs.all (regFree k)

/-- Whether the Sequencer of core `c` can dispatch in this cycle. -/
def seqFree (c : Nat) (s : State) : Bool :=
  let k := getCore s c
  k.run == .running && decide (k.sqAt ≤ k.cyc)

/-- An instruction whose guard fails (R100, R478). -/
def passOver (s : State) (c : Nat) (isEnd : Bool) : State :=
  let k := getCore s c
  let k' := retire k (k.pc + 1)
  let s' := setCore s c k'
  settle (pump (if isEnd && k'.pc == k.ibuf.length then stopNow s' c 0 k.pc [illegalRec s c k.pc 118] else s') c) c

/-- Dispatch of instruction `i` by the Sequencer of core `c`, in the first cycle in which it can (R99 to R101):
`rs` are the scalar registers it reads or writes, `ok` what it waits for, `act` what it does. An instruction
that waits for something the core cannot bring about leaves the state as it is (log 6). -/
def dispatchAt (s : State) (c : Nat) (i : Instr) (h : Hdr) (rs : List (BitVec 5)) (ok : State → Bool) (act : State → State) : State :=
  if (getCore s c).run ≠ .running then s
  else
    let s1 := waitFor c (seqFree c) waitFuel s
    if !seqFree c s1 then s1
    else match illegalField i with
      | some b => settle (pump (stopNow s1 c 0 (getCore s1 c).pc [illegalRec s1 c (getCore s1 c).pc b]) c) c
      | none =>
        if !guardOn (getCore s1 c) h then passOver s1 c (match i with | .end_ _ _ => true | _ => false)
        else
          let ready := fun (s : State) => seqFree c s && regsFree (getCore s c) rs && ok s
          let s2 := waitFor c ready waitFuel s1
          if ready s2 then settle (pump (act s2) c) c
          else if (getCore s2 c).run ≠ .running then s2 else s

/-- The row of an instruction: a core the module does not have is a fault. -/
def seqRow (s : State) (c : Nat) (i : Instr) (h : Hdr) (rs : List (BitVec 5)) (ok : State → Bool) (act : State → State) :
    Host.Outcome State Fault Refusal :=
  if 128 ≤ c then .fault .noSuchUnit else .next (dispatchAt s c i h rs ok act)

/-- The Loader or the Storer queue moves (R358). -/
def noteMove (k : Core) (e : Nat) : Core :=
  match e with | 1 => { k with ldMove := k.cyc } | 2 => { k with stMove := k.cyc } | _ => k

/-- Put an instruction in the queue of an engine (R99), with its scalars as dispatch reads them; `pend` is a
scalar register that it will write (R101). -/
def enqueueAct (c e : Nat) (i : Instr) (cap : Core → Captured) (pend : Option (BitVec 5)) (s : State) : State :=
  let k := getCore s c
  let q : Queued := { ins := i, addr := k.pc, sc := cap k, mark := k.markAt }
  let k := if (queueOf k e).isEmpty && !engineBusy k e then noteMove k e else k
  let k := setQueue k e (queueOf k e ++ [q])
  let k := match pend with
    | some r => if r = 0 then k else { k with regAt := tset k.regAt r.toNat never }
    | none => k
  setCore s c (retire k (k.pc + 1))

/-- Whether the queue of an engine has room (R99). -/
def queueRoom (c e : Nat) (s : State) : Bool := decide ((queueOf (getCore s c) e).length < 16)

/-- The row of an instruction of an engine (R99). -/
def engineRow (s : State) (c : Nat) (i : Instr) (h : Hdr) (e : Nat) (rs : List (BitVec 5)) (cap : Core → Captured) (pend : Option (BitVec 5)) :
    Host.Outcome State Fault Refusal :=
  seqRow s c i h (rs ++ pend.toList) (queueRoom c e) (enqueueAct c e i cap pend)

/-! ## The last access (R76) -/

/-- The oldest instruction of an engine that is under way. -/
def oldest (k : Core) (e : Nat) : Option Flight := k.flights.find? (fun f => f.eng == e)

/-- The cycles pass until the oldest instruction of engine `e` of core `c` has no event left, and its last access has passed. -/
def flyOut (s : State) (c e : Nat) : State :=
  match oldest (getCore s c) e with
  | none => s
  | some f =>
    let n := (f.evs.map (·.1)).foldl Nat.max f.due
    waitFor c (fun s => decide (n < (getCore s c).cyc)) waitFuel s

/-- The accesses of a memory instruction of engine `e`, when memory has answered (R84, log 7): of a store, the reads of its rows
first. -/
def memAccess (s : State) (c e : Nat) (q : Queued) : State :=
  let s1 := match oldest (getCore s c) e with
    | none => s
    | some f => finishMem (setCore s c (noteMove (getCore s c) e)) c e f q
  if (getCore s1 c).run = .stopped then s1
  else
    let s2 := flyOut s1 c e
    match oldest (getCore s2 c) e with
    | none => s2
    | some f =>
      if f.mem.isSome && f.job.isSome && clocked (getCore s2 c) then flyOut (finishMem s2 c e f q) c e else s2

/-- The last access of the oldest instruction of engine `e` of core `c` (R76): a memory instruction makes its accesses from this cycle
on; any other has made them when the cycles to its last one have passed. -/
def lastAccess (s : State) (c e : Nat) : State :=
  let s1 := waitFor c (fun s => (oldest (getCore s c) e).isSome) waitFuel (if clocked (getCore s c) then pump s c else s)
  match oldest (getCore s1 c) e with
  | none => s
  | some f =>
    if !clocked (getCore s1 c) then s1
    else match f.mem with
      | some q => memAccess s1 c e q
      | none => waitFor c (fun s => decide (f.due < (getCore s c).cyc)) waitFuel s1

end Sys2Proof.Machine
end

