-- ==== Sys2Proof/Machine/Sq.lean ====
section
/-! DEFINITION. The meanings of the SQ class (R98, R103 to R106, R478): one Sequencer instruction each, dispatched
in the first core cycle in which it can be. -/

namespace Sys2Proof.Machine

open Sys2Proof

/-- Operand B of an SQ instruction: IMM when IF is 1, else s[SB] (R104). -/
def opB (k : Core) (o : SqArgs) : W64 := if o.immf then o.imm else sreg k o.sb

/-- Scalar registers an ALU form reads and writes. -/
def aluRegs (o : SqArgs) : List (BitVec 5) := [o.sd, o.sa] ++ (if o.immf then [] else [o.sb])

/-- Write s[SD] and go on (R104). -/
def sdAct (c : Nat) (sd : BitVec 5) (v : State → W64) (s : State) : State :=
  let k := getCore s c
  setCore s c (retire (setSreg k sd (v s)) (k.pc + 1))

/-- An ALU form: s[SD] = f(s[SA], B), usable in the next cycle (R104). -/
def aluRow (s : State) (c : Nat) (i : Instr) (h : Hdr) (o : SqArgs) (f : W64 → W64 → W64) : Host.Outcome State Fault Refusal :=
  seqRow s c i h (aluRegs o) (fun _ => true) (sdAct c o.sd (fun s => f (sreg (getCore s c) o.sa) (opB (getCore s c) o)))

/-- Write predicate PD and go on (R104). -/
def pdAct (c : Nat) (pd : BitVec 3) (v : State → Bool) (s : State) : State :=
  let k := getCore s c
  setCore s c (retire (setPreg k pd (v s)) (k.pc + 1))

/-- Only go on. -/
def goOn (c : Nat) (s : State) : State := let k := getCore s c; setCore s c (retire k (k.pc + 1))

/-- NOP (R104). -/
def execNop (c : Nat) (h : Hdr) (s : State) : Host.Outcome State Fault Refusal := seqRow s c (.nop c h) h [] (fun _ => true) (goOn c)

/-- END takes effect (R103): the Sequencer dispatches nothing more; the kernel ends when the core has drained. -/
def endAct (c : Nat) (s : State) : State :=
  let k := getCore s c
  setCore s c { k with run := .ended, retired := k.retired + 1, sqAt := k.cyc + 1, mapped := false }

/-- END (R103). -/
def execEnd (c : Nat) (h : Hdr) (s : State) : Host.Outcome State Fault Refusal := seqRow s c (.end_ c h) h [] (fun _ => true) (endAct c)

/-- Whether the queues of a core are empty and every instruction has made its last access (R69, R103). -/
def drainedCore (k : Core) : Bool :=
  k.qLd.isEmpty && k.qSt.isEmpty && k.qMx.isEmpty && k.qVx.isEmpty && k.flights.all (fun f => f.mem.isNone && decide (f.due < k.cyc))

/-- Note that core `c` has ended its share of its launch. -/
def launchCoreEnds (s : State) (c : Nat) : State :=
  match (getCore s c).ctx with
  | none => s
  | some x =>
    let ls := updAll (fun l => l.id == x.launch)
      (fun l => { l with ended := addSorted c l.ended, maxCyc := Nat.max l.maxCyc (getCore s c).cyc }) s.launches
    { s with launches := ls }

/-- The kernel of a core ends once END has taken effect and the core has drained (R103). -/
def kernelEnds (s : State) (c : Nat) : State :=
  let s1 := waitFor c (fun s => drainedCore (getCore s c)) waitFuel s
  let k := getCore s1 c
  if k.run == .ended && drainedCore k then
    let s := launchCoreEnds s1 c
    setCore s c { getCore s c with run := .idle, flights := [], ctx := none, lastPart := (getCore s c).ctx.map (·.part) }
  else if k.run == .stopped then s1 else s

/-- KERNEL_END (R103): the kernel of a core ends, and with the last core its launch (LAUNCH_END). -/
def execKernelEnd (c : Nat) (s : State) : Host.Outcome State Fault Refusal :=
  if 128 ≤ c then .fault .noSuchUnit
  else if (getCore s c).run = .ended then .next (kernelEnds s c) else .next s

/-- MOVI (R104). -/
def execMovi (c : Nat) (h : Hdr) (o : SqArgs) (s : State) : Host.Outcome State Fault Refusal :=
  seqRow s c (.movi c h o) h [o.sd] (fun _ => true) (sdAct c o.sd (fun _ => o.imm))

/-- ADD: 64-bit, wrapping (R104). -/
def execAdd (c : Nat) (h : Hdr) (o : SqArgs) (s : State) : Host.Outcome State Fault Refusal :=
  aluRow s c (.add c h o) h o (· + ·)

/-- SUB: 64-bit, wrapping (R104). -/
def execSub (c : Nat) (h : Hdr) (o : SqArgs) (s : State) : Host.Outcome State Fault Refusal :=
  aluRow s c (.sub c h o) h o (· - ·)

/-- MUL (R104): the low 64 bits, usable 3 cycles after dispatch. -/
def mulAct (c : Nat) (o : SqArgs) (s : State) : State :=
  let k := getCore s c
  let k := setSreg k o.sd (sreg k o.sa * opB k o)
  setCore s c (retire { k with regAt := tset k.regAt o.sd.toNat (k.cyc + 3) } (k.pc + 1))

/-- MUL (R104). -/
def execMul (c : Nat) (h : Hdr) (o : SqArgs) (s : State) : Host.Outcome State Fault Refusal :=
  seqRow s c (.mul c h o) h (aluRegs o) (fun _ => true) (mulAct c o)

/-- AND (R104). -/
def execAnd (c : Nat) (h : Hdr) (o : SqArgs) (s : State) : Host.Outcome State Fault Refusal :=
  aluRow s c (.and c h o) h o (· &&& ·)

/-- OR (R104). -/
def execOr (c : Nat) (h : Hdr) (o : SqArgs) (s : State) : Host.Outcome State Fault Refusal :=
  aluRow s c (.or c h o) h o (· ||| ·)

/-- XOR (R104). -/
def execXor (c : Nat) (h : Hdr) (o : SqArgs) (s : State) : Host.Outcome State Fault Refusal :=
  aluRow s c (.xor c h o) h o (· ^^^ ·)

/-- SHL: the shift count is B[5:0] (R104). -/
def execShl (c : Nat) (h : Hdr) (o : SqArgs) (s : State) : Host.Outcome State Fault Refusal :=
  aluRow s c (.shl c h o) h o (fun a b => a <<< (b.toNat % 64))

/-- SHR: fills with zeros (R104). -/
def execShr (c : Nat) (h : Hdr) (o : SqArgs) (s : State) : Host.Outcome State Fault Refusal :=
  aluRow s c (.shr c h o) h o (fun a b => a >>> (b.toNat % 64))

/-- SRA: fills with the sign bit (R104). -/
def execSra (c : Nat) (h : Hdr) (o : SqArgs) (s : State) : Host.Outcome State Fault Refusal :=
  aluRow s c (.sra c h o) h o (fun a b => a.sshiftRight (b.toNat % 64))

/-- MIN: signed (R104). -/
def execMin (c : Nat) (h : Hdr) (o : SqArgs) (s : State) : Host.Outcome State Fault Refusal :=
  aluRow s c (.min c h o) h o (fun a b => if b.slt a then b else a)

/-- MAX: signed (R104). -/
def execMax (c : Nat) (h : Hdr) (o : SqArgs) (s : State) : Host.Outcome State Fault Refusal :=
  aluRow s c (.max c h o) h o (fun a b => if a.slt b then b else a)

/-- SETP (R104). -/
def execSetp (c : Nat) (h : Hdr) (o : SqArgs) (s : State) : Host.Outcome State Fault Refusal :=
  seqRow s c (.setp c h o) h ((aluRegs o).tail) (fun _ => true)
    (pdAct c o.pd (fun s => setpCond o.fn.toNat (sreg (getCore s c) o.sa) (opB (getCore s c) o)))

/-- PLOG (R104). -/
def execPlog (c : Nat) (h : Hdr) (o : SqArgs) (s : State) : Host.Outcome State Fault Refusal :=
  seqRow s c (.plog c h o) h [] (fun _ => true)
    (pdAct c o.pd (fun s => plogFn o.fn.toNat (preg (getCore s c) o.pa) (preg (getCore s c) o.pb)))

/-- The special value SPR selects by FN (R104). -/
def sprVal (s : State) (c fn : Nat) : W64 :=
  let x := (getCore s c).ctx
  match fn with
  | 0 => BitVec.ofNat 64 (c % 16)
  | 1 => BitVec.ofNat 64 (c / 16)
  | 2 => BitVec.ofNat 64 ((x.map (·.part)).getD 0)
  | 3 => BitVec.ofNat 64 ((x.map (·.launch)).getD 0)
  | 4 => BitVec.ofNat 64 s.time.ftime
  | 5 => BitVec.ofNat 64 ((x.map (·.handle.toNat)).getD 0)
  | _ => BitVec.ofNat 64 ((x.map (·.pset.toNat)).getD 0)

/-- SPR (R104). -/
def execSpr (c : Nat) (h : Hdr) (o : SqArgs) (s : State) : Host.Outcome State Fault Refusal :=
  seqRow s c (.spr c h o) h [o.sd] (fun _ => true) (sdAct c o.sd (fun s => sprVal s c o.fn.toNat))

/-- BR taken (R104): the next instruction is dispatched 3 cycles later. -/
def brAct (c : Nat) (o : SqArgs) (s : State) : State :=
  let k := getCore s c
  let k' := retire k (BitVec.ofNat 64 k.pc + o.imm).toNat
  setCore s c { k' with sqAt := k.cyc + 3 }

/-- BR (R104). -/
def execBr (c : Nat) (h : Hdr) (o : SqArgs) (s : State) : Host.Outcome State Fault Refusal :=
  seqRow s c (.br c h o) h [] (fun _ => true) (brAct c o)

/-- LOOP (R104, R105): the count is read once at entry; a count of 0 skips the body. -/
def loopAct (c : Nat) (o : SqArgs) (s : State) : State :=
  let k := getCore s c
  let n := bits o.imm 15 0
  let count := bits (sreg k o.sa) 31 0
  if count = 0 ∨ n = 0 then setCore s c (retire k (k.pc + n + 1))
  else
    let k' := retire k (k.pc + 1)
    setCore s c { k' with pc := k.pc + 1, loops := ⟨k.pc + 1, k.pc + n, count⟩ :: k.loops }

/-- LOOP (R104, R105). -/
def execLoop (c : Nat) (h : Hdr) (o : SqArgs) (s : State) : Host.Outcome State Fault Refusal :=
  seqRow s c (.loop c h o) h [o.sa] (fun _ => true) (loopAct c o)

/-- Whether an attempt to issue waits. -/
def holds (x : Issued) : Bool := match x with | .hold => true | _ => false

/-- Carry out a Sequencer instruction that issues by itself (R80, R97). -/
def seqIssueAct (c : Nat) (iss : State → Issued) (s : State) : State :=
  match iss s with
  | .hold => s
  | .stop rs => stopNow s c 0 (getCore s c).pc rs
  | .go s => goOn c s

/-- LDS (R104, R106). -/
def execLds (c : Nat) (h : Hdr) (o : SqArgs) (s : State) : Host.Outcome State Fault Refusal :=
  seqRow s c (.lds c h o) h [o.sd, o.sa] (fun s => !holds (issueLds s c (.lds c h o) o)) (seqIssueAct c (fun s => issueLds s c (.lds c h o) o))

/-- STS (R104, R106). -/
def execSts (c : Nat) (h : Hdr) (o : SqArgs) (s : State) : Host.Outcome State Fault Refusal :=
  seqRow s c (.sts c h o) h [o.sa, o.sb] (fun s => !holds (issueSts s c o)) (seqIssueAct c (fun s => issueSts s c o))

/-- SHW (R104, R106): the register is written at its last access. -/
def execShw (c : Nat) (h : Hdr) (o : SqArgs) (s : State) : Host.Outcome State Fault Refusal :=
  seqRow s c (.shw c h o) h [o.sd, o.sa] (fun _ => true) (seqIssueAct c (fun s => issueShw s c (.shw c h o) o))

end Sys2Proof.Machine
end

