-- ==== Sys2Proof/Machine/EngineRows.lean ====
section
/-! DEFINITION. The meanings of the LD, ST, MX and VX classes (R107 to R130): dispatch into the queue of the
engine (R99), from which the engine issues in order; and INSTRUCTION_LAST_ACCESS (R76). -/

namespace Sys2Proof.Machine

open Sys2Proof

/-- Scalars of an LD or ST class instruction (R107). -/
def ldCap (o : LdArgs) (k : Core) : Captured := ⟨sreg k o.sa, sreg k o.sb, sreg k o.sc, 0⟩

/-- Row offsets of an MX class instruction (R113). -/
def mxCap (o : MxArgs) (k : Core) : Captured := ⟨0, 0, 0, sreg k o.sr⟩

/-- Scalars of a VX instruction (R122, R129). -/
def vxCap (o : VxArgs) (k : Core) : Captured := ⟨sreg k o.sa, sreg k o.sb, sreg k o.vc, sreg k o.sr⟩

/-- LD (R108). -/
def execLd (c : Nat) (h : Hdr) (o : LdArgs) (s : State) : Host.Outcome State Fault Refusal :=
  engineRow s c (.ld c h o) h 1 [o.sa, o.sb, o.sc] (ldCap o) none

/-- LDKV (R110). -/
def execLdkv (c : Nat) (h : Hdr) (o : LdArgs) (s : State) : Host.Outcome State Fault Refusal :=
  engineRow s c (.ldkv c h o) h 1 [o.sa, o.sb, o.sc] (ldCap o) (some o.sd)

/-- LDSK (R110). -/
def execLdsk (c : Nat) (h : Hdr) (o : LdArgs) (s : State) : Host.Outcome State Fault Refusal :=
  engineRow s c (.ldsk c h o) h 1 [o.sa, o.sb, o.sc] (ldCap o) (some o.sd)

/-- ST (R108). -/
def execSt (c : Nat) (h : Hdr) (o : LdArgs) (s : State) : Host.Outcome State Fault Refusal :=
  engineRow s c (.st c h o) h 2 [o.sa, o.sb, o.sc] (ldCap o) none

/-- STKV (R111). -/
def execStkv (c : Nat) (h : Hdr) (o : LdArgs) (s : State) : Host.Outcome State Fault Refusal :=
  engineRow s c (.stkv c h o) h 2 [o.sa, o.sb, o.sc] (ldCap o) (some o.sd)

/-- STSH (R112). -/
def execStsh (c : Nat) (h : Hdr) (o : LdArgs) (s : State) : Host.Outcome State Fault Refusal :=
  engineRow s c (.stsh c h o) h 2 [o.sa, o.sb] (ldCap o) none

/-- MX (R113 to R118). -/
def execMx (c : Nat) (h : Hdr) (o : MxArgs) (s : State) : Host.Outcome State Fault Refusal :=
  engineRow s c (.mx c h o) h 3 [o.sr] (mxCap o) none

/-- MXSCAN (R119). -/
def execMxscan (c : Nat) (h : Hdr) (o : MxArgs) (s : State) : Host.Outcome State Fault Refusal :=
  engineRow s c (.mxscan c h o) h 3 [o.sr] (mxCap o) none

/-- MXCMB (R120). -/
def execMxcmb (c : Nat) (h : Hdr) (o : MxArgs) (s : State) : Host.Outcome State Fault Refusal :=
  engineRow s c (.mxcmb c h o) h 3 [o.sr] (mxCap o) none

/-- MXCVT (R121). -/
def execMxcvt (c : Nat) (h : Hdr) (o : MxArgs) (s : State) : Host.Outcome State Fault Refusal :=
  engineRow s c (.mxcvt c h o) h 3 [o.sr] (mxCap o) none

/-- VLD (R123). -/
def execVld (c : Nat) (h : Hdr) (o : VxArgs) (s : State) : Host.Outcome State Fault Refusal :=
  engineRow s c (.vld c h o) h 4 [o.sr] (vxCap o) none

/-- VST (R123). -/
def execVst (c : Nat) (h : Hdr) (o : VxArgs) (s : State) : Host.Outcome State Fault Refusal :=
  engineRow s c (.vst c h o) h 4 [o.sr] (vxCap o) none

/-- VADD (R123). -/
def execVadd (c : Nat) (h : Hdr) (o : VxArgs) (s : State) : Host.Outcome State Fault Refusal :=
  engineRow s c (.vadd c h o) h 4 [] (vxCap o) none

/-- VSUB (R123). -/
def execVsub (c : Nat) (h : Hdr) (o : VxArgs) (s : State) : Host.Outcome State Fault Refusal :=
  engineRow s c (.vsub c h o) h 4 [] (vxCap o) none

/-- VMUL (R123). -/
def execVmul (c : Nat) (h : Hdr) (o : VxArgs) (s : State) : Host.Outcome State Fault Refusal :=
  engineRow s c (.vmul c h o) h 4 [] (vxCap o) none

/-- VFMA (R123). -/
def execVfma (c : Nat) (h : Hdr) (o : VxArgs) (s : State) : Host.Outcome State Fault Refusal :=
  engineRow s c (.vfma c h o) h 4 [] (vxCap o) none

/-- VMAX (R123). -/
def execVmax (c : Nat) (h : Hdr) (o : VxArgs) (s : State) : Host.Outcome State Fault Refusal :=
  engineRow s c (.vmax c h o) h 4 [] (vxCap o) none

/-- VMIN (R123). -/
def execVmin (c : Nat) (h : Hdr) (o : VxArgs) (s : State) : Host.Outcome State Fault Refusal :=
  engineRow s c (.vmin c h o) h 4 [] (vxCap o) none

/-- VCMP (R123). -/
def execVcmp (c : Nat) (h : Hdr) (o : VxArgs) (s : State) : Host.Outcome State Fault Refusal :=
  engineRow s c (.vcmp c h o) h 4 [] (vxCap o) none

/-- VSEL (R123). -/
def execVsel (c : Nat) (h : Hdr) (o : VxArgs) (s : State) : Host.Outcome State Fault Refusal :=
  engineRow s c (.vsel c h o) h 4 [] (vxCap o) none

/-- VSPL (R123). -/
def execVspl (c : Nat) (h : Hdr) (o : VxArgs) (s : State) : Host.Outcome State Fault Refusal :=
  engineRow s c (.vspl c h o) h 4 (if bit o.fn 0 then [] else [o.sa]) (vxCap o) none

/-- VCVT (R123). -/
def execVcvt (c : Nat) (h : Hdr) (o : VxArgs) (s : State) : Host.Outcome State Fault Refusal :=
  engineRow s c (.vcvt c h o) h 4 [] (vxCap o) none

/-- VEXP2 (R124). -/
def execVexp2 (c : Nat) (h : Hdr) (o : VxArgs) (s : State) : Host.Outcome State Fault Refusal :=
  engineRow s c (.vexp2 c h o) h 4 [] (vxCap o) none

/-- VRCP (R124). -/
def execVrcp (c : Nat) (h : Hdr) (o : VxArgs) (s : State) : Host.Outcome State Fault Refusal :=
  engineRow s c (.vrcp c h o) h 4 [] (vxCap o) none

/-- VRSQ (R124). -/
def execVrsq (c : Nat) (h : Hdr) (o : VxArgs) (s : State) : Host.Outcome State Fault Refusal :=
  engineRow s c (.vrsq c h o) h 4 [] (vxCap o) none

/-- VROT (R126). -/
def execVrot (c : Nat) (h : Hdr) (o : VxArgs) (s : State) : Host.Outcome State Fault Refusal :=
  engineRow s c (.vrot c h o) h 4 [o.sa, o.sr] (vxCap o) none

/-- VBIAS (R127). -/
def execVbias (c : Nat) (h : Hdr) (o : VxArgs) (s : State) : Host.Outcome State Fault Refusal :=
  engineRow s c (.vbias c h o) h 4 [o.sa, o.sb, o.sr] (vxCap o) none

/-- VMSK (R127). -/
def execVmsk (c : Nat) (h : Hdr) (o : VxArgs) (s : State) : Host.Outcome State Fault Refusal :=
  engineRow s c (.vmsk c h o) h 4 (if o.fn = 0 then [o.sr] else [o.sa, o.sb]) (vxCap o) none

/-- VSMX (R128). -/
def execVsmx (c : Nat) (h : Hdr) (o : VxArgs) (s : State) : Host.Outcome State Fault Refusal :=
  engineRow s c (.vsmx c h o) h 4 [o.sb, o.sr] (vxCap o) none

/-- VRED (R125). -/
def execVred (c : Nat) (h : Hdr) (o : VxArgs) (s : State) : Host.Outcome State Fault Refusal :=
  engineRow s c (.vred c h o) h 4 [] (vxCap o) (some o.vd)

/-- VRNG (R129). -/
def execVrng (c : Nat) (h : Hdr) (o : VxArgs) (s : State) : Host.Outcome State Fault Refusal :=
  engineRow s c (.vrng c h o) h 4 [o.sa, o.sb, o.sr, o.vc] (vxCap o) none

/-- INSTRUCTION_LAST_ACCESS (R76): the oldest issued instruction of an engine makes its last access. -/
def execInstructionLastAccess (c eng : Nat) (s : State) : Host.Outcome State Fault Refusal :=
  if 128 ≤ c then .fault .noSuchUnit else .next (lastAccess s c eng)

end Sys2Proof.Machine
end

