-- ==== Sys2Proof/Machine/Links.lean ====
section
/-! DEFINITION. Zhevlink ports (R306 to R314): training states, flits, retry and credits; the remapping of channels
when a port enters or leaves ACTIVE (R319); and fabric time (R323, R324). -/

namespace Sys2Proof.Machine

open Sys2Proof

/-! ## Remapping (R319) -/

/-- Resend the unacknowledged packets of a channel, in CSEQ order (R317). -/
def resendChannel (s : State) (c : TxChan) : State :=
  let s := { s with fab := { s.fab with txCh := updFirst (isTx c.part c.dst c.chan) (fun y => { y with resent := s.time.ftime }) s.fab.txCh } }
  (c.unack.take 1024).foldl emit s

/-- Recompute the path of every channel; one whose path changes resends at once (R319). -/
def repath (s : State) : State :=
  s.fab.txCh.foldl (fun s c =>
    let n := pathOf s c.dst c.chan
    if n = c.path then s
    else
      let s := { s with fab := { s.fab with txCh := updFirst (isTx c.part c.dst c.chan) (fun y => { y with path := n }) s.fab.txCh } }
      if n.isSome then resendChannel s c else s) s

/-! ## States of a port (R310) -/

/-- A port enters a state; a change into or out of ACTIVE remaps the channels (R319). -/
def enterState (s : State) (p : Nat) (st : LinkState) : State :=
  let x := getPort s p
  let s := setPort s p { x with st := st, since := s.time.ftime }
  if (x.st == .active) != (st == .active) then repath s else s

/-- A port returns to DETECT. -/
def toDetect (s : State) (p : Nat) : State := enterState (setPort s p (freshLink (getPort s p))) p .detect

/-- A record about a port. -/
def portRec (p : Nat) (code : W16) : Rec := { code := code, sev := sevCorrected, unitType := uPort, unitId := BitVec.ofNat 16 p }

/-- STATE code of a port (R310). -/
def linkCode (st : LinkState) : Nat :=
  match st with
  | .disabled => 0 | .detect => 1 | .equalize => 2 | .align => 3 | .negotiate => 4 | .active => 5 | .retrain => 6 | .down => 7

/-- A port enters DOWN and raises E_LINK_DOWN, which names the port, the plane and the state that failed (R310). -/
def portDown (s : State) (p : Nat) : State :=
  let st := (getPort s p).st
  raise' (enterState (setPort s p (freshLink (getPort s p))) p .down) { portRec p 0x0501 with names := [p, p / 2, linkCode st] }

/-- An attempt to train fails (R310): DETECT again, or DOWN after three in a row. -/
def attemptFails (s : State) (p : Nat) : State :=
  let x := getPort s p
  let s := setPort s p { x with attempts := x.attempts + 1 }
  if 3 ≤ x.attempts + 1 then portDown s p else toDetect s p

/-- A port in ACTIVE enters RETRAIN (R312): it keeps the replay buffer and the received flits. -/
def retrain (s : State) (p : Nat) : State :=
  let x := getPort s p
  if x.st ≠ .active then s
  else enterState (setPort s p { x with retrains := if x.retrains = 0xFFFF then x.retrains else x.retrains + 1, again := true,
                                        nakSame := 0, nakMs := [] }) p .retrain

/-- Whether the ports of the device may train (R438, R439). -/
def mayTrain (s : State) : Bool := s.dev.stage == 4

/-- Write a port's ENABLE (R310). -/
def setPortEnable (s : State) (p : Nat) (v : Bool) : State :=
  let s := setPort s p { getPort s p with enable := v }
  if !v then enterState (setPort s p (freshLink (getPort s p))) p .disabled
  else if (getPort s p).st == .disabled && mayTrain s then toDetect s p
  else s

/-- Every enabled port that is DISABLED begins to train (R438). -/
def trainPorts (s : State) : State :=
  (List.range 6).foldl (fun s p => if (getPort s p).enable && (getPort s p).st == .disabled then toDetect s p else s) s

/-- Lanes of a mask. -/
def laneCount (m : Byte) : Nat := ((List.range 8).filter (bit m)).length

/-- PORT_SIGNAL_DETECT (R310). -/
def execPortSignalDetect (p : Nat) (lanes : Byte) (s : State) : Host.Outcome State Fault Refusal :=
  if 6 ≤ p then .fault .noSuchUnit
  else
    let x := getPort s p
    if x.st == .detect && decide (2 ≤ laneCount lanes) then .next (enterState (setPort s p { x with seen := lanes }) p .equalize)
    else .next s

/-- EQUALIZE_CONVERGED (R310). -/
def execEqualizeConverged (p : Nat) (s : State) : Host.Outcome State Fault Refusal :=
  if 6 ≤ p then .fault .noSuchUnit
  else if (getPort s p).st == .equalize then .next (enterState s p .align) else .next s

/-- Lanes of port `p` fenced by a configuration record (R406). -/
def fencedLanes (s : State) (p : Nat) : Byte := BitVec.ofNat 8 (bits s.dev.laneCfg (8 * p + 7) (8 * p))

/-- ALIGN_DONE (R310): the good lane mask is known, without fenced lanes (R406); NEGOTIATE sends it with the plane, the port number
and the VC buffer sizes. -/
def execAlignDone (p : Nat) (mask : Byte) (s : State) : Host.Outcome State Fault Refusal :=
  if 6 ≤ p then .fault .noSuchUnit
  else
    let x := getPort s p
    if x.st == .align || x.st == .retrain then
      let ok := mask &&& ~~~ fencedLanes s p &&& ~~~ x.failing
      .next (emitLink (enterState (setPort s p { x with lanesOk := ok }) p .negotiate) (.negotiate p ok (p / 2) ([0, 1, 2, 3].map vcBuf)))
    else .next s

/-- Lane groups in the order of R311, with their width codes. -/
def laneGroups : List (Byte × BitVec 2) := [(0xFF, 3), (0x0F, 2), (0xF0, 2), (0x03, 1), (0x0C, 1), (0x30, 1), (0xC0, 1)]

/-- Note the lanes of a port that its width leaves out (R311, R472); lanes lost in three start-ups in a row are fenced by
a device record (R407). -/
def noteLanes (s : State) (p : Nat) (lost : Nat) : State :=
  let all : BitVec 48 := BitVec.ofNat 48 (0xFF <<< (8 * p))
  let now : BitVec 48 := BitVec.ofNat 48 (lost <<< (8 * p))
  let s := { s with dev := { s.dev with laneLost := (s.dev.laneLost &&& ~~~ all) ||| now } }
  match s.mgc.laneHist with
  | a :: b :: _ =>
    let again := now &&& a &&& b &&& ~~~ s.dev.laneCfg
    if again == 0 then s
    else { writeDevRec s 2 (again.setWidth 128) with dev := { s.dev with laneCfg := s.dev.laneCfg ||| again } }
  | _ => s

/-- The port becomes ACTIVE at a width, with a credit for each buffer of the peer (R311, R313); after a retrain both ends send
CREDIT_INIT, and no data flit leaves before the peer's, when the replay from ACK + 1 begins (R314). -/
def portActive (s : State) (p : Nat) (g : Byte × BitVec 2) (peer : W16) (bufs : List Nat) : State :=
  let x := getPort s p
  let lower := decide (g.2.toNat < x.prev.toNat)
  let lost := bits (0xFF &&& ~~~ g.1 : Byte) 7 0
  let s := setPort s p { x with width := g.2, prev := g.2, lanes := g.1, peer := peer, attempts := 0, failing := 0, corr := [],
                                hold := x.again, due := if x.again then x.replay.length else 0,
                                credits := if x.again then x.credits else [0, 1, 2, 3].map (fun v => (v, nth 0 bufs v)) }
  let s := noteLanes (if lower then raise' s { portRec p 0x0502 with names := [p, lost] } else s) p lost
  let s := if x.again then emitLink s (.creditInit p ([0, 1, 2, 3].map vcBuf)) else s
  pumpPort (enterState s p .active) p

/-- NEGOTIATE_DONE (R311): the peer's good mask, plane, port number, identity and VC buffer sizes. -/
def execNegotiateDone (p : Nat) (mask : Byte) (plane : BitVec 2) (port : Nat) (peer : PeerPort) (s : State) : Host.Outcome State Fault Refusal :=
  if 6 ≤ p then .fault .noSuchUnit
  else
    let x := getPort s p
    if x.st != .negotiate then .next s
    else
      let both := x.lanesOk &&& mask
      if plane.toNat ≠ p / 2 ∨ port ≠ p then .next (portDown (setPort s p { x with peer := peer.ident }) p)
      else match laneGroups.find? (fun g => both &&& g.1 == g.1) with
        | none => .next (portDown (setPort s p { x with peer := peer.ident }) p)
        | some g => .next (portActive s p g peer.ident peer.bufs)

/-- Time limit of a training state in ticks (R310). -/
def stateLimit (st : LinkState) : Option Nat :=
  match st with
  | .equalize => some 42000000
  | .align => some 2100000
  | .negotiate => some 1050000
  | .retrain => some 3150000
  | _ => none

/-- LINK_STATE_TIMEOUT (R310). -/
def execLinkStateTimeout (p : Nat) (s : State) : Host.Outcome State Fault Refusal :=
  if 6 ≤ p then .fault .noSuchUnit
  else
    let x := getPort s p
    match stateLimit x.st with
    | none => .next s
    | some n => if x.since + n < s.time.ftime then .next (attemptFails s p) else .next s

/-- PORT_DOWN_TIMER (R310): one second after DOWN. -/
def execPortDownTimer (p : Nat) (s : State) : Host.Outcome State Fault Refusal :=
  if 6 ≤ p then .fault .noSuchUnit
  else
    let x := getPort s p
    if x.st == .down && decide (x.since + 1050000000 ≤ s.time.ftime) then .next (toDetect (setPort s p { x with attempts := 0 }) p)
    else .next s

/-- The corrected symbols a lane contributed in the last 1 ms, the newest times kept (R309). -/
def corrected (x : Port) (now lane : Nat) : List (Nat × Nat) := (tget [] x.corr lane).filter (fun e => decide (now < e.1 + 1050000))

/-- LANE_FAILING (R309, R312): FEC corrected more symbols of a lane; beyond 2,048 in a 1 ms window the lane is failing and the port
retrains. -/
def execLaneFailing (p : Nat) (e : LaneErrors) (s : State) : Host.Outcome State Fault Refusal :=
  if 6 ≤ p ∨ 8 ≤ e.lane then .fault .noSuchUnit
  else
    let x := getPort s p
    if x.st != .active then .next s
    else
      let w := corrected x s.time.ftime e.lane ++ [(s.time.ftime, e.count)]
      let x := { x with corr := tset x.corr e.lane w }
      if 2048 < (w.map (·.2)).sum then .next (retrain (setPort s p { x with failing := setBit x.failing e.lane true }) p)
      else .next (setPort s p x)

/-- RETRAIN_REQ (R312). -/
def execRetrainReq (p : Nat) (s : State) : Host.Outcome State Fault Refusal :=
  if 6 ≤ p then .fault .noSuchUnit else .next (retrain s p)

/-! ## Flits (R312 to R314) -/

/-- A data flit is discarded (R314): one NAK with the last SEQ received in order, then nothing until the expected
SEQ arrives. -/
def discardFlit (s : State) (p : Nat) : State :=
  let x := getPort s p
  if x.discard then s else emitLink (setPort s p { x with discard := true }) (.nak p (x.rxSeq - 1))

/-- UNCORRECTABLE_CODEWORD (R309): every flit of the frame is lost. -/
def execUncorrectableCodeword (p : Nat) (s : State) : Host.Outcome State Fault Refusal :=
  if 6 ≤ p then .fault .noSuchUnit
  else if (getPort s p).st == .active then .next (discardFlit s p) else .next s

/-- Replay entries left once SEQ `a` is acknowledged (R314). -/
def ackReplay (x : Port) (a : BitVec 12) : Port :=
  if x.replay.any (fun f => f.seq == a) then
    let r := (x.replay.dropWhile (fun f => f.seq != a)).drop 1
    { x with replay := r, acked := a, due := min x.due r.length }
  else x

/-- Credits come back on a virtual channel (R313). -/
def addVc (now : Nat) (x : Port) (v n : Nat) : Port :=
  if n = 0 then x else { x with credits := tset x.credits v (tget 0 x.credits v + n), crAt := tset x.crAt v now }

/-- The bytes of an accepted flit join their packet; a whole packet goes to the transport (R313). -/
def assemble (x : Port) (f : Flit) : Port :=
  let v := f.vc.toNat
  let d := (if f.sop then [] else tget [] x.asm v) ++ f.payload.take (f.nb.toNat + 1)
  if f.eop then { x with asm := tset x.asm v [], rx := x.rx ++ [d] } else { x with asm := tset x.asm v d }

/-- The armed injection of a flit CRC error on a port (R357). -/
def flitInjection (s : State) (p : Nat) : Option Inject := s.err.armed.find? (fun i => i.kind == 4 && i.unit.toNat == p)

/-- Whether the CRC of a flit holds (R312). -/
def crcHolds (f : Flit) : Bool := crc32c (flitBytes f) == f.crc

/-- Take a data flit whose CRC holds and whose SEQ is the expected one: its buffer is free again at once, and an
idle flit returns the credit with the acknowledgement (R312 to R314). -/
def acceptFlit (s : State) (p : Nat) (f : Flit) : State :=
  let x := getPort s p
  let x := assemble { x with rxSeq := x.rxSeq + 1, discard := false } f
  let x := if f.ackv then ackReplay x f.ack else x
  let x := addVc s.time.ftime x f.cvc.toNat f.credits.toNat
  pumpPort (emitLink (setPort s p x) (.idle p f.seq f.vc.toNat 1)) p

/-- DATA_FLIT (R314). -/
def execDataFlit (p : Nat) (f : Flit) (s : State) : Host.Outcome State Fault Refusal :=
  if 6 ≤ p then .fault .noSuchUnit
  else
    let x := getPort s p
    if x.st != .active then .next s
    else match flitInjection s p with
      | some i => .next (discardFlit { s with err := { s.err with armed := s.err.armed.erase i } } p)
      | none => if crcHolds f && f.seq == x.rxSeq then .next (acceptFlit s p f) else .next (discardFlit s p)

/-- Send the flits of the replay buffer again that already hold their credit, counted in FAB_PORT_RETRY (R314): those that a retrain
left to send again take theirs first. -/
def replayAll (s : State) (p : Nat) : State :=
  let x := getPort s p
  let fs := x.replay.take (x.replay.length - x.due)
  putWire (setPort s p { x with retry := (x.retry + fs.length) % 2 ^ 64 }) p fs

/-- NAK (R314): resend from the expected SEQ, or retrain past the limits. -/
def execNak (p : Nat) (q : BitVec 12) (s : State) : Host.Outcome State Fault Refusal :=
  if 6 ≤ p then .fault .noSuchUnit
  else
    let x := getPort s p
    if x.st != .active then .next s
    else
      let n := if x.nakSame != 0 && x.nakSeq == q then x.nakSame + 1 else 1
      let ms := (x.nakMs.filter (fun t => decide (s.time.ftime < t + 1050000))) ++ [s.time.ftime]
      let s := setPort s p { ackReplay x q with nakSeq := q, nakSame := n, nakMs := ms }
      if 8 ≤ n ∨ 1000 < ms.length then .next (retrain s p) else .next (replayAll s p)

/-- CREDIT_INIT (R313, R314): the peer's free buffers after a retrain, and the replay from ACK + 1, each flit for a credit. -/
def execCreditInit (p : Nat) (free : List Nat) (s : State) : Host.Outcome State Fault Refusal :=
  if 6 ≤ p then .fault .noSuchUnit
  else
    let x := getPort s p
    if x.st != .active then .next s
    else .next (pumpPort (setPort s p { x with credits := [0, 1, 2, 3].map (fun v => (v, nth 0 free v)), hold := false, due := x.replay.length }) p)

/-! ## Fabric time (R323, R324) -/

/-- Time states (R324). -/
def tsFree : BitVec 2 := 0
def tsAcquiring : BitVec 2 := 1
def tsLocked : BitVec 2 := 2
def tsHoldover : BitVec 2 := 3

/-- TIME_REQ (R323): an ACTIVE port answers with its times, state and bound. -/
def execTimeReq (p : Nat) (s : State) : Host.Outcome State Fault Refusal :=
  if 6 ≤ p then .fault .noSuchUnit
  else if (getPort s p).st == .active then
    .next (emitLink s (.timeRsp p s.time.ftime s.time.ftime s.time.tstate s.time.bound))
  else .next s

/-- Ports that can be the source (R323): ACTIVE ones whose last response reported LOCKED, or while there is none,
ACTIVE ones that have not answered yet, or any ACTIVE one (log 30). -/
def timeSources (s : State) : List Nat :=
  let act := (List.range 6).filter (fun p => (getPort s p).st == .active)
  let locked := act.filter (fun p => tfind s.time.upState p == some tsLocked)
  let fresh := act.filter (fun p => (tfind s.time.upState p).isNone)
  if !locked.isEmpty then locked else if !fresh.isEmpty then fresh else act

/-- The source of the next exchange: the first port in order, and after three failures in a row the next one. -/
def timeSource (s : State) : Option Nat :=
  let c := timeSources s
  if s.time.fails < 3 then (if c.contains s.time.src then some s.time.src else c.head?)
  else match c.find? (fun p => decide (s.time.src < p)) with
    | some p => some p
    | none => c.head?

/-- Whether the ports are in low-power idle (R425): every enabled partition is in P3 or P4. -/
def lowPowerIdle (s : State) : Bool :=
  let on := (List.range 8).filter (fun p => (getPart s p).st != .off)
  !on.isEmpty && on.all (fun p => decide (3 ≤ (getPart s p).pstate) && !(getPart s p).waking)

/-- TIME_EXCHANGE (R323): the 1 ms timer sends TIME_REQ on the source port. Without a source a device in ACQUIRING is FREE again
(R324); one that is LOCKED enters HOLDOVER after 10 ms (log 95). -/
def execTimeExchange (s : State) : Host.Outcome State Fault Refusal :=
  if lowPowerIdle s then .next s
  else match timeSource s with
    | none => .next { s with time := { s.time with src := 15, req := none, good := 0, tstate := if s.time.tstate == tsAcquiring then tsFree else s.time.tstate } }
    | some p =>
      let t := { s.time with src := p, req := some (p, s.time.ftime), fails := if 3 ≤ s.time.fails then 0 else s.time.fails }
      .next (emitLink { s with time := t } (.timeReq p))

/-- A failed exchange is counted (R323). -/
def timeFails (t : TimeSt) : TimeSt := { t with req := none, fails := t.fails + 1, good := 0 }

/-- The limit of the trim: 200 ppm in units of 2⁻³² tick per tick. -/
def trimMax : Int := 858993

/-- A valid exchange disciplines the clock (R323, R324): offset `th`, the peer's bound `b`. LOCKED takes eight offsets in a row of at
most 8 ticks, from HOLDOVER too. -/
def discipline (t : TimeSt) (th : Int) (b : Nat) : TimeSt :=
  let acq := t.tstate == tsFree || t.tstate == tsAcquiring
  let t := if acq && !t.everLock && decide (64 < th.natAbs) then { t with ftime := ((t.ftime : Int) - th).toNat % 2 ^ 64 }
    else { t with slew := t.slew - th, trim := max (-trimMax) (min trimMax (t.trim - th * 2 ^ 32 / 8400000)) }
  let good := if th.natAbs ≤ 8 then t.good + 1 else 0
  let st := if acq then (if 8 ≤ good then tsLocked else tsAcquiring)
    else if 1024 < th.natAbs then tsAcquiring
    else if t.tstate == tsHoldover && decide (good < 8) then tsHoldover
    else tsLocked
  { t with tstate := st, good := if st == tsAcquiring && !acq then 0 else good, bound := b + 4, theta := th, fails := 0, req := none,
           lastOk := t.ftime, holdMs := 0, everLock := t.everLock || st == tsLocked }

/-- The CHANNEL_OPENs of forming jobs go out while fabric time is LOCKED or in HOLDOVER (R324, R327, R438). -/
def sendDigests (s : State) : State :=
  if s.time.tstate != tsLocked && s.time.tstate != tsHoldover then s
  else (List.range 64).foldl (fun s ji =>
    let j := getJob s ji
    if j.st == .forming && !j.sent then
      let s := setJob s ji { j with sent := true }
      (others j).foldl (fun s e => send s j.part.toNat e chJob pkOpen j.jobId 0 0 (.digest j.digest)) s
    else s) s

/-- Held Fixed steps of a job replay once it is formed again (R371, R372); those of a session given up to its partner
stay held. -/
def resumeHeld (s : State) (ji : Nat) : State :=
  { s with steps := s.steps.map (fun st =>
      if st.job == some ji && st.phase == .held && !(match st.sess with | some i => (getSess s i).yield_ | none => false)
      then replayed st else st) }

/-- The gather window of a partition with steps that wait opens (R179). -/
def reopenGather (s : State) (p : Nat) : State :=
  let x := getPart s p
  if x.gatherAt = 0 && s.steps.any (fun st => st.part == p && st.phase == .gather && !st.kernel) then
    setPart s p { x with gatherAt := gatherEnd s x } else s

/-- A job becomes ACTIVE when every member has sent a matching digest (R327, R330). -/
def activateJobs (s : State) : State :=
  (List.range 64).foldl (fun s ji =>
    let j := getJob s ji
    let p := j.part.toNat
    if j.st == .forming && j.sent && (others j).all (fun e => s.fab.opens.contains (p, e, j.jobId, j.digest)) then
      let s := reopenGather (resumeHeld (setJob s ji { j with st := .active }) ji) p
      { s with fab := { s.fab with opens := s.fab.opens.filter (fun o => !(o.1 == p && o.2.2.1 == j.jobId)) } }
    else s) s

/-- TIME_RSP (R323): a response later than 100 µs, or with a delay above 5,000 ticks, is a failed exchange. -/
def execTimeRsp (p : Nat) (t2 t3 : W64) (st : BitVec 2) (b : W16) (s : State) : Host.Outcome State Fault Refusal :=
  if 6 ≤ p then .fault .noSuchUnit
  else match s.time.req with
    | none => .next s
    | some (q, t1) =>
      if q ≠ p then .next s
      else
        let t := { s.time with upState := tset s.time.upState p st }
        let t4 : Int := s.time.ftime
        let d := ((t4 - t1) - ((t3.toNat : Int) - t2.toNat)) / 2
        let th := (((t1 : Int) - t2.toNat) + (t4 - t3.toNat)) / 2
        if 5000 < d ∨ t1 + 105000 < s.time.ftime then .next { s with time := timeFails t }
        else .next (activateJobs (sendDigests { s with time := discipline t th b.toNat }))

/-- TIME_RSP_TIMEOUT (R323): no response within 100 µs. -/
def execTimeRspTimeout (s : State) : Host.Outcome State Fault Refusal :=
  match s.time.req with
  | none => .next s
  | some (_, t1) => if t1 + 105000 < s.time.ftime then .next { s with time := timeFails s.time } else .next s

/-- TIME_HOLDOVER (R324): 10 ms in LOCKED with no valid exchange. -/
def execTimeHoldover (s : State) : Host.Outcome State Fault Refusal :=
  if s.time.tstate == tsLocked && decide (s.time.lastOk + 10500000 ≤ s.time.ftime) then
    .next { s with time := { s.time with tstate := tsHoldover, holdMs := 0 } }
  else .next s

end Sys2Proof.Machine
end

