-- ==== Sys2Proof/Machine/Transport.lean ====
section
/-! DEFINITION. The transport layer at the receiver (R315 to R320) and the messages of jobs: fabric writes and reads,
acknowledgements, collectives, plates, the Separator's messages, member moves and Herd checks (R353 to R355). -/

namespace Sys2Proof.Machine

open Sys2Proof

/-! ## Delivery (R316 to R318) -/

/-- The partitions that claim an endpoint id (R316). -/
def partsOfEp (s : State) (e : W16) : List Nat := (List.range 8).filter (fun n => (getPart s n).epValid && (getPart s n).endpoint == e)

/-- How a generation tag stands to the one held: the same, newer or older within a window of 128 (R318). -/
inductive GenAge where
  | same
  | newer
  | older
  deriving DecidableEq, Repr, Inhabited

/-- Compare a generation tag with the one held for a source; a source never heard before counts as newer. -/
def genAge (s : State) (src : W16) (g : Byte) : GenAge :=
  match tfind s.fab.peers src.toNat with
  | none => .newer
  | some h => let d := (g - h).toNat; if d = 0 then .same else if d < 128 then .newer else .older

/-- A packet of another generation is dropped and counted (R318). -/
def dropStale (s : State) : State := { s with fab := { s.fab with stale := (s.fab.stale + 1) % 2 ^ 64 } }

/-- Whether a receiving channel is that of (partition, source, channel). -/
def isRx (p : Nat) (src ch : W16) (c : RxChan) : Bool := c.part == p && c.src == src && c.chan == ch

/-- The receiving channel of (partition, source, channel); a new one expects CSEQ 0. -/
def rxOf (s : State) (p : Nat) (src ch : W16) : RxChan :=
  (s.fab.rxCh.find? (isRx p src ch)).getD { part := p, src := src, chan := ch }

/-- Put a receiving channel. -/
def putRx (s : State) (c : RxChan) : State :=
  { s with fab := { s.fab with rxCh := (s.fab.rxCh.filter (fun x => !isRx c.part c.src c.chan x)) ++ [c] } }

/-- A packet is accepted: the next CSEQ is expected, and an acknowledgement is due (R317). -/
def accepted (now : Nat) (c : RxChan) (expect : Nat) : RxChan :=
  { c with expect := expect % 2 ^ 32, since := c.since + 1, firstAt := if c.since = 0 then now else c.firstAt }

/-- The source of a newer generation opens a channel: all its channel state is discarded (R318). -/
def newSource (s : State) (src : W16) (g : Byte) : State :=
  { s with fab := { s.fab with rxCh := s.fab.rxCh.filter (fun c => c.src != src), peers := tset s.fab.peers src.toNat g } }

/-- A packet whose ECRC fails is discarded with a corrected record (R317). -/
def badEcrc (s : State) (p : Nat) : State := raise' s { synRec 0x0010 (some p) uHub 0 0 with sev := sevCorrected }

/-- A packet of the generation held, at partition `p`: accepted in CSEQ order, else discarded and counted (R317).
`act` answers none while the packet cannot be taken yet. -/
def deliverSame (s : State) (p : Nat) (k : Pkt) (act : State → Nat → Option State) : State :=
  let c := rxOf s p k.src k.chan
  if k.cseq.toNat ≠ c.expect then putRx s { c with drops := c.drops + 1 }
  else match act s p with
    | none => s
    | some s => putRx s (accepted s.time.ftime (rxOf s p k.src k.chan) (c.expect + 1))

/-- A packet arrives for partition `p` (R317, R318); it is a wake event (R424). -/
def deliverTo (s : State) (p : Nat) (k : Pkt) (act : State → Nat → Option State) : State :=
  let s := wakePart s p
  if !k.ecrcOk then badEcrc s p
  else match genAge s k.src k.gen with
    | .same => deliverSame s p k act
    | _ => dropStale s

/-- A packet arrives at every partition that claims its destination (R316). -/
def deliver (s : State) (k : Pkt) (act : State → Nat → Option State) : State := (partsOfEp s k.dst).foldl (fun s p => deliverTo s p k act) s

/-! ## WRITE, READ_REQ, READ_RSP (R320) -/

/-- Whether JOB names an ACTIVE job of partition `p` with the sender as a member (R320). -/
def jobMember (s : State) (p : Nat) (k : Pkt) : Bool :=
  (List.range 64).any (fun j => let x := getJob s j; x.st == .active && x.part.toNat == p && x.jobId == k.job && x.members.contains k.src)

/-- Whether an address is in the near or far working region (R320, R228). -/
def workAddr (a : W64) : Bool := bits a 63 48 == 0 && (bits a 47 46 == 0 || bits a 47 46 == 2)

/-- A fabric access is refused (R320): counted, with a contained record. -/
def refuseAccess (s : State) (p : Nat) (k : Pkt) : State :=
  raise' { s with fab := { s.fab with refused := s.fab.refused + 1 } } (synRec 0x0021 (some p) uHub 0 k.addr.toNat)

/-- A packet that answers at once: an ACK of this packet, with a status (R315). -/
def ackPkt (s : State) (p : Nat) (dst ch : W16) (cseq : Nat) (status : Byte) : TxPkt :=
  { kind := pkAck, part := p, dst := dst, chan := ch, cseq := cseq, gen := s.dev.hubTag, job := 0, status := status, addr := 0, body := .bytes [] }

/-- WRITE (R320): job data into a working region, copied first where an exposure holds the page (R373). -/
def takeWrite (k : Pkt) (d : List Byte) (s : State) (p : Nat) : Option State :=
  if !jobMember s p k || !workAddr k.addr then some (emit (refuseAccess s p k) (ackPkt s p k.src k.chan k.cseq.toNat 0x01))
  else match writeErr s p 0 k.addr.toNat d.length with
    | some (.retired _) =>
      let s := raiseDone s { code := 0x0802, sev := sevContained, part := some p, unitType := uFar }
      some (emit { s with fab := { s.fab with refused := s.fab.refused + 1 } } (ackPkt s p k.src k.chan k.cseq.toNat 0x01))
    | some .outside => some (emit (refuseAccess s p k) (ackPkt s p k.src k.chan k.cseq.toNat 0x01))
    | none =>
      let we := workErrors s p k.addr.toNat d.length
      match we.2 with
      | some (r, f) => some (emit (frameBad (raiseDone s r) f) (ackPkt s p k.src k.chan k.cseq.toNat 0x01))
      | none => storePart (we.1.foldl raise' s) p k.addr.toNat d

/-- WRITE (R320). -/
def execWrite (k : Pkt) (body : List Byte) (s : State) : Host.Outcome State Fault Refusal := .next (deliver s k (takeWrite k body))

/-- READ_REQ (R320): answered with READ_RSP, or with STATUS refused; so is a read that meets an uncorrectable line
(log 31). -/
def takeReadReq (k : Pkt) (len : Nat) (s : State) (p : Nat) : Option State :=
  let answer := fun (s : State) (st : Byte) (d : List Byte) => send s p k.src k.chan pkReadRsp k.job st 0 (.bytes d)
  if !jobMember s p k || !workAddr k.addr then some (answer (refuseAccess s p k) 0x01 [])
  else
    let m := readPart s p 0 k.addr.toNat len
    match m.err, m.ue with
    | some (.retired _), _ =>
      let s := raiseDone s { code := 0x0802, sev := sevContained, part := some p, unitType := uFar }
      some (answer { s with fab := { s.fab with refused := s.fab.refused + 1 } } 0x01 [])
    | some .outside, _ => some (answer (refuseAccess s p k) 0x01 [])
    | none, some (r, f) => some (answer (frameBad (raiseDone s r) f) 0x01 [])
    | none, none => some (answer (m.ces.foldl raise' s) 0 m.bytes)

/-- READ_REQ (R320). -/
def execReadReq (k : Pkt) (len : Nat) (s : State) : Host.Outcome State Fault Refusal := .next (deliver s k (takeReadReq k len))

/-- READ_RSP (R315): the data, or the refusal, reaches the requester. -/
def execReadRsp (k : Pkt) (body : List Byte) (s : State) : Host.Outcome State Fault Refusal :=
  .next (deliver s k (fun s _ => some { s with fab := { s.fab with reads := s.fab.reads ++ [(k.src, k.status.toNat, body)] } }))

/-! ## Acknowledgements (R317) -/

/-- Whether CSEQ `a` is at or before CSEQ `b`. -/
def cseqLe (a b : Nat) : Bool := decide ((b + 2 ^ 32 - a % 2 ^ 32) % 2 ^ 32 < 2 ^ 31)

/-- An acknowledgement releases packets up to its CSEQ; packets that were held behind 1,024 unacknowledged ones go out. -/
def takeAck (s : State) (p : Nat) (src ch : W16) (cseq : Nat) : State :=
  match s.fab.txCh.find? (isTx p src ch) with
  | none => s
  | some c =>
    let left := c.unack.filter (fun k => !cseqLe k.cseq cseq)
    let n := c.unack.length - left.length
    if n = 0 then s
    else
      let s := { s with fab := { s.fab with txCh := updFirst (isTx p src ch) (fun c => { c with unack := left, moved := s.time.ftime }) s.fab.txCh } }
      ((left.take 1024).drop (1024 - n)).foldl emit s

/-- ACK (R317): an acknowledgement of a generation other than the one held for its source is dropped (R318); one of a
source for which none is held yet is taken (log 28). -/
def execAck (k : Pkt) (s : State) : Host.Outcome State Fault Refusal :=
  .next ((partsOfEp s k.dst).foldl (fun s p =>
    let s := wakePart s p
    if !k.ecrcOk then badEcrc s p
    else if (tfind s.fab.peers k.src.toNat).isSome && genAge s k.src k.gen != .same then dropStale s
    else takeAck s p k.src k.chan k.cseq.toNat) s)

/-- ACK_SEND (R317): after 16 accepted packets or 2 µs. -/
def execAckSend (p : Nat) (src ch : W16) (s : State) : Host.Outcome State Fault Refusal :=
  if 8 ≤ p then .fault .noSuchUnit
  else match s.fab.rxCh.find? (isRx p src ch) with
    | none => .next s
    | some c =>
      if 16 ≤ c.since ∨ (c.since ≠ 0 ∧ c.firstAt + 2100 ≤ s.time.ftime) then
        .next (emit (putRx s { c with since := 0 }) (ackPkt s p src ch ((c.expect + 2 ^ 32 - 1) % 2 ^ 32) 0x00))
      else .next s

/-- CHANNEL_RESEND (R317): 50 µs after the last progress of the acknowledgements. -/
def execChannelResend (p : Nat) (dst ch : W16) (s : State) : Host.Outcome State Fault Refusal :=
  if 8 ≤ p then .fault .noSuchUnit
  else match s.fab.txCh.find? (isTx p dst ch) with
    | none => .next s
    | some c =>
      if c.unack ≠ [] ∧ Nat.max c.moved c.resent + 52500 ≤ s.time.ftime then .next (resendChannel s c) else .next s

/-! ## Collectives (R330) -/

/-- Launches whose reduction is complete go on. -/
def reduceAll (s : State) : State :=
  (s.launches.filter (fun l => l.stage == .reduce || l.stage == .scales)).foldl (fun s l => combineAll (pumpSep (reduced s l.id))) s

/-- COLLECTIVE (R328 to R330). -/
def execCollective (k : Pkt) (h : CollHdr) (body : List Byte) (s : State) : Host.Outcome State Fault Refusal :=
  .next (deliver s k (fun s p => match jobById s p k.job with
    | none => some s
    | some ji => some (reduceAll (takePiece s ji h body))))

/-! ## Job control (R327) -/

/-- MEMBER_MOVE (R327): the rank's endpoint is replaced, and channels to the new endpoint are opened. -/
def execMemberMove (k : Pkt) (rank : Nat) (ep : W16) (s : State) : Host.Outcome State Fault Refusal :=
  .next (deliver s k (fun s p => match jobById s p k.job with
    | none => some s
    | some ji =>
      let j := getJob s ji
      let s := setJob s ji { j with members := j.members.set rank ep }
      some ([chSep, chColl, chJob].foldl (fun s ch =>
        if s.fab.txCh.any (isTx p ep ch) then s else send s p ep ch pkOpen 0 0 0 (.digest 0)) s)))

/-! ## Plates (R296) -/

/-- The plate a peer asks for, when this device holds it resident. -/
def heldPlate (s : State) (p : Nat) (set : W16) (i : Nat) : Option Plate :=
  (findSet s p set).bind (fun x => (tfind x.plates i).bind (fun y => if y.resident then some y else none))

/-- PLATE_REQ (R296): the plate goes back in packets of at most 64 KiB, or an empty answer. -/
def execPlateReq (k : Pkt) (set : W16) (i : Nat) (s : State) : Host.Outcome State Fault Refusal :=
  .next (deliver s k (fun s p =>
    let answer := fun (s : State) (d : List Byte) => send s p k.src k.chan pkPlateRsp 0 0 0 (.plateRsp set i d)
    match heldPlate s p set i with
    | none => some (answer s [])
    | some y => match readPlate s y with
      | (s, none) => some (answer s [])
      | (s, some d) => some ((chunks 65536 d).foldl answer s)))

/-- PLATE_RSP (R296). -/
def execPlateRsp (k : Pkt) (set : W16) (i : Nat) (body : List Byte) (s : State) : Host.Outcome State Fault Refusal :=
  .next (deliver s k (fun s p => some (startLaunches (plateData s p k.src set i body))))

/-! ## Separator messages (R197 to R211) -/

/-- Whether the message header's GEN is older than the sender's (R211). -/
def sepStale (k : Pkt) (h : SepHdr) : Bool := decide (128 ≤ (h.gen - k.gen).toNat)

/-- What follows a change in the Separator: combines, messages that credits now allow, launches. -/
def sepGoesOn (s : State) : State := startLaunches (combineAll (pumpSep s))

/-- DISPATCH (R202, R204, R209): one for a job that this member no longer holds is answered as for a retired tag (R199). -/
def execDispatch (k : Pkt) (h : SepHdr) (counts : List W16) (rows : List (List Byte)) (s : State) : Host.Outcome State Fault Refusal :=
  .next (deliver s k (fun s p =>
    let d : DestMsg :=
      { src := k.src, job := k.job, tag := h.tag, layer := h.layer.toNat, index := h.msgIndex.toNat, count := h.msgCount.toNat,
        counts := counts, rows := rows, base := h.rowBase.toNat, credits := h.credits.toNat, part := p }
    if sepStale k h then some (dropStale s)
    else match jobById s p k.job with
      | none => some (sendReturn s d 0x02 [])
      | some ji => some (sepGoesOn (takeDispatch s ji d))))

/-- A return for a job whose entry has gone is for no open batch: discarded and counted (R210). -/
def strayReturn (s : State) (p : Nat) : State :=
  let x := getPart s p
  setPart s p { x with stale := x.stale + 1 }

/-- RETURN (R200, R205, R210). -/
def execReturn (k : Pkt) (h : SepHdr) (rows : List (List Byte)) (s : State) : Host.Outcome State Fault Refusal :=
  .next (deliver s k (fun s p =>
    if sepStale k h then some (dropStale s)
    else match jobById s p k.job with
      | none => some (strayReturn s p)
      | some ji => some (sepGoesOn (takeReturn s p ji k.src h.tag h.layer.toNat h.msgIndex.toNat h.credits.toNat h.status.toNat rows))))

/-- The steps of a launch end with their tag at another member's word (R208): ABORTED, and a Fixed step is held for
its replay (log 32). -/
def endTagSteps (s : State) (ji : Nat) (tag : W16) : State :=
  let ls := s.launches.filter (fun l => l.job == some ji && l.tag == some tag && l.expert.isNone)
  dropEmpty (ls.foldl (fun s l => l.steps.foldl (fun s k => match findCmd s k.1 k.2 with
    | none => s
    | some c => if c.cls == clsFixed then updStep (dropFromLaunches s k.1 k.2) k.1 k.2 (fun y => { y with phase := .held })
                else stopCmd s k.1 k.2 { status := stAborted }) s) s)

/-- A member retires a tag at a tag-retire message (R208, R209). -/
def memberRetire (s : State) (ji : Nat) (tag : W16) : State :=
  let j := getJob s ji
  let s := setJob s ji { j with openTags := j.openTags.filter (· != tag), retired := if j.retired.contains tag then j.retired else j.retired ++ [tag] }
  let s := retireBatches s ji tag
  endTagSteps (destRetire s j.part.toNat j.jobId tag) ji tag

/-- TAG_RETIRE (R208, R209). -/
def execTagRetire (k : Pkt) (h : SepHdr) (s : State) : Host.Outcome State Fault Refusal :=
  .next (deliver s k (fun s p =>
    if sepStale k h then some (dropStale s)
    else match jobById s p k.job with
      | none => some s
      | some ji => some (sepGoesOn (memberRetire s ji h.tag))))

/-! ## Herd checks (R353 to R355) -/

/-- The plate set a job's Herd checks read: the partition's CURRENT set (log 33). -/
def herdSet (s : State) (p : Nat) : Option PlateSet := s.psets.find? (fun x => x.part == p && x.st == .current)

/-- Windows of 1 GiB of an image (R353). -/
def herdWindows (x : PlateSet) : Nat := Nat.max 1 (ceilDiv (imagePages x) 16384)

/-- The image pages of window `w` (R353). -/
def windowPages (x : PlateSet) (w : Nat) : List PLoc :=
  (rangeFrom (16384 * w) (Nat.min 16384 (imagePages x - 16384 * w))).map (imageFrame x)

/-- The digest of window `w` (R353): zeros where no plate lies. -/
def windowDigest (s : State) (x : PlateSet) (w : Nat) : W256 :=
  sha3w ((windowPages x w).flatMap (fun l => match l with | .frame f => readOut s f 0 65536 | .zeros => List.replicate 65536 0))

/-- The plates that lie in a window. -/
def windowPlates (x : PlateSet) (w : Nat) : List Nat :=
  (x.plates.filter (fun e => decide (e.2.page < 16384 * (w + 1)) && decide (16384 * w < e.2.page + platePages e.2))).map (·.1)

/-- Read window `w` through its strong frames (R353): corrected lines are recorded, and an uncorrectable one is handled as a mismatch of its
plate; no digest comes of it (R220, R343, log 104). -/
def readWindow (s : State) (x : PlateSet) (w : Nat) : State × Option W256 :=
  let les := (windowPages x w).filterMap (fun l => match l with | .frame f => some (f, lineErrors s f 0 1023) | .zeros => none)
  let t := (les.flatMap (fun e => e.2.1)).foldl raise' s
  match les.find? (fun e => e.2.2.isSome) with
  | some (f, (_, some r)) => (frameBad (raiseDone t r) f, none)
  | _ => (t, some (windowDigest s x w))

/-- A Herd check of a job, opened when this member starts it or when a digest comes first. -/
def herdOf (s : State) (ji check : Nat) : Option Herd := s.herds.find? (fun h => h.job == ji && h.check == check)

/-- Put the digest of a rank into a check. -/
def addDigest (s : State) (ji check window rank : Nat) (d : W256) : State :=
  match herdOf s ji check with
  | some _ => { s with herds := updFirst (fun h => h.job == ji && h.check == check) (fun h => { h with digests := tset h.digests rank d }) s.herds }
  | none => { s with herds := s.herds ++ [{ job := ji, check := check, window := window, digests := [(rank, d)] }] }

/-- An expelled member (R355). -/
def expel (s : State) (ji n : Nat) : State :=
  let p := (getJob s ji).part.toNat
  let s := (s.rings.filter (fun r => r.2.part.toNat == p && r.2.st == .running)).foldl (fun s r => setRing s r.1 { getRing s r.1 with held := true }) s
  let s := stopBath s ji 0x01 n
  let s := (s.cmds.filter (fun c => c.part == p && !c.started)).foldl (fun s c =>
    complete (noteErr s c.ring c.seq n) c.ring c.seq { status := if c.cls == clsFixed then stMigrated else stFault }) s
  { s with sess := s.sess.map (fun e => if e.2.part.toNat == p && e.2.cls == clsFixed && e.2.st == .open_ then (e.1, { e.2 with yield_ := true }) else e) }

/-- A Herd record (R337). -/
def herdRec (s : State) (ji check window : Nat) (syn : Nat) : Rec :=
  let p := (getJob s ji).part.toNat
  { code := 0x0602, sev := sevContained, part := some p, unitType := uHub, syn := BitVec.ofNat 16 syn,
    detail := BitVec.ofNat 496 (((check % 2 ^ 64) <<< 432) + ((epOf s p).toNat <<< 376) + ((window % 2 ^ 32) <<< 344)) }

/-- Compare the digests of a check once every member's is there (R354). -/
def judgeHerd (s : State) (h : Herd) : State :=
  let j := getJob s h.job
  let n := j.members.length
  if h.digests.length < n then s
  else
    let s := { s with herds := s.herds.filter (fun k => !(k.job == h.job && k.check == h.check)) }
    let count := fun (d : W256) => (h.digests.filter (fun e => e.2 == d)).length
    let own := tget 0 h.digests j.rank.toNat
    match h.digests.find? (fun e => decide (n < 2 * count e.2)) with
    | some m =>
      if m.2 = own then s
      else
        let r := raise s (herdRec s h.job h.check h.window 0)
        if r.act then expel (dropLatch r.st r.seq) h.job r.seq else r.st
    | none => match herdSet s j.part.toNat with
      | none => s
      | some x =>
        let ps := windowPlates x h.window
        let s := ps.foldl (fun s i => verifyPlate s x.part x.setId i) s
        if ps.any (fun i => (getPlate s x.part x.setId i).reload) then expel s h.job (s.err.nextSeq - 1)
        else raiseDone s (herdRec s h.job h.check h.window 0x0022)

/-- Steps between the Herd checks of a job's partition; 0 acts as 1 (R346). -/
def herdN (s : State) (ji : Nat) : Nat := Nat.max 1 (getPart s (getJob s ji).part.toNat).herdN.toNat

/-- HERD_CHECK (R353): a check whose window has a plate under reload, or meets an uncorrectable line, stays due (log 104). -/
def execHerdCheck (ji : Nat) (s : State) : Host.Outcome State Fault Refusal :=
  if 64 ≤ ji then .fault .noSuchUnit
  else
    let j := getJob s ji
    if j.st != .active || j.check != 2 || decide (j.steps < (j.checkNo + 1) * herdN s ji) then .next s
    else match herdSet s j.part.toNat with
      | none => .next s
      | some x =>
        let w := j.checkNo % herdWindows x
        if (windowPlates x w).any (fun i => (getPlate s x.part x.setId i).reload) then .next s
        else match readWindow s x w with
          | (s, none) => .next s
          | (s, some d) =>
            let s := setJob s ji { j with checkNo := j.checkNo + 1 }
            let s := (others j).foldl (fun s e => send s j.part.toNat e chJob pkMessage j.jobId 0 0 (.herd j.checkNo w d)) s
            let s := addDigest s ji j.checkNo w j.rank.toNat d
            .next (match herdOf s ji j.checkNo with | some h => judgeHerd s h | none => s)

/-- HERD_DIGEST (R354). -/
def execHerdDigest (k : Pkt) (check window : Nat) (d : W256) (s : State) : Host.Outcome State Fault Refusal :=
  .next (deliver s k (fun s p => match jobById s p k.job with
    | none => some s
    | some ji => match (getJob s ji).members.zipIdx.find? (fun e => e.1 == k.src) with
      | none => some s
      | some (_, rank) =>
        let s := addDigest s ji check window rank d
        some (match herdOf s ji check with | some h => judgeHerd s h | none => s)))

end Sys2Proof.Machine
end

