-- ==== Sys2Proof/Machine/Exposure.lean ====
section
/-! DEFINITION. Exposures and images (R373 to R382, R391, R393, R395, R397): EXPOSE and MIGRATE_OUT with the exposure
instant and the copier, images held for a peer, RESTORE and MIGRATE_IN. -/

namespace Sys2Proof.Machine

open Sys2Proof

/-! ## Starting an exposure (R374, R379) -/

/-- The stream an exposure to a peer uses on channel use 0x2 (log 34). -/
def expChan (id : Nat) : W16 := chExp + BitVec.ofNat 16 (id % 4095 + 1)

/-- The next exposure number of the device. -/
def nextExp (s : State) : Nat := s.exps.foldl (fun n e => Nat.max n e.id) 0 + 1

/-- The target a TARGET field names. -/
def expTarget (c : Cmd) : ExpTarget :=
  match dfield c 479 478 with
  | 1 => .far (dfield c 447 384)
  | 2 => .host (dfield c 447 384)
  | _ => .peer (BitVec.ofNat 16 (dfield c 463 448))

/-- Begin an exposure for a command: it waits for its instant, and the command has changed no state yet (R263). -/
def startExp (s : State) (c : Cmd) (sess : Option Nat) (kind : Byte) (target : ExpTarget) : State :=
  let id := nextExp s
  { s with exps := s.exps ++ [{ id := id, ring := c.ring, seq := c.seq, part := c.part, sess := sess, kind := kind, target := target,
                                chan := expChan id }] }

/-- Whether a command's exposure waits for its instant or streams. -/
def hasExp (s : State) (c : Cmd) : Bool := s.exps.any (fun e => e.ring == c.ring && e.seq == c.seq)

/-- Whether 15 exposures of a session stream or wait for their instant (R374). -/
def expFull (s : State) (i : Nat) : Bool :=
  decide (15 ≤ (getSess s i).expOpen + (s.exps.filter (fun e => e.sess == some i && !e.taken)).length)

/-- The first page and the count of a state range that lies in the near working region (R379, R229). -/
def stateRange (s : State) (c : Cmd) : Option (Nat × Nat) :=
  let b := dfield c 351 288
  let n := dfield c 287 256
  if nbits b 63 46 = 0 ∧ nbits b 45 16 + n ≤ (getPart s c.part).nearPages.length then some (nbits b 45 16, n) else none

/-- Whether a far DEST has room for the header page and CAPACITY records (R379). -/
def farRoom (s : State) (c : Cmd) : Bool :=
  let a := dfield c 447 384
  dfield c 479 478 != 1 || (nbits a 63 46 == 2 &&
    decide (nbits a 45 0 + 4096 + 69632 * dfield c 383 352 ≤ 65536 * (getPart s c.part).farPages.length))

/-- EXPOSE (R373, R374, R379). -/
def execExpose (r q : Nat) (s : State) : Host.Outcome State Fault Refusal :=
  match runnable s r q 0x30 with
  | none => .next s
  | some c =>
    if hasExp s c then .next s
    else if dfield c 511 480 = 0 then
      if (stateRange s c).isNone then .next (faultCmd s c 0x0002 0 (dfield c 351 288))
      else if !farRoom s c then .next (faultCmd s c 0x0002 0 (dfield c 447 384))
      else .next (startExp s c none 0x02 (expTarget c))
    else match openHandle s c.part (BitVec.ofNat 32 (dfield c 511 480)) with
      | none => .next (faultCmd s c 0x0003 511 0)
      | some i =>
        if !farRoom s c then .next (faultCmd s c 0x0002 0 (dfield c 447 384))
        else if expFull s i then .next s
        else .next (startExp s c (some i) 0x01 (expTarget c))

/-- MIGRATE_OUT (R391): the session is FENCED and its exposure begins. -/
def execMigrateOut (r q : Nat) (s : State) : Host.Outcome State Fault Refusal :=
  match runnable s r q 0x32 with
  | none => .next s
  | some c => match openHandle s c.part (BitVec.ofNat 32 (dfield c 511 480)) with
    | none => .next (faultCmd s c 0x0003 511 0)
    | some i =>
      if !sessionTurn s c (BitVec.ofNat 32 (dfield c 511 480)) then .next s
      else .next (startExp (setSess (startCmd s r q) i { getSess s i with st := .fenced }) c (some i) 0x03 (expTarget c))

/-! ## The exposure instant (R373, R157) -/

/-- Whether every command the exposure waits for has completed (R373); a DRAIN moves a session that has no command under way. -/
def expReady (s : State) (e : Exposure) : Bool :=
  !e.taken && (e.pairing || (match findCmd s e.ring e.seq with
    | none => false
    | some c => opcodeOf c == 0x43 || !(earlier s e.ring e.seq).any (fun x => x.part == e.part && (e.sess.isNone || handleIn x == handleIn c))))

/-- Recall every page of a session that lies in its host image (R373, R162). -/
def recallHosts (s : State) (i : Nat) (g : Geo) : List ((Nat × Nat × Nat) × Pte) → Except WalkErr State
  | [] => .ok s
  | e :: rest =>
    if !e.2.host then recallHosts s i g rest
    else match recallPage s i g e.1.1 e.1.2.1 e.1.2.2 e.2 with
      | .error x => .error x
      | .ok s => recallHosts s i g rest

/-- One reference on a page for an exposure, or a copy of its own where the count is at its bound (R157). -/
def holdPage (s : State) (p : Nat) (pg : Nat × Nat × W64) : Option (State × (Nat × Nat × W64)) :=
  if (getFrame s pg.1).refcnt < 65535 then some (addRef s pg.1, pg)
  else (newNear s p 1 0).bind (fun (s, f) => (copySummary (copyFrame s pg.1 f) p pg.2.1).map (fun (s, a) => (s, (f, a, pg.2.2))))

/-- Hold every page of a set. -/
def holdPages (s : State) (p : Nat) : List (Nat × Nat × W64) → Option (State × List (Nat × Nat × W64))
  | [] => some (s, [])
  | pg :: rest => (holdPage s p pg).bind (fun (s, h) => (holdPages s p rest).map (fun (s, hs) => (s, h :: hs)))

/-- The page set of an exposure in ascending order of page identity (R373, R374): frame, summary block and ID. -/
def expPages (s : State) (e : Exposure) : List (Nat × Nat × W64) :=
  match e.sess with
  | some i => match sessGeo s i with
    | none => []
    | some g => (mappedPages s i g).map (fun m => (m.2.pfn, m.2.sum, kvId m.1.1 m.1.2.1 m.1.2.2))
  | none => match (findCmd s e.ring e.seq).bind (stateRange s) with
    | none => []
    | some (b, n) => (rangeFrom b n).map (fun k => (nth 0 (getPart s e.part).nearPages k, 0, BitVec.ofNat 64 (k <<< 16)))

/-- The image header of an exposure with FINAL zero (R377). -/
def expHeader (s : State) (e : Exposure) (n : Nat) : W1024 :=
  let x : Sess := match e.sess with | some i => getSess s i | none => {}
  let h : Nat := match e.sess with | some i => (handleOf i x).toNat | none => 0
  BitVec.ofNat 1024 (((epOf s e.part).toNat <<< 752) + (h <<< 720) + ((s.time.ftime % 2 ^ 64) <<< 656) + (x.seed.toNat <<< 592) +
    ((x.position % 2 ^ 32) <<< 560) + (x.plateset.toNat <<< 544) + ((x.quota % 2 ^ 32) <<< 512) + ((n % 2 ^ 32) <<< 480) + (e.kind.toNat <<< 472) +
    (x.cls.toNat <<< 470) + (b2n x.degraded <<< 469) + (x.lastToken.toNat <<< 416) + (b2n x.ltv <<< 415))

/-- FINAL of a header over the digests of its records (R377, log 25). -/
def finalOf (h : W1024) (ds : List W256) : W256 :=
  sha3w (natLE 128 (bits h 767 0) ++ ds.flatMap (fun d => natLE 32 d.toNat))

/-- Change exposure `id`. -/
def updExp (s : State) (id : Nat) (f : Exposure → Exposure) : State := { s with exps := updFirst (fun e => e.id == id) f s.exps }

/-- The CSEQ of the packet sent last on a channel. -/
def lastCseq (s : State) (p : Nat) (dst ch : W16) : Nat := match s.fab.txCh.find? (isTx p dst ch) with | some c => c.next - 1 | none => 0

/-- Whether the packet with a CSEQ has been acknowledged (R317). -/
def sentOff (s : State) (p : Nat) (dst ch : W16) (n : Nat) : Bool :=
  match s.fab.txCh.find? (isTx p dst ch) with
  | some c => !c.unack.any (fun k => k.cseq == n)
  | none => false

/-- What stops the copier on a page: a retired key slot, or an uncorrectable line (R232, R343). -/
inductive CopyErr where
  | retired
  | line (ces : List Rec) (r : Rec) (f : Nat)
  deriving DecidableEq, Repr

/-- The key slot whose key an exposure's records use (R378). -/
def expSlot (s : State) (e : Exposure) : Nat :=
  match e.sess with | some i => (getSess s i).keySlot.toNat | none => (getPart s e.part).keySlot.toNat

/-- The record of a page as the copier reads it, with the corrected lines it meets. -/
def copyPage (s : State) (e : Exposure) (pg : Nat × Nat × W64) : Except CopyErr (PageRec × List Rec) :=
  let le := pageErrors s pg.1 pg.2.1
  if isFar pg.1 && (getKey s (getFrame s pg.1).keySlot.toNat).st != .active then .error .retired
  else match le.2 with
    | some (r, f) => .error (.line le.1 r f)
    | none => .ok (makeRec s (if e.sess.isSome then 1 else 2) pg.2.2 pg.1 pg.2.1, le.1)

/-- An exposure of a Fixed session stopped by a cause inside the module ends no command: the session is OPEN again and goes to its partner,
or the exposure begins anew (R286). -/
def retryExp (s : State) (e : Exposure) (c : Cmd) : State :=
  match e.sess with
  | none => s
  | some i =>
    let x := getSess s i
    toMate (setSess s i { x with st := if x.st == .fenced then .open_ else x.st }) c i

/-- The copier of an exposure is stopped by an error (R379, R286). -/
def copyFails (s : State) (e : Exposure) (x : CopyErr) : State :=
  let c : Cmd := (findCmd s e.ring e.seq).getD { ring := e.ring, seq := e.seq, desc := 0, part := e.part }
  match x with
  | .retired => failExp (endExp (keyRetired s c).1 e) e
  | .line ces r f =>
    let s := endExp (frameBad ((raiseCmdDone (ces.foldl raise' s) c r).1) f) e
    if c.cls == clsFixed && !e.pairing && opcodeOf c == 0x32 then retryExp s e c else failExp s e

/-- Send a page of an exposure to its peer: a record of an image, or a page of a shadow (R378, R384). -/
def sendExpPage (s : State) (e : Exposure) (ep : W16) (r : PageRec) : State :=
  match e.pairing, e.sess with
  | true, some i => toPartner s i (.exp (getSess s i).partnerHandle (.shadow r))
  | _, some i => send s e.part ep e.chan pkMessage 0 0 0 (.exp (handleOf i (getSess s i)) (.image r))
  | _, none => send s e.part ep e.chan pkMessage 0 0 0 (.exp 0 (.image r))

/-- Send the pages of an exposure to its peer one by one. -/
def sendPages (s : State) (e : Exposure) (ep : W16) : List (Nat × Nat × W64) → Except CopyErr (State × List W256 × List Nat)
  | [] => .ok (s, [], [])
  | pg :: rest => match copyPage s e pg with
    | .error x => .error x
    | .ok (r, ces) =>
      let s := endCopy (sendExpPage (beginCopy (ces.foldl raise' s) e.part) e ep r) e.part
      let n := lastCseq s e.part ep e.chan
      match sendPages s e ep rest with
      | .error x => .error x
      | .ok (s, ds, ns) => .ok (s, r.digest :: ds, n :: ns)

/-- The end of a full exposure's pages: its count and what the shadow needs beside the pages (R384, R141, log 28). -/
def sendFullEnd (s : State) (e : Exposure) (n : Nat) : State :=
  match e.sess with
  | none => s
  | some i =>
    let x := getSess s i
    toPartner s i (.exp x.partnerHandle (.fullEnd n (BitVec.ofNat 32 x.position) (if x.ltv then some x.lastToken else none)))

/-- The instant with its pages held (R373): the command has started (R263), the header's fields are fixed; pages for a peer go out. -/
def atInstant (s : State) (e : Exposure) (held : List (Nat × Nat × W64)) : State :=
  let s := if e.pairing then s else startCmd s e.ring e.seq
  let s := if e.kind = 0x03 then startStep s e.part (transferStep e.id) else s
  let s := match e.sess with
    | some i => (let x := getSess s i; setSess s i { x with expId := (x.expId + 1) % 2 ^ 32, expOpen := x.expOpen + 1 })
    | none => s
  let e := { e with taken := true, pages := held, header := expHeader s e held.length, ftime := s.time.ftime }
  let s := updExp s e.id (fun _ => e)
  match e.target with
  | .peer ep => match sendPages s e ep held with
    | .error x => copyFails s e x
    | .ok (s, ds, ns) =>
      let s := updExp s e.id (fun e => { e with digests := ds, cseqs := ns })
      if e.pairing then sendFullEnd s e held.length else s
  | _ => s

/-- The most records the target of an exposure holds; a peer has no such bound (R379, R391). -/
def expCap (s : State) (e : Exposure) : Option Nat :=
  match e.target with
  | .peer _ => none
  | _ => (findCmd s e.ring e.seq).map (fun c => dfield c 383 352)

/-- An exposure that has taken no reference ends its command FAULT (R379, R391). -/
def refuseExp (s : State) (e : Exposure) (syn field : Nat) : State :=
  let s := match findCmd s e.ring e.seq with
    | some c => (raiseCmd s c (synRec syn (some c.part) uHub field 0)).1
    | none => s
  failExp (endExp s e) e

/-- EXPOSURE_INSTANT (R373): pages in the host image are recalled, the set is held, and the copier begins. A set that
cannot be held for want of a frame waits (R154). -/
def instant (s : State) (e : Exposure) : State :=
  let ready : Except WalkErr State := match e.sess with
    | some i => (match sessGeo s i with | some g => recallHosts s i g (mappedPages s i g) | none => .ok s)
    | none => .ok s
  match ready with
  | .error .noFrame => s
  | .error (.retired _) => copyFails s e .retired
  | .error .digest => refuseExp s e 0x0005 0
  | .error (.line ces r f) => copyFails s e (.line ces r f)
  | .ok s1 =>
    let pages := expPages s1 e
    if (match expCap s1 e with | some n => decide (n < pages.length) | none => false) then refuseExp s1 e 0x001D 383
    else match (pages.filter (fun pg => decide (65535 ≤ (getFrame s1 pg.1).refcnt))).findSome? (fun pg => (pageErrors s1 pg.1 pg.2.1).2) with
      | some (r, f) => copyFails s1 e (.line [] r f)
      | none => match holdPages s1 e.part pages with
        | none => s
        | some (s, held) => atInstant s e held

/-- EXPOSURE_INSTANT (R373). -/
def execExposureInstant (n : Nat) (s : State) : Host.Outcome State Fault Refusal :=
  match s.exps.find? (fun e => e.id == n) with
  | none => .next s
  | some e => if expReady s e then .next (instant (reclaim s e.part) e) else .next s

/-! ## The copier (R374, R377, R378) -/

/-- RESULT of EXPOSE and MIGRATE_OUT. -/
def expResult (e : Exposure) : Nat := (bits e.header 511 480 <<< 96) + ((e.ftime % 2 ^ 64) <<< 32)

/-- Commands of a session that has moved complete MIGRATED on a Fixed ring, and FAULT on another (R391). -/
def endWaiting (s : State) (p : Nat) (h : W32) : State :=
  (s.cmds.filter (fun c => c.part == p && handleIn c == some h)).foldl (fun s c =>
    if c.cls == clsFixed then finish s c.ring c.seq stMigrated else faultCmd s c 0x0003 511 0) s

/-- The source gives a migrated session up once its target has the whole image (R391); a DRAIN counts it and goes on (R283). -/
def migrated (s : State) (e : Exposure) (c : Cmd) (i : Nat) : State :=
  let h := handleOf i (getSess s i)
  if opcodeOf c = 0x43 then endWaiting (noteDrain (closeSess s i) c.part (2 ^ 96)) c.part h
  else endWaiting (complete (closeSess (noteDegr s c i) i) c.ring c.seq { status := stOk, result := expResult e }) c.part h

/-- The end of an exposure whose image is whole (R379, R391). -/
def finishExp (s : State) (e : Exposure) : State :=
  let s := endExp s e
  match findCmd s e.ring e.seq with
  | none => s
  | some c => match e.kind == 0x03, e.sess with
    | true, some i => migrated s e c i
    | _, _ => complete s c.ring c.seq { status := stOk, result := expResult e }

/-- The image header with FINAL (R377). -/
def closedHeader (e : Exposure) : W1024 := BitVec.ofNat 1024 (((finalOf e.header e.digests).toNat <<< 768) + bits e.header 767 0)

/-- Write bytes at a target in host or far memory; after a function reset nothing more goes to the host (R260). -/
def targetWrite (s : State) (e : Exposure) (off : Nat) (d : List Byte) : State :=
  match e.target with
  | .host b => if (getRing s e.ring).mute then s else hostWrite s (b + off) d
  | .far b => writePart s e.part (b + off) d
  | .peer _ => s

/-- The header goes last (R377): written, or sent to the peer. -/
def writeHeader (s : State) (e : Exposure) : State :=
  let h := closedHeader e
  match e.target with
  | .peer ep =>
    let hd : W32 := match e.sess with | some i => handleOf i (getSess s i) | none => 0
    let s := send s e.part ep e.chan pkMessage 0 0 0 (.exp hd (.header h))
    let n := lastCseq s e.part ep e.chan
    updExp s e.id (fun e => { e with headSent := true, header := h, cseqs := [n] })
  | _ => finishExp (targetWrite s e 0 (padTo 4096 (natLE 128 h.toNat))) { e with header := h }

/-- The next page is written to host or far memory (R378): sealed for the host, plain for far frames. -/
def writePage (s : State) (e : Exposure) (pg : Nat × Nat × W64) (rest : List (Nat × Nat × W64)) : State :=
  if (getKey s (expSlot s e)).st != .active then copyFails s e .retired
  else match copyPage s e pg with
    | .error x => copyFails s e x
    | .ok (r, ces) =>
      let s := ces.foldl raise' s
      let h : W32 := match e.sess with | some i => handleOf i (getSess s i) | none => 0
      let r := match e.target with | .host _ => sealRec (getKey s (expSlot s e)).key h e.done r | _ => r
      let s := endCopy ((recWrites (4096 + 69632 * e.done) r).foldl (fun s w => targetWrite s e w.1 w.2) (beginCopy s e.part)) e.part
      let s := dropRef s e.part pg.1 pg.2.1
      let e := { e with pages := rest, done := e.done + 1, digests := e.digests ++ [r.digest] }
      let s := updExp s e.id (fun _ => e)
      if rest.isEmpty then writeHeader s e else s

/-- A peer has acknowledged the next page, or the header (R374, R379). -/
def pageAcked (s : State) (e : Exposure) (ep : W16) : State :=
  match e.cseqs with
  | [] => if e.pages.isEmpty && !e.headSent then writeHeader s e else s
  | n :: ns =>
    if !sentOff s e.part ep e.chan n then s
    else if e.headSent then finishExp s e
    else match e.pages with
      | [] => s
      | pg :: rest =>
        let s := dropRef s e.part pg.1 pg.2.1
        let e := { e with pages := rest, done := e.done + 1, cseqs := ns }
        let s := updExp s e.id (fun _ => e)
        if rest.isEmpty then writeHeader s e else s

/-- EXPOSURE_PAGE_TAKEN (R374, R377). -/
def execExposurePageTaken (n : Nat) (s : State) : Host.Outcome State Fault Refusal :=
  match s.exps.find? (fun e => e.id == n) with
  | none => .next s
  | some e =>
    if !e.taken || e.pairing then .next s
    else match e.target, e.pages with
      | .peer ep, _ => .next (pageAcked s e ep)
      | _, pg :: rest => .next (writePage s e pg rest)
      | _, [] => .next (writeHeader s e)

/-! ## Images at a peer (R380) -/

/-- Whether a partition takes images from an endpoint (R380): a member of an ACTIVE job it shares, or a paired
partner. -/
def imageFrom (s : State) (p : Nat) (src : W16) : Bool :=
  (List.range 64).any (fun j => let x := getJob s j; x.st == .active && x.part.toNat == p && x.members.contains src) ||
  s.sess.any (fun e => e.2.st != .free && e.2.part.toNat == p && e.2.pstate == 1 && e.2.partner == src)

/-- Frames an image of `n` records takes: its header page and its records (R375, R377, log 34). -/
def imageFrames (n : Nat) : Nat := ceilDiv (4096 + 69632 * n) 65536

/-- Allocate near frames of KIND working for an image, none where they are short. -/
def growImage (s : State) (p : Nat) (fs : List Nat) : Nat → Option (State × List Nat)
  | 0 => some (s, fs)
  | n + 1 => (newNear s p 4 0).bind (fun (s, f) => growImage s p (fs ++ [f]) n)

/-- A record or the header of an image arrives (R380); none while the peer has no place or frame for it. -/
def takeImage (s : State) (p : Nat) (src ch : W16) (handle : W32) (item : ExpItem) : Option State :=
  if !imageFrom s p src then none
  else
    let open_ := fun (m : PeerImage) => m.src == src && m.chan == ch && !m.final
    let im : Option PeerImage := match (getPart s p).images.find? open_ with
      | some m => some m
      | none => if (getPart s p).images.length < 16 then some ⟨src, ch, handle, 0, [], false, 0, []⟩ else none
    im.bind (fun m =>
      let m := match item with
        | .image r => { m with recs := m.recs ++ [r] }
        | .header h => { m with header := h, final := true, at_ := s.time.ftime }
        | _ => m
      let s := reclaim s p
      (growImage s p m.frames (imageFrames m.recs.length - m.frames.length)).map (fun (s, fs) =>
        let x := getPart s p
        setPart s p { x with images := x.images.filter (fun k => !open_ k) ++ [{ m with frames := fs }] }))

/-- Free the image at a place (R380). -/
def dropImage (s : State) (p n : Nat) : State :=
  let x := getPart s p
  match x.images[n]? with
  | none => s
  | some m => m.frames.foldl (fun s f => retireFrame s p f) (setPart s p { x with images := x.images.eraseIdx n })

/-- PEER_IMAGE_EXPIRY (R380): 60 s after its header arrived. -/
def execPeerImageExpiry (p n : Nat) (s : State) : Host.Outcome State Fault Refusal :=
  if 8 ≤ p then .fault .noSuchUnit
  else match (getPart s p).images[n]? with
    | none => .next s
    | some m => if m.final && decide (m.at_ + 63000000000 ≤ s.time.ftime) then .next (dropImage s p n) else .next s

/-! ## RESTORE and MIGRATE_IN (R381, R382, R393) -/

/-- Why an image cannot be restored. -/
inductive ImgErr where
  | syn (n : Nat)
  | retired
  | line (r : Rec) (f : Nat)
  deriving DecidableEq, Repr

/-- The image a peer sent, by its source and the low half of its FTIME. -/
def peerImage (s : State) (c : Cmd) : Option (PeerImage × Nat) :=
  (getPart s c.part).images.zipIdx.find? (fun e => e.1.final && e.1.src.toNat == dfield c 495 480 && bits e.1.header 687 656 == dfield c 479 448)

/-- Read bytes of an image in host memory, or in the far working region (R382, R475, R229). -/
def imageRead (s : State) (c : Cmd) (off n : Nat) : Except ImgErr (List Byte) :=
  let a := dfield c 447 384 + off
  if dfield c 511 510 = 2 then (match hostRead s a n with | some d => .ok d | none => .error (.syn 0x0026))
  else if nbits a 63 46 != 2 then .error (.syn 0x0002)
  else
    let m := readPart s c.part 0 a n
    match m.err, m.ue with
    | some .outside, _ => .error (.syn 0x0002)
    | some (.retired _), _ => .error .retired
    | none, some (r, f) => .error (.line r f)
    | none, none => .ok m.bytes

/-- Read the records of an image one after the other. -/
def imageRecs (s : State) (c : Cmd) : List Nat → Except ImgErr (List PageRec)
  | [] => .ok []
  | k :: ks => match parseRecE (imageRead s c) (4096 + 69632 * k) with
    | .error e => .error e
    | .ok r => match imageRecs s c ks with
      | .error e => .error e
      | .ok rs => .ok (r :: rs)

/-- The header and records of the image a command names (R382 step 1). -/
def imageOf (s : State) (c : Cmd) : Except ImgErr (W1024 × List PageRec) :=
  if dfield c 511 510 = 3 then (match peerImage s c with | some (m, _) => .ok (m.header, m.recs) | none => .error (.syn 0x0005))
  else match imageRead s c 0 4096 with
    | .error e => .error e
    | .ok b =>
      let h : W1024 := BitVec.ofNat 1024 (leNat (b.take 128))
      match imageRecs s c (List.range (bits h 511 480)) with
      | .error e => .error e
      | .ok rs => .ok (h, rs)

/-- The corrected lines that reading a range of a far image meets, and whether the read goes on (R220). -/
def farCes (s : State) (c : Cmd) (off n : Nat) : List Rec × Bool :=
  let a := dfield c 447 384 + off
  if nbits a 63 46 != 2 then ([], false)
  else
    let m := readPart s c.part 0 a n
    (m.ces, m.err.isNone && m.ue.isNone)

/-- The corrected lines of ranges read one after the other, up to the first read that fails. -/
def farCesAll (s : State) (c : Cmd) : List (Nat × Nat) → List Rec × Bool
  | [] => ([], true)
  | o :: os =>
    let x := farCes s c o.1 o.2
    if x.2 then (let y := farCesAll s c os; (x.1 ++ y.1, y.2)) else x

/-- The corrected lines of the records of a far image. -/
def recCes (s : State) (c : Cmd) : List Nat → List Rec
  | [] => []
  | k :: ks =>
    let o := 4096 + 69632 * k
    let bm : W256 := BitVec.ofNat 256 (leNat ((((readPart s c.part 0 (dfield c 447 384 + o) 4096).bytes).drop 64).take 32))
    let x := farCesAll s c ((o, 4096) :: (wordBits bm).map (fun b => (o + 4096 + 256 * b, 256)))
    if x.2 then x.1 ++ recCes s c ks else x.1

/-- Every corrected line that reading an image meets (R220). -/
def imageCes (s : State) (c : Cmd) : List Rec :=
  if dfield c 511 510 = 2 ∨ dfield c 511 510 = 3 then []
  else
    let x := farCes s c 0 4096
    if x.2 then x.1 ++ recCes s c (List.range (nbits (leNat ((readPart s c.part 0 (dfield c 447 384) 128).bytes)) 511 480)) else x.1

/-- FINAL and every DIGEST of an image (R382 step 2): the plaintext of its records, or why it is refused. -/
def checkImage (s : State) (c : Cmd) (h : W1024) (rs : List PageRec) : Except ImgErr (List (List Byte)) :=
  let slot := getKey s (getPart s c.part).keySlot.toNat
  if bits h 511 480 != rs.length || bits h 1023 768 != (finalOf h (rs.map (·.digest))).toNat then .error (.syn 0x0005)
  else if rs.any (·.enc) && slot.st != .active then .error .retired
  else
    let ps := rs.zipIdx.map (fun e => openRec slot.key (BitVec.ofNat 32 (bits h 751 720)) e.2 e.1)
    if (rs.zip ps).all (fun e => recOk e.1 e.2) then .ok ps else .error (.syn 0x0005)

/-- Map a record's page into a session (R381); none where it has no place. -/
def placeRec (s : State) (i : Nat) (g : Geo) (r : PageRec) (plain : List Byte) : Option State :=
  let l := bits r.id 63 48
  let grp := bits r.id 47 40
  let n := bits r.id 39 8
  let p := (getSess s i).part.toNat
  if !pteIn g l grp n then none
  else (ensureLeaf s i g l grp n).bind (fun s => (newNear s p 1 0).bind (fun (s, f) =>
    let s := fillFrame s f r plain
    let sm : Option (State × Nat) := if r.sumv then (newBlock s p).map (fun (s, a) => (writeBlk s a 0 r.summary, a)) else some (s, 0)
    sm.map (fun (s, a) =>
      let s := setPte s (getSess s i) g l grp n (pteWord ⟨false, a, f⟩)
      let x := getSess s i
      setSess s i { x with pages := x.pages + 1 })))

/-- Place every record of an image. -/
def placeRecs (s : State) (i : Nat) (g : Geo) : List (PageRec × List Byte) → Option State
  | [] => some s
  | e :: rest => (placeRec s i g e.1 e.2).bind (fun s => placeRecs s i g rest)

/-- The session record an image gives (R381). -/
def imageSess (s : State) (p : Nat) (cls : BitVec 2) (h : W1024) : Sess :=
  { newSess s p cls (BitVec.ofNat 16 (bits h 559 544)) (BitVec.ofNat 64 (bits h 655 592)) (bits h 543 512) with
    position := bits h 591 560, lastToken := BitVec.ofNat 32 (bits h 447 416), ltv := bit h 415 }

/-- Why a session image is not placed: with a status, or for want of frames. -/
inductive PlaceErr where
  | ends (st : Byte)
  | short
  deriving DecidableEq, Repr

/-- How the placement of a session image ends (R381): why it fails, or the state with the session open. -/
def openImage (s : State) (c : Cmd) (cls : BitVec 2) (h : W1024) (recs : List (PageRec × List Byte)) : Except PlaceErr (State × Nat) :=
  match findSet s c.part (BitVec.ofNat 16 (bits h 559 544)) with
  | none => .error (.ends stPlateMissing)
  | some ps =>
    if ps.st == .broken then .error (.ends stPlateMissing)
    else match nextIndex s c.part with
      | none => .error (.ends stRejected)
      | some i =>
        let s := openAt (startCmd (reclaim s c.part) c.ring c.seq) i (imageSess s c.part cls h)
        match setGeo ps with
        | none => if recs.isEmpty then .ok (s, i) else .error (.ends stRejected)
        | some g => match placeRecs s i g recs with
          | none => .error .short
          | some s => .ok (s, i)

/-- A command whose session image is not placed: with frames short it waits for the steps that run and is then REJECTED (R152, R381). -/
def notPlaced (s : State) (c : Cmd) (e : PlaceErr) : State :=
  match e with | .ends st => finish s c.ring c.seq st | .short => shortage (reclaim s c.part) c

/-- A peer image is consumed by the command that names it (R380, R381). -/
def consumeImage (s : State) (c : Cmd) : State :=
  if dfield c 511 510 != 3 then s else match peerImage s c with | some (_, n) => dropImage s c.part n | none => s

/-- A command whose image cannot be read or is refused (R382); an uncorrectable line lies inside the module, which ends no Fixed command
(R286). -/
def imageFault (s : State) (c : Cmd) (e : ImgErr) : State :=
  match e with
  | .syn n => faultCmd s c n 0 (if n = 0x0005 then 0 else dfield c 447 384)
  | .retired => finish (keyRetired s c).1 c.ring c.seq stFault
  | .line r f =>
    let s := frameBad ((raiseCmdDone s c r).1) f
    if c.cls == clsFixed then s else finish s c.ring c.seq stFault

/-- The targets of the records of a state image (R381), or none where one lies outside the near working region. -/
def stateTargets (s : State) (c : Cmd) (rs : List PageRec) : Option (List Nat) :=
  let base := dfield c 383 320
  let shift : W64 := if base = 0 then 0 else BitVec.ofNat 64 base - (match rs with | r :: _ => r.id | [] => 0)
  rs.mapM (fun r =>
    let a := (r.id + shift).toNat
    if nbits a 63 46 = 0 ∧ a % 65536 = 0 ∧ nbits a 45 16 < (getPart s c.part).nearPages.length then some (nbits a 45 16) else none)

/-- Write one page of a state image (R381): its bitmap becomes the record's; none while an exposed page has no frame for
its copy. -/
def putStatePage (s : State) (p n : Nat) (r : PageRec) (plain : List Byte) : Option State :=
  (writableWork s p n).map (fun s =>
    let f := nth 0 (getPart s p).nearPages n
    fillFrame { s with mem := { s.mem with written := clearBlocks s.mem.written f } } f r plain)

/-- Write the pages of a state image. -/
def putState (s : State) (p : Nat) : List (Nat × PageRec × List Byte) → Option State
  | [] => some s
  | e :: rest => (putStatePage s p e.1 e.2.1 e.2.2).bind (fun s => putState s p rest)

/-- RESTORE of a state image (R381, R397). -/
def restoreState (s : State) (c : Cmd) (recs : List (PageRec × List Byte)) : State :=
  match stateTargets s c (recs.map (·.1)) with
  | none => faultCmd s c 0x0002 0 (dfield c 383 320)
  | some ts => match putState (reclaim s c.part) c.part (ts.zip recs) with
    | none => s
    | some s => complete (consumeImage (startCmd s c.ring c.seq) c) c.ring c.seq { status := stOk, result := recs.length <<< 64 }

/-- RESTORE with its image read and verified (R381). -/
def restoreImage (s : State) (c : Cmd) (h : W1024) (recs : List (PageRec × List Byte)) : State :=
  if bits h 479 472 = 2 then restoreState s c recs
  else match openImage s c clsOpen h recs with
    | .error e => notPlaced s c e
    | .ok (s, i) => complete (consumeImage s c) c.ring c.seq
        { status := stOk, result := ((handleOf i (getSess s i)).toNat <<< 96) + (recs.length <<< 64) }

/-- RESTORE (R381, R382). -/
def execRestore (r q : Nat) (s : State) : Host.Outcome State Fault Refusal :=
  match runnable s r q 0x31 with
  | none => .next s
  | some c =>
    let s := (imageCes s c).foldl raise' s
    match imageOf s c with
    | .error e => .next (imageFault s c e)
    | .ok (h, rs) => match checkImage s c h rs with
      | .error e => .next (imageFault s c e)
      | .ok ps => .next (restoreImage s c h (rs.zip ps))

/-- MIGRATE_IN with its image read and verified (R393): the session takes the class of its ring; on a Fixed ring it is
paired, and a peer image is consumed once the command completes OK. -/
def migrateIn (s : State) (c : Cmd) (h : W1024) (recs : List (PageRec × List Byte)) : State :=
  if bits h 479 472 = 2 then faultSyn s c 0x0005
  else match openImage s c c.cls h recs with
    | .error e => notPlaced s c e
    | .ok (s, i) =>
      let s := if c.cls == clsFixed then s else consumeImage s c
      opened s c i (dfield c 383 368) (dfield c 367 353) (bits h 751 720 <<< 64)

/-- MIGRATE_IN (R382, R384, R393). -/
def execMigrateIn (r q : Nat) (s : State) : Host.Outcome State Fault Refusal :=
  match runnable s r q 0x33 with
  | none => .next s
  | some c =>
    if partnerBad c (dfield c 383 368) then .next (faultCmd s c 0x0019 383 0)
    else
      let s := (imageCes s c).foldl raise' s
      match imageOf s c with
      | .error e => .next (imageFault s c e)
      | .ok (h, rs) => match checkImage s c h rs with
        | .error e => .next (imageFault s c e)
        | .ok ps => .next (migrateIn s c h (rs.zip ps))

end Sys2Proof.Machine
end

