-- ==== Sys2Proof/Machine/Partner.lean ====
section
/-! DEFINITION. Fixed sessions and their partners (R283, R383 to R390): pairing, step notices, the shadow's pages and
acknowledgements, keepalives, the loss of a partner and takeovers; CHANNEL_OPEN (R318, R370), STOP_BATH (R332) and
DRAIN (R283). -/

namespace Sys2Proof.Machine

open Sys2Proof

/-! ## Sessions named by a message (R392) -/

/-- A window of PROG_CFG in ticks, clamped (R359). -/
def winTicks (w : BitVec 26) : Nat := Nat.max 10 (Nat.min w.toNat 60000000) * 1050

/-- FABRIC_WIN of a session's partition in ticks. -/
def fabricTicks (s : State) (x : Sess) : Nat := winTicks (getPart s x.part.toNat).fabricWin

/-- The live session of partition `p` that a message of `src` names; none where the handle's generation is not the
record's (R392). -/
def msgSess (s : State) (p : Nat) (src : W16) (h : W32) : Option Nat :=
  let i := bits h 17 0
  let x := getSess s i
  if (x.st = .open_ ∨ x.st = .fenced) ∧ x.gen.toNat = bits h 31 18 ∧ x.part.toNat = p ∧ x.partner = src then some i else none

/-- Act on the session a message names; an item that names none is dropped and counted (R392). -/
def withSess (s : State) (p : Nat) (k : Pkt) (h : W32) (f : State → Nat → Option State) : Option State :=
  match msgSess s p k.src h with
  | none => some (dropStale s)
  | some i => f s i

/-! ## Losing a partner (R387) -/

/-- The partner of session `i` is lost (R387): the session is degraded Fixed, and what waited for the partner goes on
without it; an opening command completes with DEGRADED (log 36). -/
def losePartner (s : State) (i : Nat) : State :=
  let s := (s.steps.filter (fun st => st.sess == some i)).foldl dropSends s
  let x := getSess s i
  let h := handleOf i x
  let s := setSess s i { x with pstate := 2, degraded := true, yield_ := false, reexp := false }
  let s := (s.exps.filter (fun e => e.pairing && e.sess == some i)).foldl endExp s
  (s.cmds.filter (fun c => c.wait == .pairing && c.handle == h)).foldl (fun s c =>
    complete (if opcodeOf c = 0x33 then consumeImage s c else s) c.ring c.seq { status := stOk, result := c.res }) s

/-- The record of the loss of a session's partner (R387). -/
def lostRec (x : Sess) : Rec := { code := 0x0301, sev := sevContained, part := some x.part.toNat, unitType := uHub, syn := 0x0011 }

/-- PARTNER_LOST (R387): no acknowledgement or reply within FABRIC_WIN. An error that is only queued is not acted on (R344). A session that has been given up to its partner
waits until the partner must have taken it over (log 36). -/
def execPartnerLost (i : Nat) (s : State) : Host.Outcome State Fault Refusal :=
  let x := getSess s i
  let w := fabricTicks s x * (if x.yield_ then 3 else 1)
  if paired x && (x.st == .open_ || x.st == .fenced) && decide (x.heard + w < s.time.ftime) then
    let r := raise s (lostRec x)
    .next (if r.act then losePartner (dropLatch r.st r.seq) i else r.st)
  else .next s

/-! ## Pairing (R384, R385) -/

/-- Whether a partner can take a session (R384). -/
def canPair (s : State) (p : Nat) (pr : PairReq) : Bool :=
  let x := getRing s pr.ring.toNat
  x.st == .running && x.cls == clsFixed && x.part.toNat == p &&
  (match findSet s p pr.pin with | some ps => ps.st != .loading && ps.st != .broken | none => false) &&
  (nextIndex s p).isSome && decide (pr.pages ≤ nearFree s p)

/-- PAIRING_REQUEST at the partner (R384): a shadow opens, or the request is refused. -/
def takePairing (k : Pkt) (pr : PairReq) (s : State) (p : Nat) : Option State :=
  let s := reclaim s p
  let answer := fun (s : State) (ok : Bool) (h : W32) => some (send s p k.src chExp pkMessage 0 0 0 (.pairRsp pr.handle ok h s.pwr.feedId))
  if !canPair s p pr then answer s false 0
  else match nextIndex s p with
    | none => answer s false 0
    | some i =>
      let x := { newSess s p clsFixed pr.pin pr.seed pr.quota.toNat with
                 position := pr.position.toNat, fixedPos := pr.position.toNat, partner := k.src, partnerRing := pr.ring, shadow := true,
                 pstate := 1, partnerHandle := pr.handle, openDig := pr.openDig, heard := s.time.ftime }
      let s := openAt s i x
      answer s true (handleOf i (getSess s i))

/-- PAIRING_REQUEST (R384). -/
def execPairingRequest (k : Pkt) (pr : PairReq) (s : State) : Host.Outcome State Fault Refusal := .next (deliver s k (takePairing k pr))

/-- Two FEED_ID values are one feed (R385). -/
def sameFeed (a b : BitVec 4) : Bool := a == b || a == 0 || b == 0

/-- ALLOW_SHARED_FEED of an opening command. -/
def allowsFeed (c : Cmd) : Bool :=
  match opcodeOf c with
  | 0x01 => bit c.desc 368
  | 0x05 => bit c.desc 320
  | _ => bit c.desc 352

/-- The opening command of a session that waits for its pairing. -/
def pairingCmd (s : State) (h : W32) : Option Cmd := s.cmds.find? (fun c => c.wait == .pairing && c.handle == h)

/-- A pairing that is refused ends its command REJECTED, and its session goes (R274, R385). -/
def rejectPair (s : State) (c : Cmd) (i : Nat) : State := finish (closeSess s i) c.ring c.seq stRejected

/-- Begin a full exposure of a session to its partner (R384, R387). -/
def startFull (s : State) (i r q : Nat) : State :=
  let x := getSess s i
  { s with exps := s.exps ++ [{ id := nextExp s, ring := r, seq := q, part := x.part.toNat, sess := some i, kind := 0, target := .peer x.partner,
                                chan := chExp, pairing := true }] }

/-- The pairing proceeds (R384): OPEN_SESSION completes, FORK and MIGRATE_IN expose the new session first. -/
def pairProceeds (s : State) (c : Cmd) (i : Nat) (shadow : W32) (one : Bool) : State :=
  let x := getSess s i
  let s := setSess s i { x with pstate := 1, partnerHandle := shadow, heard := s.time.ftime, sentAt := s.time.ftime, degraded := x.degraded || one }
  if opcodeOf c = 0x01 then complete s c.ring c.seq { status := stOk, result := c.res } else startFull s i c.ring c.seq

/-- PAIRING_RESPONSE at the primary (R384, R385): E_SHARED_FEED names both endpoints (log 90). -/
def takePairRsp (h : W32) (ok : Bool) (shadow : W32) (feed : BitVec 4) (s : State) (i : Nat) : Option State :=
  match pairingCmd s h with
  | none => some s
  | some c =>
    if (getSess s i).pstate != 0 then some s
    else if !ok then some (rejectPair s c i)
    else
      let one := sameFeed s.pwr.feedId feed
      if one && !allowsFeed c then
        let s := (raiseCmdDone s c { code := 0x0801, sev := sevContained, unitType := uHub,
                                        names := [(epOf s (getSess s i).part.toNat).toNat, (getSess s i).partner.toNat] }).1
        some (rejectPair (toPartner s i (.exp shadow .close)) c i)
      else some (pairProceeds s c i shadow one)

/-- PAIRING_RESPONSE (R384, R385). -/
def execPairingResponse (k : Pkt) (h : W32) (ok : Bool) (shadow : W32) (feed : BitVec 4) (s : State) : Host.Outcome State Fault Refusal :=
  .next (deliver s k (fun s p => withSess s p k h (takePairRsp h ok shadow feed)))

/-! ## Step notices and the shadow's pages (R386) -/

/-- A notice reaches the shadow (R386); notices of fixed steps are dropped. -/
def takeNotice (n : Notice) (s : State) (i : Nat) : Option State :=
  let x := getSess s i
  if x.shadow then some (setSess s i { x with notices := x.notices.filter (fun m => decide (x.fixedSeq < m.seq)) ++ [n] }) else some (dropStale s)

/-- STEP_NOTICE (R386). -/
def execStepNotice (k : Pkt) (h : W32) (desc : W512) (ring : BitVec 15) (seq : W64) (tokens : List W32) (mask : List Byte)
    (s : State) : Host.Outcome State Fault Refusal :=
  .next (deliver s k (fun s p => withSess s p k h (takeNotice ⟨desc, ring.toNat, seq.toNat, tokens, mask⟩)))

/-- SEQ of the acknowledgement of a full exposure (log 28). -/
def fullSeq : Nat := 2 ^ 64 - 1

/-- Once every page is in place the shadow takes the step's position and token and acknowledges (R386, R141). -/
def ackShadow (s : State) (i : Nat) : State :=
  let x := getSess s i
  match x.pendStep with
  | none => s
  | some (q, res, _) =>
    if !x.badPages.isEmpty then s
    else
      let x := { x with pendStep := none }
      let x := if q = fullSeq then { x with fixedPos := x.position }
        else { x with fixedPos := bits res 95 64, fixedSeq := q, position := bits res 95 64, lastToken := BitVec.ofNat 32 (bits res 127 96), ltv := true }
      toPartner (setSess s i x) i (.expAck x.partnerHandle q s.time.ftime)

/-- A verified page goes into a new frame of the shadow, and the old reference is dropped (R386); none while there is no
frame. -/
def placeShadow (s : State) (i : Nat) (g : Geo) (r : PageRec) : Option State :=
  let l := bits r.id 63 48
  let grp := bits r.id 47 40
  let n := bits r.id 39 8
  let old := walk s (getSess s i) g l grp n
  match old with
  | none => placeRec s i g r r.payload
  | some e =>
    let p := (getSess s i).part.toNat
    (newNear s p 1 0).bind (fun (s, f) =>
      let s := fillFrame s f r r.payload
      let sm : Option (State × Nat) := if r.sumv then (newBlock s p).map (fun (s, a) => (writeBlk s a 0 r.summary, a)) else some (s, 0)
      sm.map (fun (s, a) => dropRef (setPte s (getSess s i) g l grp n (pteWord ⟨false, a, f⟩)) p e.pfn e.sum))

/-- A page for the shadow arrives (R386): one whose DIGEST fails is asked for again. -/
def shadowPage (s : State) (i : Nat) (r : PageRec) : Option State :=
  let x := getSess s i
  let id := r.id.toNat
  if !recOk r r.payload then
    some (toPartner (setSess s i { x with badPages := tset x.badPages id (tget 0 x.badPages id + 1) }) i (.again x.partnerHandle r.id))
  else match sessGeo s i with
    | none => some s
    | some g => (placeShadow (reclaim s x.part.toNat) i g r).map (fun s =>
        let x := getSess s i
        ackShadow (setSess s i { x with badPages := tdel x.badPages id }) i)

/-- An item of the exposure stream reaches a shadow. -/
def takeItem (item : ExpItem) (s : State) (i : Nat) : Option State :=
  let x := getSess s i
  if !x.shadow then some (dropStale s)
  else match item with
    | .shadow r => shadowPage s i r
    | .stepEnd q res n => some (ackShadow (setSess s i { x with pendStep := some (q.toNat, res, n) }) i)
    | .fullEnd n pos last =>
      let x := { x with pendStep := some (fullSeq, 0, n), position := pos.toNat, lastToken := last.getD x.lastToken, ltv := x.ltv || last.isSome }
      some (ackShadow (setSess s i x) i)
    | .inputs q log => some (setSess s i { x with inputs := x.inputs.filter (fun e => decide (x.fixedSeq < e.1)) ++ [(q.toNat, log)] })
    | .odd q => some (setSess s i { x with oddSeq := some q.toNat })
    | .close => some (closeSess s i)
    | _ => some s

/-- EXPOSURE_PAGE (R380, R386, R390): an item for a shadow, or for an image this partition holds for its source. -/
def execExposurePage (k : Pkt) (h : W32) (item : ExpItem) (s : State) : Host.Outcome State Fault Refusal :=
  .next (deliver s k (fun s p => match item with
    | .image _ => takeImage s p k.src k.chan h item
    | .header _ => takeImage s p k.src k.chan h item
    | _ => withSess s p k h (takeItem item)))

/-! ## Acknowledgements, keepalives and asked pages at the primary (R386, R387) -/

/-- A full exposure is acknowledged (R384, R387). -/
def fullAcked (s : State) (i : Nat) : State :=
  let s := (s.exps.filter (fun e => e.pairing && e.sess == some i && e.taken)).foldl endExp s
  let x := getSess s i
  let s := setSess s i { x with reexp := false, badPages := [] }
  match pairingCmd s (handleOf i x) with
  | none => s
  | some c => complete (if opcodeOf c = 0x33 then consumeImage s c else s) c.ring c.seq { status := stOk, result := c.res }

/-- The step of a session that waits for the acknowledgement of SEQ `q`. -/
def sendingStep (s : State) (i q : Nat) : Option StepRec := s.steps.find? (fun st => st.sess == some i && st.seq == q && st.phase == .exposing)

/-- An acknowledgement of the partner grants a lease (R386). -/
def takeExpAck (q : Nat) (t : Nat) (s : State) (i : Nat) : Option State :=
  let x := getSess s i
  if x.shadow then some (dropStale s)
  else
    let s := setSess s i { x with heard := s.time.ftime, lease := t + fabricTicks s x }
    if q = fullSeq then some (fullAcked s i)
    else match sendingStep s i q with
      | none => some s
      | some st =>
        let s := dropSends s st
        let x := getSess s i
        some (updStep (setSess s i { x with badPages := [] }) st.ring st.seq (fun y => { y with acked := true }))

/-- EXPOSURE_ACK (R386). -/
def execExposureAck (k : Pkt) (h : W32) (q t : W64) (s : State) : Host.Outcome State Fault Refusal :=
  .next (deliver s k (fun s p => withSess s p k h (takeExpAck q.toNat t.toNat)))

/-- Whether a session's plate set is BROKEN, so that the session resumes on its partner (R305). -/
def setBroken (s : State) (x : Sess) : Bool :=
  match findSet s x.part.toNat x.plateset with | some ps => ps.st == .broken | none => false

/-- KEEPALIVE_SEND (R387): every 1 ms while paired; not for a session this device gives up to its partner (log 36). -/
def execKeepaliveSend (i : Nat) (s : State) : Host.Outcome State Fault Refusal :=
  let x := getSess s i
  if paired x && (x.st == .open_ || x.st == .fenced) && !x.yield_ && !setBroken s x && decide (x.sentAt + 1050000 ≤ s.time.ftime) then
    .next (toPartner (setSess s i { x with sentAt := s.time.ftime }) i (.keep x.partnerHandle))
  else .next s

/-- KEEPALIVE at the partner (R387, R388): answered. -/
def takeKeep (s : State) (i : Nat) : Option State :=
  let x := getSess s i
  if !x.shadow then some (dropStale s)
  else some (toPartner (setSess s i { x with heard := s.time.ftime, reopenAt := none }) i (.keepRsp x.partnerHandle))

/-- KEEPALIVE (R387, R388). -/
def execKeepalive (k : Pkt) (h : W32) (s : State) : Host.Outcome State Fault Refusal := .next (deliver s k (fun s p => withSess s p k h takeKeep))

/-- KEEPALIVE_REPLY (R387). -/
def execKeepaliveReply (k : Pkt) (h : W32) (s : State) : Host.Outcome State Fault Refusal :=
  .next (deliver s k (fun s p => withSess s p k h (fun s i => let x := getSess s i; some (setSess s i { x with heard := s.time.ftime }))))

/-- The page of an open exposure that the partner asks for, by its ID: its frame and summary block. -/
def askedPage (s : State) (i id : Nat) : Option (Nat × Nat) :=
  match s.steps.findSome? (fun st => if st.sess == some i then (st.toSend.find? (fun k => k.2.2 == id)) else none) with
  | some k => some (k.1, k.2.1)
  | none => s.exps.findSome? (fun e => if e.pairing && e.sess == some i then (e.pages.find? (fun k => k.2.2.toNat == id)).map (fun k => (k.1, k.2.1)) else none)

/-- PAGE_ASKED_AGAIN at the primary (R386): the page goes again; its third failure counts as the loss of the partner. -/
def takeAgain (id : Nat) (s : State) (i : Nat) : Option State :=
  let x := getSess s i
  let n := tget 0 x.badPages id + 1
  let s := setSess s i { x with badPages := tset x.badPages id n }
  if 3 ≤ n then
    let r := raise s (lostRec x)
    some (if r.act then losePartner (dropLatch r.st r.seq) i else r.st)
  else match askedPage s i id with
    | none => some s
    | some (f, sm) => some (toPartner s i (.exp x.partnerHandle (.shadow (makeRec s 1 (BitVec.ofNat 64 id) f sm))))

/-- PAGE_ASKED_AGAIN (R386). -/
def execPageAskedAgain (k : Pkt) (h : W32) (id : W64) (s : State) : Host.Outcome State Fault Refusal :=
  .next (deliver s k (fun s p => withSess s p k h (takeAgain id.toNat)))

/-- PARTNER_STEP_DIGEST at the primary (R349, R350): an equal digest proves the step, another starts the third run. -/
def takeDigest (q : Nat) (d : W256) (s : State) (i : Nat) : Option State :=
  match s.steps.find? (fun st => st.sess == some i && st.seq == q && (st.phase == .exposing || st.phase == .proving)) with
  | none => some s
  | some st =>
    if !st.suspect || st.proven then some s
    else if d == stepDigest s st then some (provenStep s st.ring st.seq true)
    else some (startReplay (updStep s st.ring st.seq (fun y => { y with partnerDig := some d })) st.part)

/-- PARTNER_STEP_DIGEST (R349). -/
def execPartnerStepDigest (k : Pkt) (h : W32) (q : W64) (d : W256) (s : State) : Host.Outcome State Fault Refusal :=
  .next (deliver s k (fun s p => withSess s p k h (takeDigest q.toNat d)))

/-! ## Takeover (R388, R389) -/

/-- Insert a notice in SEQ order. -/
def insertNotice (n : Notice) : List Notice → List Notice
  | [] => [n]
  | m :: ms => if n.seq < m.seq then n :: m :: ms else m :: insertNotice n ms

/-- The commands a takeover puts into PARTNER_RING (R388): the MIGRATE_IN, then each step noticed after FIXED_SEQ. -/
def adoptions (x : Sess) (i : Nat) : List Adopt :=
  let h := handleOf i x
  { handle := h, primary := x.partnerHandle, digest := x.openDig, notice := none } ::
  ((x.notices.filter (fun n => decide (x.fixedSeq < n.seq))).foldl (fun l n => insertNotice n l) []).map
    (fun n => { handle := h, primary := x.partnerHandle, digest := descDigest n.desc, notice := some n })

/-- The member that was the primary is replaced in the jobs of partition `p` (R327, R388 step 4). -/
def moveMember (s : State) (p : Nat) (old : W16) : State :=
  (List.range 64).foldl (fun s ji =>
    let j := getJob s ji
    if j.st == .idle || j.part.toNat != p then s
    else match j.members.findIdx? (· == old) with
      | none => s
      | some r =>
        let s := setJob s ji { j with members := j.members.set r (epOf s p) }
        ((others j).filter (fun e => e != old && e != epOf s p)).foldl (fun s e => send s p e chJob pkMove j.jobId 0 0 (.move r (epOf s p))) s) s

/-- The partner takes session `i` over (R388). -/
def takeOver (s : State) (i : Nat) : State :=
  let x := getSess s i
  let p := x.part.toNat
  let r := x.partnerRing.toNat
  let s := setSess s i { x with shadow := false, degraded := true, pstate := 2, reopenAt := none, notices := [], pendStep := none, badPages := [] }
  let y := getRing s r
  let s := adoptAll (setRing s r { y with adoptQ := y.adoptQ ++ adoptions x i }) r
  moveMember s p x.partner

/-- The shadows of partition `p` whose primary is at endpoint `e`. -/
def shadowsOf (s : State) (p : Nat) (e : W16) : List Nat :=
  (s.sess.filter (fun k => k.2.st == .open_ && k.2.shadow && k.2.part.toNat == p && k.2.partner == e)).map (·.1)

/-- TAKEOVER_SILENCE (R388, R389): no keepalive for 2 × FABRIC_WIN. -/
def execTakeoverSilence (i : Nat) (s : State) : Host.Outcome State Fault Refusal :=
  let x := getSess s i
  if x.shadow && x.st == .open_ && decide (x.heard + 2 * fabricTicks s x ≤ s.time.ftime) then
    .next (toPartner (takeOver s i) i (.takeover x.partnerHandle))
  else .next s

/-- TAKEOVER_AFTER_REOPEN (R388): no keepalive within 1 ms of the primary's newer CHANNEL_OPEN. -/
def execTakeoverAfterReopen (i : Nat) (s : State) : Host.Outcome State Fault Refusal :=
  let x := getSess s i
  match x.reopenAt with
  | none => .next s
  | some t => if x.shadow && x.st == .open_ && decide (t + 1050000 ≤ s.time.ftime) then .next (takeOver s i) else .next s

/-- TAKEOVER at the primary (R389): unreleased commands of the session complete MIGRATED, STATE becomes MOVED and GEN
advances; the session's pages are given back under R154 (R390). -/
def takeTakeover (h : W32) (s : State) (i : Nat) : Option State :=
  if (getSess s i).shadow then some (dropStale s)
  else
    let s := (s.cmds.filter (fun c => handleIn c == some h || (c.wait == .pairing && c.handle == h))).foldl (fun s c => stopCmd s c.ring c.seq { status := stMigrated }) s
    let s := (s.exps.filter (fun e => e.sess == some i)).foldl endExp (dropEmpty s)
    let s := noteDrain (dropPages s i) (getSess s i).part.toNat (2 ^ 96)
    let x := getSess s i
    let last := x.gen.toNat = 16383
    let s := setSess s i { gen := if last then x.gen else x.gen + 1, st := .moved, part := x.part, cls := x.cls, parked := last }
    let s := if last then { s with dev := { s.dev with parked := s.dev.parked + 1 } } else s
    some (startLaunches (sweepSets s))

/-- TAKEOVER (R389). -/
def execTakeover (k : Pkt) (h : W32) (s : State) : Host.Outcome State Fault Refusal :=
  .next (deliver s k (fun s p => withSess s p k h (takeTakeover h)))

/-! ## STOP_BATH (R332, R371, R388) -/

/-- A Stop bath at partition `p`. -/
def takeStop (s : State) (p : Nat) (job : W32) (b : StopBody) : State :=
  match jobById s p job with
  | none => { s with fab := { s.fab with unknownStops := s.fab.unknownStops + 1 } }
  | some ji =>
    let j := getJob s ji
    match j.st with
    | .active => startLaunches (actStop s ji b false)
    | .stopped => if j.stop = some (b.origin, b.stopNum) then s else { s with fab := { s.fab with dupes := s.fab.dupes + 1 } }
    | _ => { s with fab := { s.fab with unknownStops := s.fab.unknownStops + 1 } }

/-- STOP_BATH (R318, R332): dropped unless its GEN is the one held, and outside the order of its channel, on every plane (R331); the shadows of its ORIGIN are taken over
(R388). -/
def execStopBath (k : Pkt) (b : StopBody) (s : State) : Host.Outcome State Fault Refusal :=
  .next ((partsOfEp s k.dst).foldl (fun s p =>
    let s := wakePart s p
    if !k.ecrcOk then badEcrc s p
    else if genAge s k.src k.gen != .same then dropStale s
    else (shadowsOf s p b.origin).foldl takeOver (takeStop s p k.job b)) s)

/-! ## CHANNEL_OPEN (R318, R327, R370, R387, R388) -/

/-- Open a sending channel anew: CHANNEL_OPEN at CSEQ 0, then what it keeps, renumbered (R318). -/
def reopenTx (s : State) (c : TxChan) (keep : Bool) : State :=
  let ks := if keep then c.unack else []
  let blank : TxPkt := { kind := pkOpen, part := c.part, dst := c.dst, chan := c.chan, cseq := 0, gen := s.dev.hubTag, job := 0, status := 0,
                         addr := 0, body := .digest 0 }
  let ks := match ks with
    | k :: _ => if k.kind == pkOpen && k.cseq == 0 then ks else blank :: ks
    | [] => [blank]
  let ks := ks.zipIdx.map (fun e => { e.1 with cseq := e.2, gen := s.dev.hubTag })
  let c' := { c with next := ks.length, unack := ks, moved := s.time.ftime, resent := 0, path := pathOf s c.dst c.chan }
  let s := { s with fab := { s.fab with txCh := updFirst (isTx c.part c.dst c.chan) (fun _ => c') s.fab.txCh } }
  (ks.take 1024).foldl emit s

/-- What the reset of a peer's hub means here (R370, R387, R388): its jobs stop, this device's channels to it open anew
(log 37), its shadows wait for a keepalive, and the sessions paired with it are exposed in full again. -/
def peerReset (s : State) (src : W16) : State :=
  let s := (List.range 64).foldl (fun s ji =>
    let j := getJob s ji
    if j.st == .active && j.members.contains src then stopBath s ji 0x03 0 else s) s
  let s := { s with sep := { s.sep with credits := s.sep.credits.filter (fun e => e.1.2 != src.toNat) } }
  let s := abandonExps s (fun e => e.target == .peer src && !e.pairing)
  let s := (s.exps.filter (fun e => e.target == .peer src)).foldl endExp s
  let s := (s.fab.txCh.filter (fun c => c.dst == src)).foldl (fun s c => reopenTx s c true) s
  s.sess.foldl (fun s e =>
    let x := getSess s e.1
    if x.partner != src || x.st == .free || x.pstate != 1 then s
    else if x.shadow then setSess s e.1 { x with reopenAt := some s.time.ftime }
    else
      let s := setSess s e.1 { x with reexp := true }
      match pairingCmd s (handleOf e.1 x) with
      | some c => startFull s e.1 c.ring c.seq
      | none => startFull s e.1 0 (2 ^ 64)) s

/-- A CHANNEL_OPEN that forms a job leaves the digest of its member table (R327). -/
def noteOpen (s : State) (p : Nat) (k : Pkt) (d : W64) : State :=
  if k.job = 0 then s
  else
    let os := s.fab.opens.filter (fun o => !(o.1 == p && o.2.1 == k.src && o.2.2.1 == k.job))
    activateJobs { s with fab := { s.fab with opens := os ++ [(p, k.src, k.job, d)] } }

/-- CHANNEL_OPEN at partition `p` (R318). -/
def takeOpen (s : State) (p : Nat) (k : Pkt) (d : W64) : State :=
  let s := wakePart s p
  if !k.ecrcOk then badEcrc s p
  else match genAge s k.src k.gen with
    | .older => dropStale s
    | .same => deliverSame s p k (fun s p => some (noteOpen s p k d))
    | .newer =>
      let held := (tfind s.fab.peers k.src.toNat).isSome
      let s := newSource s k.src k.gen
      let s := putRx s { part := p, src := k.src, chan := k.chan, expect := 1, since := 1, firstAt := s.time.ftime }
      noteOpen (if held then peerReset s k.src else s) p k d

/-- CHANNEL_OPEN (R318). -/
def execChannelOpen (k : Pkt) (d : W64) (s : State) : Host.Outcome State Fault Refusal :=
  .next (startLaunches ((partsOfEp s k.dst).foldl (fun s p => takeOpen s p k d) s))

/-! ## DRAIN (R283) -/

/-- Whether a command is a session command: it names a session or opens one. -/
def isSessionCmd (c : Cmd) : Bool := (handleIn c).isSome || ([0x01, 0x31, 0x33] : List Nat).contains (opcodeOf c)

/-- Whether a session of partition `p` is to move to its partner: Fixed, and served here for a partner (R283). -/
def leaving (p : Nat) (x : Sess) : Bool :=
  x.part.toNat == p && x.cls == clsFixed && (x.st == .open_ || x.st == .fenced) && paired x

/-- Whether a command of the session with handle `h` has started. -/
def sessBusy (s : State) (p : Nat) (h : W32) : Bool :=
  s.cmds.any (fun k => k.part == p && ((handleIn k == some h && k.started) || (k.wait == .pairing && k.handle == h)))

/-- Move a session to its partner for a DRAIN by the steps of R391, once none of its commands is under way: it is FENCED, and exposed. -/
def moveSess (s : State) (c : Cmd) (i : Nat) : State :=
  let x := getSess s i
  let h := handleOf i x
  if x.st != .open_ || x.yield_ || sessBusy s c.part h then s
  else
    let s := setSess s i { x with st := .fenced }
    let s := updAllCmds s (fun k => k.part == c.part && handleIn k == some h) (fun k => { k with ready := false })
    startExp s c (some i) 0x03 (.peer x.partner)

/-- Move every Fixed session of a DRAIN's partition that can move now. -/
def moveSessions (s : State) (c : Cmd) : State :=
  ((s.sess.filter (fun e => leaving c.part e.2)).map (·.1)).foldl (fun s i => moveSess s c i) s

/-- DRAIN completes once no session command is outstanding and the Fixed sessions have moved (R283, log 38). -/
def drainEnds (s : State) (c : Cmd) : State :=
  let s := moveSessions s c
  if s.sess.any (fun e => leaving c.part e.2) || s.cmds.any (fun k => k.part == c.part && isSessionCmd k) then s
  else complete s c.ring c.seq { status := stOk, result := c.res }

/-- The start of a DRAIN (R283): work is refused from here on, and with MODE 1 Open commands stop. -/
def drainStart (s : State) (c : Cmd) : State :=
  let s := startCmd s c.ring c.seq
  let s := setPart s c.part { getPart s c.part with draining := true }
  let s := updCmd s c.ring c.seq (fun k => { k with wait := .drain, res := 0 })
  let mine := s.cmds.filter (fun k => k.part == c.part && k.cls == clsOpen && !(k.ring == c.ring && k.seq == c.seq))
  let s := (if dfield c 511 510 = 1 then mine else []).foldl (fun s x =>
    let o := cancelOne s x
    if o.2 then noteDrain o.1 c.part (2 ^ 32) else o.1) s
  startLaunches (dropEmpty s)

/-- DRAIN (R283): its row comes again until it completes. -/
def execDrain (r q : Nat) (s : State) : Host.Outcome State Fault Refusal :=
  match runnable s r q 0x43 with
  | some c =>
    if dfield c 511 510 = 3 then
      let x := getPart s c.part
      .next (finish (setPart (startCmd s r q) c.part { x with draining := false }) r q stOk)
    else
      let s := drainStart s c
      .next (match findCmd s r q with | some c => drainEnds s c | none => s)
  | none => match findCmd s r q with
    | none => .next s
    | some c => if c.wait == .drain then .next (drainEnds s c) else .next s

end Sys2Proof.Machine
end

