-- ==== Sys2Proof/Machine/Domains.lean ====
section
/-! DEFINITION. Progress counters (R358 to R360), reset domains and their order of events (R362 to R366), contact sheets
(R367, R368) and escalation (R345). The rows are in Stalls.lean. -/

namespace Sys2Proof.Machine

open Sys2Proof

/-! ## Contact sheets (R367, R368) -/

/-- The rows a sheet samples, as (pad, key), in the order W, A, P of bank and row (R368). -/
def sampleKeys : List (Nat × Nat) :=
  (List.range 128).map (fun i => (0, rowKey (i / 8) (i % 8))) ++ (List.range 256).map (fun i => (1, rowKey (i / 8) (i % 8))) ++
  (List.range 64).map (fun i => (2, rowKey (i / 4) (i % 4)))

/-- A record of a read made for a sheet: port 0xF, no instruction. -/
def sheetRec (p : Nat) (r : Rec) : Rec := { r with part := some p, instr := none }

/-- One sampled row (R368): its bytes and its two ROW_STATUS bits, with the record of its error. -/
def sampleRow (s : State) (c p pad key : Nat) : State × List Byte × Nat :=
  let zeros := List.replicate (rowW pad) (0 : Byte)
  if !(getPad (getCore s c) pad).valid.contains key then (s, zeros, 0)
  else
    let r := fetchRow s c 0 0 15 0 pad 0 key
    let s1 := { s with fresh := s.fresh + 4096 }
    match r.bytes, r.ue, r.ce with
    | none, some e, _ => (raise' s1 (sheetRec p e), zeros, 3)
    | some d, _, some e => (raise' s1 (sheetRec p e), d, 1)
    | some d, _, none => (s, d, 1)
    | none, none, _ => (s, zeros, 3)

/-- All sampled rows: bytes by row, and ROW_STATUS as a number. -/
def sampleRows (s : State) (c p : Nat) : State × List (List Byte) × Nat :=
  let r := sampleKeys.foldl (fun (acc : State × List (List Byte) × List Nat) k =>
    let x := sampleRow acc.1 c p k.1 k.2
    (x.1, x.2.1 :: acc.2.1, x.2.2 :: acc.2.2)) (s, [], [])
  (r.1, r.2.1.reverse, r.2.2.foldl (fun n b => n * 4 + b) 0)

/-- The words of an engine queue (R368): 16 entries, empty ones zero. -/
def queueBytes (k : Core) (q : List Queued) : List Byte :=
  padTo 256 (q.flatMap (fun x => natLE 16 (nth 0 k.ibuf x.addr).toNat))

/-- The loop stack of a sheet (R368): four entries of start, end and remaining count. -/
def loopBytes (k : Core) : List Byte := padTo 48 (k.loops.flatMap (fun l => natLE 4 l.start ++ natLE 4 l.stop ++ natLE 4 l.left))

/-- The bytes of a sheet below 0x1000 (R368): `n` is the causing record, `dom` the DOMAIN code. -/
def sheetHead (s : State) (c n dom status : Nat) : List Byte :=
  let k := getCore s c
  let ctx := k.ctx.getD ⟨0, 0, 0, 0, 0, 0⟩
  let slots := fun (pad : Nat) => (List.range 64).flatMap (fun i => natLE 8 (slotWord (slotOf k pad i)))
  padTo 64 (natLE 8 n ++ natLE 8 s.time.ftime ++ natLE 2 c ++ natLE 1 (k.tag - 1).toNat ++ natLE 1 dom ++ natLE 8 ctx.seq ++ natLE 2 ctx.ring) ++
  padTo 64 ((List.range 11).flatMap (fun i => natLE 4 (mapOf k i).toNat)) ++
  padTo 64 (natLE 2 k.pc ++ natLE 1 k.prd.toNat ++ [0] ++ loopBytes k) ++
  padTo 64 (natLE 8 (k.cyc - k.markAt) ++ natLE 8 k.slipMx ++ natLE 8 k.slipVx ++ natLE 8 k.cyc ++ natLE 8 k.retired) ++
  padTo 256 ((List.range 32).flatMap (fun i => natLE 8 (sreg k (BitVec.ofNat 5 i)).toNat)) ++
  padTo 1536 (slots 0 ++ slots 1 ++ slots 2) ++
  queueBytes k k.qLd ++ queueBytes k k.qSt ++ queueBytes k k.qMx ++ queueBytes k k.qVx ++
  padTo 1024 (natLE 112 status)

/-- The slot of a partition that was written longest ago (R367): one never written goes first. -/
def oldestSheet (x : Part) : Nat :=
  (List.range 32).foldl (fun best i =>
    match tfind x.sheets best, tfind x.sheets i with
    | none, _ => best
    | some _, none => i
    | some a, some b => if b.time < a.time then i else best) 0

/-- Write the sheet of a core into its partition's slot (R367). -/
def captureCore (s : State) (c n dom : Nat) : State :=
  match partOfTile s (c / 16) with
  | none => s
  | some p =>
    let (s, rows, status) := sampleRows s c p
    let m := mwriteN [] 0 (sheetHead s c n dom status ++ rows.flatten)
    let x := getPart s p
    setPart s p { x with sheets := tset x.sheets (oldestSheet x) { cause := n, time := s.time.ftime, data := m } }

/-! ## Reset of the logic (R91, R362) -/

/-- Reset a core (R91): slot tables, row-valid bits and bank maps, the stored pad data staying as it is (R64); it stays out of use
until its release. -/
def resetCore (s : State) (c : Nat) : State :=
  let k := getCore s c
  setCore s c { run := .stopped, ctx := k.ctx, tag := k.tag, lastPart := k.lastPart, errRec := k.errRec,
                padW := clearPad k.padW, padA := clearPad k.padA, padP := clearPad k.padP }

/-- Replies of memory to a core that come after its tag has advanced are dropped and counted (R363). How many replies a memory instruction
has is not stated: the count is a free value (log 108). -/
def dropReplies (s : State) (c : Nat) : State :=
  if (getCore s c).late = 0 then s
  else
    let (n, s) := freeNow s
    { s with fab := { s.fab with stale := (s.fab.stale + Config.freeNat n) % 2 ^ 64 } }

/-- Reset the cores of a tile. -/
def resetTile (s : State) (t : Nat) : State := (rangeFrom (16 * t) 16).foldl resetCore s

/-- Clear the latches that the reset of a core ends (R344): its own, and that of the unit whose record stopped it, unless other cores
that the record stopped, or a command that it ends, still have to recover. -/
def clearCore (s : State) (c : Nat) : State :=
  let n := (getCore s c).errRec
  let s := clearLatches s (.core c)
  let open_ := s.cores.any (fun e => e.1 != c && e.2.run == .stopped && e.2.errRec == n) ||
    s.cmds.any (fun k => k.errRef == errRef n && k.cls != clsFixed)
  { s with err := { s.err with latches := s.err.latches.filter (fun l => !(l.seq == n && n != 0 && !(open_ && l.unitType == uHub))) } }

/-- A core leaves reset (R365 step 7): it is free, and the launch it ran for has ended on it. -/
def releaseCore (s : State) (c : Nat) : State :=
  let s := clearCore s c
  let k := getCore s c
  let s := match k.ctx with
    | none => s
    | some x => { s with launches := updAll (fun l => l.id == x.launch && l.cores.contains c && !l.ended.contains c)
                                       (fun l => { l with ended := l.ended ++ [c] }) s.launches }
  setCore s c { getCore s c with run := .idle, ctx := none, errRec := 0 }

/-- The logic of the hub is reset (R362): the Separator, the collective engine and the Zhevlink state. Sending channels
are kept by name for their reopening (R365 step 7). -/
def resetHub (s : State) : State :=
  let ports := s.fab.ports.map (fun e => (e.1, { freshLink e.2 with st := .disabled, since := s.time.ftime }))
  { s with sep := {}, fab := { s.fab with ports := ports, colls := [], rxCh := [], reads := [], opens := [],
                                          txCh := s.fab.txCh.map (fun c => { c with unack := [], path := none }) } }

/-- A command other than a step starts again (R286): what it had begun is given up. -/
def restartCmd (s : State) (c : Cmd) : State :=
  let s := if c.wait == .pairing then closeSess s (bits c.handle 17 0) else s
  let s := (s.exps.filter (fun e => e.ring == c.ring && e.seq == c.seq)).foldl endExp s
  updCmd s c.ring c.seq (fun c => { c with started := false, wait := .none, res := 0, handle := if c.adopted.isSome then c.handle else 0 })

/-- End a STARTED command whose work a reset has taken (R342): a step fails as its launch would, any other command
completes FAULT, and on a Fixed ring it starts again (R286). -/
def endStarted (s : State) (c : Cmd) (n : Nat) : State :=
  match findStep s c.ring c.seq with
  | none =>
    if c.cls == clsFixed then restartCmd s c
    else complete (noteErr (restartCmd s c) c.ring c.seq n) c.ring c.seq { status := stFault }
  | some st =>
    if c.cls == clsFixed then updStep (dropSends (dropFromLaunches s c.ring c.seq) st) c.ring c.seq replayed
    else stopCmd (noteErr s c.ring c.seq n) c.ring c.seq { status := stFault }

/-- The jobs of a device whose hub has been reset end here (R370): it sends nothing more for them. -/
def stopJobs (s : State) : State :=
  { s with fab := { s.fab with jobs := s.fab.jobs.map (fun e =>
      if e.2.st == .active || e.2.st == .forming then (e.1, { e.2 with st := .stopped, retired := e.2.retired ++ e.2.openTags, openTags := [] })
      else e) } }

/-- The hub leaves reset (R362, R365): channels open anew at the new tag, and STARTED commands have ended. -/
def releaseHub (s : State) (n : Nat) : State :=
  let s := stopJobs (clearLatches s .hub)
  let s := (s.cmds.filter (·.started)).foldl (fun s c => match findCmd s c.ring c.seq with | some c => endStarted s c n | none => s) s
  let s := dropEmpty ((s.launches.filter (fun l => l.expert.isSome)).foldl removeLaunch s)
  let s := trainPorts s
  startLaunches (s.fab.txCh.foldl (fun s c => reopenTx s c false) s)

/-! ## Device and module reset (R266, R362, R364, R474) -/

/-- A journal entry as a device reset leaves it (R266). -/
def warmEntry (n : Nat) (now : Nat) (j : JEntry) : JEntry :=
  if j.st == .accepted || j.st == .started then { j with st := .failed, status := stFault, errRef := errRef n, ended := now } else j

/-- A ring as a device reset with WARM_PRESERVE leaves it (R266): its set-up entry and its journal, OFF. -/
def warmRing (n : Nat) (now : Nat) (x : Ring) : Ring :=
  { cls := x.cls, part := x.part, func := x.func, log2size := x.log2size, jlog2 := x.jlog2, vector := x.vector, ien := x.ien,
    ccount := x.ccount, ctime := x.ctime, sqBase := x.sqBase, cqBase := x.cqBase, seqBase := x.seqBase, jKey := x.jKey, jFrames := x.jFrames,
    journal := x.journal.map (fun e => (e.1, warmEntry n now e.2)), lastNext := stoppedAt x, everUp := x.everUp }

/-- A ring as a module reset with WARM_PRESERVE leaves it: its journal (R266), while its set-up entry is reset (R474, log 106). -/
def warmJournal (n : Nat) (now : Nat) (x : Ring) : Ring :=
  { jKey := x.jKey, jFrames := x.jFrames, journal := x.journal.map (fun e => (e.1, warmEntry n now e.2)), lastNext := stoppedAt x,
    everUp := x.everUp }

/-- The frames of journals that survive (R266). -/
def warmFrames (s : State) : Tbl Frame := s.mem.frames.filter (fun e => s.rings.any (fun r => r.2.jFrames.contains e.1))

/-- The logic of the package is reset (R362, R474): `warm` keeps the journals, `n` is the SEQ of the reset record (R266).
What the MGC holds, the link and the pins stay. -/
def wipeDevice (s : State) (warm : Bool) (n : Nat) : State :=
  { State.reset with
    pending := s.pending, fresh := s.fresh,
    cores := s.cores.map (fun (e : Nat × Core) =>
      (e.1, { padW := clearPad e.2.padW, padA := clearPad e.2.padA, padP := clearPad e.2.padP })),
    dev := { serial := s.dev.serial, fwVersion := s.dev.fwVersion, cfgGyv := s.dev.cfgGyv, cfgDev := s.dev.cfgDev ||| s.dev.quar,
             stFenced := s.dev.stFenced, laneCfg := s.dev.laneCfg, laneLost := s.dev.laneLost, fast := !s.pwr.stcfg, hubTag := s.dev.hubTag, meas := [], recovery := s.dev.recovery },
    time := { ftime := s.time.ftime },
    hif := { rate := s.hif.rate, width := s.hif.width, flit := s.hif.flit, host := s.hif.host, hostBad := s.hif.hostBad, msgs := s.hif.msgs,
             warm := warm, vfDb := if warm then s.hif.vfDb else 0, vfMsix := if warm then s.hif.vfMsix else 0,
             funcPart := if warm then s.hif.funcPart else [], dbOwner := if warm then s.hif.dbOwner else [] },
    rings := if warm then s.rings.map (fun e => (e.1, warmRing n s.time.ftime e.2)) else [],
    mem := { frames := if warm then warmFrames s else [] },
    err := { cper := s.err.cper },
    fab := { tx := s.fab.tx, txLink := s.fab.txLink, wire := s.fab.wire, frames := s.fab.frames },
    mgc := { s.mgc with cmd := 0, busy := false, done := false, arg := 0, status := 0, data := [], hubRun := none, tagStore := s.dev.hubTag },
    pwr := { s.pwr with cap := 700, input := 0, hotTiles := 0, hotAt := [], throttle := 0, slow := 0, announced := [] },
    pins := s.pins, tap := s.tap }

/-- The record of a device reset (R266, log 43): the first one of the new count (R333), related to the record that caused
the reset. -/
def resetRecord (cause : Nat) : Rec := { code := 0, sev := sevContained, unitType := uMgc, domain := 3, related := cause }

/-- The logic of the package is reset, and the reset record is raised (R266, R338). -/
def resetDevice (s : State) (cause : Nat) : State := (raise (wipeDevice s s.hif.warm 1) (resetRecord cause) (wide := true)).st

/-- A module reset (R362): replay-protected storage and flash stay, and what stands at the pins. Journals stay where `warm`, a reset
without a power cycle under WARM_PRESERVE (R266), and the entries they close name the reset record (log 106). -/
def moduleWipe (s : State) (warm : Bool) : State :=
  let w := wipeDevice s false 0
  { w with
           rings := if warm then s.rings.map (fun e => (e.1, warmJournal 1 s.time.ftime e.2)) else [],
           mem := { frames := if warm then warmFrames s else [] },
           dev := { serial := s.dev.serial, hubTag := s.dev.hubTag, cfgGyv := s.dev.cfgGyv, cfgDev := s.dev.cfgDev ||| s.dev.quar,
                    stFenced := s.dev.stFenced, laneCfg := s.dev.laneCfg, laneLost := s.dev.laneLost },
           tap := if s.tap.test then {} else s.tap,
           time := {},
           hif := { host := s.hif.host, hostBad := s.hif.hostBad, msgs := s.hif.msgs },
           err := {},
           mgc := { hubSvn := s.mgc.hubSvn, mgcSvn := s.mgc.mgcSvn, cfgSeq := s.mgc.cfgSeq, tagStore := s.dev.hubTag, anchors := s.mgc.anchors,
                    cert := s.mgc.cert, devCert := s.mgc.devCert, log := s.mgc.log, recovery := s.mgc.recovery, hubA := s.mgc.hubA, hubB := s.mgc.hubB, mgcA := s.mgc.mgcA, mgcB := s.mgc.mgcB, hubPref := s.mgc.hubPref,
                    mgcPref := s.mgc.mgcPref, cfgRecs := s.mgc.cfgRecs, laneHist := s.mgc.laneHist },
           pwr := { brake := s.pwr.brake, chatter := s.pwr.chatter, stuck := s.pwr.stuck } }

/-- A module reset with the power on (R362, R266). -/
def moduleReset (s : State) : State :=
  let t := moduleWipe s s.hif.warm
  if s.hif.warm then (raise t { resetRecord 0 with domain := 4 } (wide := true)).st else t

/-! ## Escalation (R345) -/

/-- The recovery entry of a domain. -/
def recoveryOf (s : State) (d : Domain) : Option Recovery := s.dev.recovery.find? (fun r => r.dom == d)

/-- Note that the logic of a domain has been reset. -/
def markReset (s : State) (d : Domain) : State :=
  { s with dev := { s.dev with recovery := updFirst (fun r => r.dom == d) (fun r => { r with inReset := true }) s.dev.recovery } }

/-- The quiesce of a domain is complete: late replies have been dropped; capture and reset (R365 steps 4 to 6). -/
def quiesced (s : State) (r : Recovery) : State :=
  match r.dom with
  | .core c => resetCore (dropReplies (if r.error then captureCore s c r.cause 0 else s) c) c
  | .tile t =>
    let cs := rangeFrom (16 * t) 16
    resetTile (cs.foldl dropReplies (if r.error then cs.foldl (fun s c => captureCore s c r.cause 1) s else s)) t
  | .hub => resetHub s
  | .device => resetDevice s r.cause
  | .module => s

/-- A domain leaves reset (R365 step 7), and the latch of the record that caused the reset is cleared (R344). -/
def released (s : State) (r : Recovery) : State :=
  let s := { s with dev := { s.dev with recovery := s.dev.recovery.filter (fun x => x.dom != r.dom) } }
  let s := { s with err := { s.err with latches := s.err.latches.filter (fun l => !(l.seq == r.cause && r.cause != 0)) } }
  match r.dom with
  | .core c => startLaunches (releaseCore s c)
  | .tile t => startLaunches ((rangeFrom (16 * t) 16).foldl releaseCore (clearLatches s (.tile t)))
  | .hub => releaseHub s r.cause
  | _ => s

end Sys2Proof.Machine
end

