-- ==== Sys2Proof/Machine/Stalls.lean ====
section
/-! DEFINITION. The rows of progress watching and reset domains: stalls (R358 to R360), heartbeats (R361), the steps of a
reset (R365), and the return of frames whose epoch has drained (R154). -/

namespace Sys2Proof.Machine

open Sys2Proof

/-! ## Core counters (R358, R360) -/

/-- The partition of the kernel a core runs. -/
def corePart (k : Core) : Nat := (k.ctx.map (·.part)).getD 0

/-- Whether a unit has a latched record, so that its counters are not checked (R360). -/
def isLatched (s : State) (ut : Byte) (ui : Nat) : Bool := (latchOf s ut (BitVec.ofNat 16 ui)).isSome

/-- Whether a core's counter may be checked: a kernel launched, not ended for good, and the core not latched or reset. -/
def coreWatched (s : State) (c : Nat) : Bool :=
  let k := getCore s c
  clocked k && k.ctx.isSome && !isLatched s uCore c && !underReset s (.core c)

/-- The core resets for a stall at instruction `addr` (R360). -/
def coreStalls (s : State) (c addr : Nat) : State := coreStop s c [coreRec s c 0x0301 addr 0 0]

/-- SEQUENCER_STALL (R360): no instruction dispatched for longer than SEQ_WIN while a kernel is launched and not ended (R103): after END
has taken effect the counter watches the engines drain, and the instruction named is that END. -/
def execSequencerStall (c : Nat) (s : State) : Host.Outcome State Fault Refusal :=
  if 128 ≤ c then .fault .noSuchUnit
  else
    let k := getCore s c
    if coreWatched s c && decide (k.sqAt + winTicks (getPart s (corePart k)).seqWin < k.cyc) then
      .next (coreStalls s c (if k.run == .ended then k.pc - 1 else k.pc))
    else .next s

/-- The instruction at the head of the Loader (1) or the Storer (2): the one under way, else the first of the queue. -/
def headAddr (k : Core) (e : Nat) : Option Nat :=
  match oldest k e with
  | some f => some f.addr
  | none => ((queueOf k e).head?).map (·.addr)

/-- The stall of a queue whose counter stood at core cycle `at_` (R360). -/
def queueStall (s : State) (c e at_ : Nat) : State :=
  let k := getCore s c
  match headAddr k e with
  | none => s
  | some a => if coreWatched s c && decide (at_ + winTicks (getPart s (corePart k)).ldstWin < k.cyc) then coreStalls s c a else s

/-- LOADER_STALL (R360): the Loader queue has not moved for longer than LDST_WIN. -/
def execLoaderStall (c : Nat) (s : State) : Host.Outcome State Fault Refusal :=
  if 128 ≤ c then .fault .noSuchUnit else .next (queueStall s c 1 (getCore s c).ldMove)

/-- STORER_STALL (R360): the Storer queue has not moved for longer than LDST_WIN. -/
def execStorerStall (c : Nat) (s : State) : Host.Outcome State Fault Refusal :=
  if 128 ≤ c then .fault .noSuchUnit else .next (queueStall s c 2 (getCore s c).stMove)

/-! ## The ring consumer (R358, R360) -/

/-- Whether a command waits as the list of R358 exempts it. -/
def exemptWait (s : State) (c : Cmd) : Bool :=
  (match c.wait with | .frames => true | .loading => true | .activation => true | .fence _ _ => true | .drain => true | .reload => true | _ => false) ||
  (c.pin.isSome && reloading s c.part c.set && s.launches.any (fun l => !l.started && l.steps.contains (c.ring, c.seq)))

/-- The oldest STARTED command of a ring. -/
def oldestStarted (s : State) (r : Nat) : Option Cmd :=
  (s.cmds.filter (fun c => c.ring == r && c.started)).foldl (fun acc c =>
    match acc with
    | none => some c
    | some a => if c.accept < a.accept then some c else some a) none

/-- The cores that run the launches of a command. -/
def coresOfCmd (s : State) (c : Cmd) : List Nat :=
  (s.launches.filter (fun l => l.started && l.steps.contains (c.ring, c.seq))).flatMap (·.cores)

/-- End a command whose ring has stalled (R342, R360): its running launches end by core reset, its tags are retired. With no core of it
running, its jobs take the Stop bath of R331 here. -/
def endStalled (s : State) (c : Cmd) (n : Nat) : State :=
  let cores := (coresOfCmd s c).filter (fun k => clocked (getCore s k) && !underReset s (.core k))
  let ls := s.launches.filter (fun l => l.steps.contains (c.ring, c.seq))
  let s := cores.foldl (fun s k => freezeCore s k n) s
  let s := ls.foldl abandonTag s
  if !cores.isEmpty then s
  else
    let jobs := ((findStep s c.ring c.seq).bind (·.job)).toList ++ ls.filterMap (·.job)
    let s := dropEmpty (match findCmd s c.ring c.seq with | some c => endStarted s c n | none => s)
    dropLatch (jobs.eraseDups.foldl (fun s j => stopBath s j 0x01 n) s) n

/-- RING_CONSUMER_STALL (R360): no progress of the STARTED commands of a ring for longer than RING_WIN. The latch stays until the
stalled command has its status (R344). -/
def execRingConsumerStall (r : Nat) (s : State) : Host.Outcome State Fault Refusal :=
  if 32768 ≤ r then .fault .noSuchUnit
  else
    let x := getRing s r
    let armed := s.cmds.any (fun c => c.ring == r && c.started && !exemptWait s c)
    match oldestStarted s r with
    | none => .next s
    | some c =>
      if armed && !isLatched s uHub 0 && !underReset s .hub && decide (x.moved + winTicks (getPart s x.part.toNat).ringWin < s.time.ftime) then
        let (s, n) := raiseCmd s c { code := 0x0301, sev := sevContained, unitType := uHub }
        let s := setRing s r { getRing s r with moved := s.time.ftime }
        .next (endStalled s c n)
      else .next s

/-! ## The fabric counters (R358, R360) -/

/-- The window of a port's credit counter: the least FABRIC_WIN of the enabled partitions (log 39). -/
def portWin (s : State) : Nat :=
  match ((s.parts.filter (fun e => e.2.enable)).map (fun e => winTicks e.2.fabricWin)) with
  | [] => winTicks (5000 : BitVec 26)
  | w :: t => t.foldl Nat.min w

/-- PORT_CREDIT_STALL (R360): data waits without a credit for longer than FABRIC_WIN, and the port retrains. -/
def execPortCreditStall (p vc : Nat) (s : State) : Host.Outcome State Fault Refusal :=
  if 6 ≤ p || 4 ≤ vc then .fault .noSuchUnit
  else
    let x := getPort s p
    if x.st == .active && (waitingVcs x).contains vc && !isLatched s uPort p && decide (tget 0 x.crAt vc + portWin s < s.time.ftime) then
      .next (retrain (raise' s (portRec p 0x0301)) p)
    else .next s

/-- Commands that wait for a pairing with an endpoint that cannot be reached are refused (R274). -/
def refusePairs (s : State) (p : Nat) (dst : W16) : State :=
  (s.cmds.filter (fun c => c.wait == .pairing && c.part == p)).foldl (fun s c =>
    let i := bits c.handle 17 0
    if (getSess s i).partner == dst then rejectPair s c i else s) s

/-- CHANNEL_STALL (R360): no acknowledgement for longer than FABRIC_WIN: the endpoint cannot be reached. Every ACTIVE job
that holds it, of whichever partition, takes a Stop bath, and exposures to it are abandoned (R379). -/
def execChannelStall (p : Nat) (dst ch : W16) (s : State) : Host.Outcome State Fault Refusal :=
  if 8 ≤ p then .fault .noSuchUnit
  else match s.fab.txCh.find? (isTx p dst ch) with
    | none => .next s
    | some c =>
      if c.unack.isEmpty || isLatched s uHub 0 || underReset s .hub || decide (s.time.ftime ≤ c.moved + winTicks (getPart s p).fabricWin) then .next s
      else
        let x := raise s { code := 0x0301, sev := sevContained, part := some p, unitType := uHub, syn := 0x0011 }
        let s := dropLatch x.st x.seq
        let s := { s with fab := { s.fab with txCh := updFirst (isTx p dst ch) (fun c => { c with moved := s.time.ftime }) s.fab.txCh } }
        let s := (List.range 64).foldl (fun s j =>
          let y := getJob s j
          if y.st == .active && y.members.contains dst then stopBath s j 0x02 x.seq else s) s
        let s := abandonExps s (fun e => e.part == p && e.target == .peer dst)
        .next (refusePairs s p dst)

/-- Whether the source of a batch waits for credits or for returns (R358): one that still waits for its turn does neither (R198). -/
def sepArmed (b : Batch) : Bool :=
  !b.failed && (b.msgs.any (fun m => m.sent && !m.back) || (b.msgs.any (fun m => !m.sent) && b.turn))

/-- SEPARATOR_STALL (R360): a batch waits for credits or returns for longer than FABRIC_WIN. -/
def execSeparatorStall (j : Nat) (tag layer : W16) (s : State) : Host.Outcome State Fault Refusal :=
  match s.sep.batches.find? (fun b => b.job == j && b.tag == tag && b.layer == layer.toNat && !b.failed) with
  | none => .next s
  | some b =>
    if !sepArmed b || isLatched s uSep 0 || underReset s .hub || decide (s.time.ftime ≤ b.lastMove + winTicks (getPart s b.part).fabricWin) then .next s
    else
      let x := raise s { code := 0x0301, sev := sevContained, part := some b.part, unitType := uSep }
      let s := dropLatch x.st x.seq
      if b.job < 64 then .next (stopBath (retireTag s b.job tag) b.job 0x01 x.seq)
      else match findLaunch s b.launch with
        | none => .next s
        | some l =>
          let s := l.steps.foldl (fun s k => failStep s k.1 k.2 x.seq) s
          .next (dropEmpty (retireBatches s 64 tag))

/-! ## Heartbeats (R361) -/

/-- Whether the hub runs: power and clock good, out of reset, its ROM started. -/
def hubRuns (s : State) : Bool :=
  s.pins.pwrGood && s.pins.perstN && s.pins.pllLock && s.mgc.booted && s.hif.cfgReady

/-- Whether heartbeat `k` is watched (R361): 0 the hub, 1 to 8 a powered tile that holds firmware. -/
def hbWatched (s : State) (k : Nat) : Bool :=
  hubRuns s && (k == 0 || (bit s.dev.tileOn (k - 1) && bit s.dev.tileFw (k - 1)))

/-- HEARTBEAT_ADVANCE (R361). -/
def execHeartbeatAdvance (k : Nat) (s : State) : Host.Outcome State Fault Refusal :=
  if 9 ≤ k then .fault .noSuchUnit
  else if !hbWatched s k then .next s
  else .next { s with err := { s.err with hbCount := tset s.err.hbCount k ((tget 0 s.err.hbCount k + 1) % 2 ^ 32),
                                          hbLast := tset s.err.hbLast k s.time.ftime } }

/-- The domain a heartbeat stands for. -/
def hbDomain (k : Nat) : Domain := if k = 0 then .hub else .tile (k - 1)

/-- HEARTBEAT_LOST (R361): no advance for 100 ms. The hub control complex raises the record of a tile's, the MGC that of the hub's (R335). Start-up fails, a second fault in a reset escalates, and in service the
tile or the hub is reset. -/
def execHeartbeatLost (k : Nat) (s : State) : Host.Outcome State Fault Refusal :=
  if 9 ≤ k then .fault .noSuchUnit
  else if !hbWatched s k || decide (s.time.ftime < tget 0 s.err.hbLast k + 105000000) then .next s
  else
    let d := hbDomain k
    let t := k - 1
    let rec_ : Rec := if k = 0 then { code := 0x0302, sev := sevDomain, unitType := uMgc }
      else { code := 0x0302, sev := sevDomain, unitType := uHub, part := partOfTile s t }
    let covered := (s.dev.recovery.find? (fun r => within d r.dom)).map (·.dom)
    let x := raise s rec_ (on := some d)
    let s := { x.st with err := { x.st.err with hbLast := tset x.st.err.hbLast k x.st.time.ftime } }
    match covered with
    | some e => .next (doubleFault s e)
    | none =>
      if s.dev.stage.toNat < 4 then .next (safelight s 5)
      else if s.dev.stage ≠ 4 || !x.act then .next s
      else if k = 0 then .next (beginHub s x.seq)
      else .next (freezeTile s t x.seq)

/-! ## The steps of a reset (R365) -/

/-- RESET_QUIESCE_DONE (R365): the quiesce is complete; contact sheets are written and the logic is reset. -/
def execResetQuiesceDone (d : Domain) (s : State) : Host.Outcome State Fault Refusal :=
  match recoveryOf s d with
  | none => .next s
  | some r => if r.inReset then .next s else .next (markReset (quiesced s r) d)

/-- RESET_QUIESCE_TIMEOUT (R365): a quiesce not complete within 1 ms escalates under R345. -/
def execResetQuiesceTimeout (d : Domain) (s : State) : Host.Outcome State Fault Refusal :=
  match recoveryOf s d with
  | none => .next s
  | some r => if r.inReset || decide (s.time.ftime < r.since + 1050000) then .next s else .next (doubleFault s d)

/-- RESET_RELEASE (R365): the domain's units are available again. -/
def execResetRelease (d : Domain) (s : State) : Host.Outcome State Fault Refusal :=
  match recoveryOf s d with
  | none => .next s
  | some r => if r.inReset then .next (released s r) else .next s

/-! ## Frames (R154) -/

/-- Plates of a partition whose data waits for frames (R299). -/
def waitingPlates (s : State) (p : Nat) : List (W16 × Nat) :=
  (s.psets.filter (fun x => x.part == p)).flatMap (fun x =>
    (x.plates.filter (fun e => underWay e.2 && s.cmds.any (fun c => e.2.reading == some (c.ring, c.seq) && c.wait == .frames))).map
      (fun e => (x.setId, e.1)))

/-- FRAME_RECLAIM (R154): the frames of drained epochs return to FREE; the plates that wait for frames (R299), and the combines and
launches that do, go on. -/
def execFrameReclaim (p : Nat) (s : State) : Host.Outcome State Fault Refusal :=
  if 8 ≤ p then .fault .noSuchUnit
  else
    let s := reclaim s p
    let s := (waitingPlates s p).foldl (fun s k => match attemptData s p (getPlate s p k.1 k.2) with
      | some d => attemptArrived (attemptErrs s p (getPlate s p k.1 k.2)) p k.1 k.2 d
      | none => attemptErrs s p (getPlate s p k.1 k.2)) s
    .next (startLaunches (combineAll s))

end Sys2Proof.Machine
end

