-- ==== Sys2Proof/Machine/Bar.lean ====
section
/-! DEFINITION. How BAR0 is written (R464 to R468): staging copies of registers wider than 64 bits and their commit; and
when BAR0 answers (R435). -/

namespace Sys2Proof.Machine

open Sys2Proof

/-- Put bits [off + n − 1:off] of a number. -/
def putBits (old off n v : Nat) : Nat := old - nbits old (off + n - 1) off * 2 ^ off + v % 2 ^ n * 2 ^ off

/-- The staging copies of a writer (R466). -/
def stages (s : State) (w : Writer) : Tbl W256 := match w with | .pf0 => s.stagePf0 | .mgc => s.stageMgc

/-- Put the staging copy of the register at `base`. -/
def putStage (s : State) (w : Writer) (base : Nat) (v : Nat) : State :=
  match w with
  | .pf0 => { s with stagePf0 := tset s.stagePf0 base (BitVec.ofNat 256 v) }
  | .mgc => { s with stageMgc := tset s.stageMgc base (BitVec.ofNat 256 v) }

/-- A write of `width` bits at bit `off` of the register of `size` bits at `base`, whose reset value is `rst` (R466): a
write of the most significant 32 bits commits, and the staging copy then holds the register as it stands. -/
def wideWrite (s : State) (w : Writer) (base size rst off width v : Nat) (commit : State → Nat → State) (value : State → Nat) : State :=
  let old := ((tfind (stages s w) base).map BitVec.toNat).getD rst
  let new := putBits old off width v
  if off + width = size then
    let s := commit s new
    putStage s w base (value s)
  else putStage s w base new

/-- Bit offset and width of an access to the top of a register of `size` bits: its upper 64 bits or its upper 32. -/
def topOff (size : Nat) (wide : Bool) : Nat := size - (if wide then 64 else 32)

/-- Width of such an access. -/
def topWidth (wide : Bool) : Nat := if wide then 64 else 32

/-- Whether set-up registers can be written: the hub runs and configuration space answers (R435). -/
def barUp (s : State) : Bool := hubRuns s && !underReset s .hub

/-- HIF_LINK.SERVICE (R241): at least 32 GT/s and four lanes. -/
def linkService (s : State) : Bool := decide (5 ≤ s.hif.rate.toNat) && decide (4 ≤ s.hif.width.toNat)

end Sys2Proof.Machine
end

