-- ==== Sys2Proof/Machine/Partitions.lean ====
section
/-! DEFINITION. Partition set-up and tear-down (R223 to R227, R236, R238). -/

namespace Sys2Proof.Machine

open Sys2Proof

/-- The cap in force (R426): the lower of PWR_CAP and, while the brake holds, 350 W. -/
def capInForce (s : State) : Nat := if s.pwr.brake then Nat.min s.pwr.cap.toNat 350 else s.pwr.cap.toNat

/-- The sum of POWER_SHARE over the enabled partitions, in W (R237). -/
def shareSum (s : State) : Nat :=
  ((List.range 8).map (fun p => let x := getPart s p; if x.enable then x.powerShare.toNat else 0)).foldl (· + ·) 0

/-- The share of a partition in isolation mode, in 0.1 W: scaled by cap / sum while the cap in force is below the sum (R237). -/
def powerOf (s : State) (p : Nat) : Nat :=
  let n := 10 * (getPart s p).powerShare.toNat
  if capInForce s < shareSum s then n * capInForce s / shareSum s else n

/-- Announce that the shares scale, once for each cap and sum: a device-wide event, to which the spec gives no record (R237, log 105). -/
def noteShares (s : State) : State :=
  let cap := capInForce s
  let sum := shareSum s
  if s.dev.isolate && decide (cap < sum) && (s.pwr.announced.getLast?).map (·.2) != some (cap, sum) then
    { s with pwr := { s.pwr with announced := s.pwr.announced ++ [(s.time.ftime, cap, sum)] } }
  else s

/-- The fields of PART_CFG other than ENABLE and STATE (R224). -/
def partFields (x : Part) (v : Nat) : Part :=
  { x with ideReq := nbits v 126 126 == 1, tileBase := BitVec.ofNat 3 (nbits v 118 116), tiles := BitVec.ofNat 2 (nbits v 115 114),
           keySlot := BitVec.ofNat 6 (nbits v 113 108), powerShare := BitVec.ofNat 10 (nbits v 107 98),
           workNear := BitVec.ofNat 20 (nbits v 95 76), workFar := BitVec.ofNat 21 (nbits v 75 55) }

/-! ## The checks of set-up (R225) -/

/-- The tiles of a partition's run. -/
def tileRun (x : Part) : List Nat := rangeFrom x.tileBase.toNat (tileCount x)

/-- Whether a tile run is aligned and shares no tile with another enabled entry, or one not yet torn down (R225). -/
def runOk (s : State) (n : Nat) (x : Part) : Bool :=
  x.tileBase.toNat % tileCount x == 0 && decide (x.tileBase.toNat + tileCount x ≤ 8) &&
  !(List.range 8).any (fun m => m != n && (let y := getPart s m; (y.enable || y.st == .tearing) && (tileRun x).any (hasTile y)))

/-- Pages of a region of `n` pages that fall in part `k` of `m` (R228). -/
def shareOf (n m k : Nat) : Nat := (n + m - 1 - k) / m

/-- Whether the near working region fits (R225): each stack has the frames it takes. -/
def nearFits (s : State) (x : Part) : Bool :=
  (List.range (tileCount x)).all (fun k =>
    let t := x.tileBase.toNat + k
    decide (shareOf (x.workNear.toNat * 16) (tileCount x) k ≤ freeIn s (firstFrame t) (stackFrames - reservedFrames t)))

/-- Whether the far working region fits (R225). -/
def farFits (s : State) (x : Part) : Bool :=
  (List.range (2 * tileCount x)).all (fun k =>
    decide (shareOf (x.workFar.toNat * 16) (2 * tileCount x) k ≤ freeIn s (farBase + (2 * x.tileBase.toNat + k) * 0x100000) 0x100000))

/-- Whether the shares of isolation mode hold (R238). -/
def sharesOk (s : State) (x : Part) : Bool :=
  !s.dev.isolate ||
  (decide (((List.range 8).map (fun m => let y := getPart s m; if y.enable then y.powerShare.toNat else 0)).sum ≤ capInForce s) &&
   decide (35 * tileCount x ≤ x.powerShare.toNat))

/-- The field that names the first check of R225 that fails for entry `n`. -/
def setupBad (s : State) (n : Nat) : Option Nat :=
  let x := getPart s n
  if !runOk s n x then some 118
  else if (liveCores s x).isEmpty then some 115
  else if (getKey s x.keySlot.toNat).st ≠ .active then some 113
  else if !nearFits s x then some 95
  else if !farFits s x then some 75
  else if !sharesOk s x then some 107
  else none

/-! ## The fields a partition starts and ends with -/

/-- A partition entry that owns nothing: its registers stay (R224, R292, R346, R359, R316, R216). -/
def emptyPart (x : Part) : Part :=
  { enable := x.enable, ideReq := x.ideReq, st := x.st, tileBase := x.tileBase, tiles := x.tiles, keySlot := x.keySlot,
    powerShare := x.powerShare, workNear := x.workNear, workFar := x.workFar, gatherUs := x.gatherUs, timedPct := x.timedPct,
    milkMin := x.milkMin, proofN := x.proofN, herdN := x.herdN, proofTemp := x.proofTemp, proofMv := x.proofMv, pcheck := x.pcheck,
    seqWin := x.seqWin, ldstWin := x.ldstWin, ringWin := x.ringWin, fabricWin := x.fabricWin, stale := x.stale, movedCh := x.movedCh,
    droppedCh := x.droppedCh, passedRows := x.passedRows, zeroExp := x.zeroExp, epValid := x.epValid, epWeight := x.epWeight,
    endpoint := x.endpoint }

/-! ## Set-up (R225) -/

/-- Set-up begins: SETTING_UP, or FAULT with a record in the device queue (R225). -/
def beginSetup (s : State) (n : Nat) : State :=
  let s := setPart s n { getPart s n with enable := true, st := .settingUp, fromReady := false }
  match setupBad s n with
  | none => s
  | some f => raise' (setPart s n { getPart s n with st := .fault }) (synRec 0x000D none uHub f 0)

/-- Allocate the near working region page by page (R228). -/
def placeNear (s : State) (n : Nat) (x : Part) (pages : Nat) : State × List Nat :=
  let r := (List.range pages).foldl (fun (acc : State × List Nat) p =>
    match freeNear acc.1 (x.tileBase.toNat + p % tileCount x) with
    | some f => (allocFrame acc.1 f 4 n 0 0, f :: acc.2)
    | none => acc) (s, [])
  (r.1, r.2.reverse)

/-- Allocate the far working region page by page (R228). -/
def placeFar (s : State) (n : Nat) (x : Part) (pages : Nat) : State × List Nat :=
  let r := (List.range pages).foldl (fun (acc : State × List Nat) p =>
    match freeFar acc.1 (2 * x.tileBase.toNat + p % (2 * tileCount x)) with
    | some f => (allocFrame acc.1 f 4 n 0 x.keySlot.toNat, f :: acc.2)
    | none => acc) (s, [])
  (r.1, r.2.reverse)

/-- Allocate the frames of the contact-sheet slots (R367): two for each of 32. -/
def placeSheets (s : State) (n : Nat) : Nat → State × List Nat
  | 0 => (s, [])
  | k + 1 => match newNear s n 4 0 with
    | some (s, f) => let r := placeSheets s n k; (r.1, f :: r.2)
    | none => (s, [])

/-- Reset the tiles of a partition (R225, R226, R91): no sheet is written (R367). -/
def resetRun (s : State) (x : Part) : State :=
  (tileRun x).foldl (fun s t =>
    let s := resetTile s t
    (rangeFrom (16 * t) 16).foldl (fun s c =>
      let k := getCore s c
      setCore s c { k with run := .idle, ctx := none, errRec := 0, tag := k.tag + 1 })
      { s with dev := { s.dev with tileTags := tset s.dev.tileTags t (tget 0 s.dev.tileTags t + 1) } }) s

/-- The steps of a set-up that has passed its checks (R225, R234, R284, R367). -/
def finishSetup (s : State) (n : Nat) : State :=
  let x := getPart s n
  let s := setPart (resetRun s x) n (emptyPart x)
  let (s, near) := placeNear s n x (x.workNear.toNat * 16)
  let (s, far) := placeFar s n x (x.workFar.toNat * 16)
  let (s, sheets) := placeSheets s n 64
  let s := { s with err := { s.err with queues := tset s.err.queues n { lost := (tget {} s.err.queues n).lost } } }
  setPart s n { getPart s n with st := .ready, nearPages := near, farPages := far, sheetFrames := sheets, lastAdv := s.time.ftime,
                                 condSince := s.time.ftime, milkLast := s.time.ftime }

/-- PARTITION_SETUP_COMPLETE (R225). -/
def execPartitionSetupComplete (p : Nat) (s : State) : Host.Outcome State Fault Refusal :=
  if 8 ≤ p then .fault .noSuchUnit
  else if (getPart s p).st == .settingUp then .next (finishSetup s p) else .next s

/-! ## Tear-down (R226) -/

/-- Whether a ring of a partition is enabled or still runs commands (R226). -/
def ringsBusy (s : State) (n : Nat) : Bool := s.rings.any (fun e => e.2.part.toNat == n && e.2.st != .off)

/-- The end of a tear-down (R226 steps 3 to 6): sessions close, plate sets go, the frames of the partition are free. -/
def finishTeardown (s : State) (n : Nat) : State :=
  let open_ := (s.sess.filter (fun e => e.2.part.toNat == n && e.2.st != .free)).map (·.1)
  let s := open_.foldl closeSess s
  let s := (s.psets.filter (fun x => x.part == n)).foldl freeSet s
  let s := { s with sep := { s.sep with dest := s.sep.dest.filter (fun d => d.part != n), shapes := s.sep.shapes.filter (fun w => w.part != n) } }
  let s := reclaim s n
  let x := getPart s n
  let own := x.nearPages ++ x.farPages ++ x.sheetFrames ++ x.images.flatMap (·.frames) ++ x.retiring.map (·.frame)
  let s := (own.filter (fun f => (getFrame s f).st != 0)).foldl freeFrame s
  let s := resetRun s x
  setPart s n { emptyPart x with st := .off, enable := false }

/-- Tear-down begins (R226 steps 1 and 2), or is refused as busy; an entry whose set-up failed is OFF at once (R227). -/
def beginTeardown (s : State) (n : Nat) : State :=
  if ringsBusy s n then raise' s (synRec 0x000E none uHub 127 0)
  else
    let x := getPart s n
    if x.st == .fault && !x.fromReady then setPart s n { x with enable := false, st := .off }
    else abandonExps (setPart s n { x with enable := false, st := .tearing }) (fun e => e.part == n)

/-- PARTITION_TEARDOWN_COMPLETE (R226). -/
def execPartitionTeardownComplete (p : Nat) (s : State) : Host.Outcome State Fault Refusal :=
  if 8 ≤ p then .fault .noSuchUnit
  else if (getPart s p).st == .tearing then .next (finishTeardown s p) else .next s

/-! ## The entry (R224, R227) -/

/-- A committed write of PART_CFG (R224 to R227). -/
def commitPart (n : Nat) (s : State) (v : Nat) : State :=
  let x := getPart s n
  let en := nbits v 127 127 == 1
  match x.st with
  | .off =>
    let s := setPart s n { partFields x v with enable := false }
    if en then beginSetup s n else s
  | .ready => if en then s else beginTeardown s n
  | .fault => if en then (if x.fromReady then s else beginSetup s n) else beginTeardown s n
  | _ => s

/-- A write to the top of PART_CFG. -/
def partTopWrite (s : State) (w : Writer) (n : Nat) (wide : Bool) (v : W64) : State :=
  if !barUp s then s
  else wideWrite s w (0x400 + 16 * n) 128 0 (topOff 128 wide) (topWidth wide) v.toNat (commitPart n) (fun s => partWord (getPart s n))

/-- PARTITION_SETUP (R225, R227). -/
def execPartitionSetup (w : Writer) (p : Nat) (wide : Bool) (v : W64) (s : State) : Host.Outcome State Fault Refusal :=
  if 8 ≤ p then .fault .noSuchUnit else .next (partTopWrite s w p wide v)

/-- PARTITION_TEARDOWN (R226, R227). -/
def execPartitionTeardown (w : Writer) (p : Nat) (wide : Bool) (v : W64) (s : State) : Host.Outcome State Fault Refusal :=
  if 8 ≤ p then .fault .noSuchUnit else .next (partTopWrite s w p wide v)

/-- Write PART_MODE (R236): ISOLATE changes only while every entry is OFF. -/
def writeMode (s : State) (v : Nat) : State :=
  if (List.range 8).all (fun n => (getPart s n).st == .off) then { s with dev := { s.dev with isolate := nbits v 0 0 == 1 } } else s

/-- PART_MODE_WRITE (R236): PF0 and the MGC write alike (R464). -/
def execPartModeWrite (_w : Writer) (v : W32) (s : State) : Host.Outcome State Fault Refusal :=
  .next (if barUp s then writeMode s v.toNat else s)

end Sys2Proof.Machine
end

