-- ==== Sys2Proof/Machine/Rings.lean ====
section
/-! DEFINITION. Rings and functions of the host interface (R240 to R248, R252, R253, R260, R261): ring entries, doorbells,
function resets, IDE and the PCIe link. -/

namespace Sys2Proof.Machine

open Sys2Proof

/-! ## The ring set-up entry (R245, R246, R248) -/

/-- STATE code of a ring (R245). -/
def ringCode (x : RingState) : Nat := match x with | .off => 0 | .running => 1 | .quiescing => 2 | .broken => 3

/-- A ring's set-up entry as a 256-bit number (R245). -/
def ringWord (x : Ring) : Nat :=
  (b2n x.enable <<< 255) + (ringCode x.st <<< 252) + (x.cls.toNat <<< 250) + (x.part.toNat <<< 247) + (x.func.toNat <<< 241) +
  (x.log2size.toNat <<< 236) + (x.jlog2.toNat <<< 232) + (x.vector.toNat <<< 221) + (b2n x.ien <<< 220) + (x.ccount.toNat <<< 212) +
  (x.ctime.toNat <<< 204) + (x.sqBase.toNat <<< 128) + (x.cqBase.toNat <<< 64) + x.seqBase.toNat

/-- The fields of a set-up entry other than ENABLE and STATE. -/
def ringFields (x : Ring) (v : Nat) : Ring :=
  { x with cls := BitVec.ofNat 2 (nbits v 251 250), part := BitVec.ofNat 3 (nbits v 249 247), func := BitVec.ofNat 6 (nbits v 246 241),
           log2size := BitVec.ofNat 5 (nbits v 240 236), jlog2 := BitVec.ofNat 4 (nbits v 235 232), vector := BitVec.ofNat 11 (nbits v 231 221),
           ien := nbits v 220 220 == 1, ccount := BitVec.ofNat 8 (nbits v 219 212), ctime := BitVec.ofNat 8 (nbits v 211 204),
           sqBase := BitVec.ofNat 64 (nbits v 191 128), cqBase := BitVec.ofNat 64 (nbits v 127 64), seqBase := BitVec.ofNat 64 (nbits v 63 0) }

/-- Whether a function owns doorbell page `i` (R244). -/
def pageOwned (s : State) (fn i : Nat) : Bool :=
  let o := tget (false, 0) s.hif.dbOwner i
  o.1 && o.2.toNat == fn

/-- Whether a function owns the doorbell page of a ring (R244). -/
def ownsPage (s : State) (fn r : Nat) : Bool := pageOwned s fn (r / 64)

/-- Whether a VF is bound to a partition (R244); PF0 may own rings of any partition. -/
def boundTo (s : State) (fn p : Nat) : Bool :=
  fn == 0 || (let b := tget (false, 0) s.hif.funcPart fn; b.1 && b.2.toNat == p)

/-- Whether the IDE condition of a partition holds (R233). -/
def ideOk (s : State) (p : Nat) : Bool := !(getPart s p).ideReq || tget false s.hif.ide p

/-- Whether a ring keeps its journal at enable (R265). -/
def keepsJournal (x : Ring) : Bool := x.jKey == some (x.part, x.func, x.jlog2)

/-- Journal frames a ring needs (R262). -/
def journalFrames (x : Ring) : Nat := ceilDiv (64 * journalSize x) 65536

/-- Allocate near frames of KIND system in a partition, one by one. -/
def takeFrames (s : State) (p : Nat) : Nat → Option (State × List Nat)
  | 0 => some (s, [])
  | n + 1 => (newNear s p 5 0).bind (fun (s, f) => (takeFrames s p n).map (fun (s, fs) => (s, f :: fs)))

/-- The frames of a new journal, once those of the old one are free (R265). -/
def newJournal (s : State) (x : Ring) : Option (State × List Nat) :=
  takeFrames (reclaim (x.jFrames.foldl freeFrame s) x.part.toNat) x.part.toNat (journalFrames x)

/-- The first condition of R246 that fails for a ring: its syndrome and the field it names. -/
def ringBad (s : State) (x : Ring) (r : Nat) : Option (Nat × Nat) :=
  let p := x.part.toNat
  let fn := x.func.toNat
  if s.dev.stage ≠ 4 then some (0x0012, 255)
  else if (getPart s p).st ≠ .ready then some (0x0012, 249)
  else if !ownsPage s fn r || !boundTo s fn p then some (0x0012, 246)
  else if x.log2size.toNat < 4 ∨ 16 < x.log2size.toNat then some (0x0012, 240)
  else if x.jlog2 ≠ 0 ∧ (x.jlog2.toNat < 6 ∨ 12 < x.jlog2.toNat) then some (0x0012, 235)
  else if x.cls = 3 then some (0x0012, 251)
  else if x.sqBase.toNat % 4096 ≠ 0 then some (0x0012, 191)
  else if x.cqBase.toNat % 4096 ≠ 0 then some (0x0012, 127)
  else if msixSize s fn ≤ x.vector.toNat then some (0x0012, 231)
  else if !linkService s then some (0x000F, 0)
  else if !ideOk s p then some (0x0012, 249)
  else if keepsJournal x && decide (x.seqBase.toNat < x.lastNext) then some (0x0012, 63)
  else if !keepsJournal x && (newJournal s x).isNone then some (0x0012, 235)
  else none

/-- The ring starts (R246): its fetched and written counts start at 0, and a new journal replaces one that is not kept (R265). -/
def startRing (s : State) (x : Ring) (r : Nat) : State :=
  let x := { x with enable := true, st := .running, sqTail := 0, cqHead := 0, fetched := 0, written := 0, adopt := 0, adoptQ := [],
                    mute := false, held := false, moved := s.time.ftime }
  if keepsJournal x then setRing s r x
  else match newJournal s x with
    | none => s
    | some (s, fs) =>
      setRing s r { x with jFrames := fs, journal := [], jKey := some (x.part, x.func, x.jlog2), lastNext := 0 }

/-- A write of ENABLE 1 to a ring in OFF (R246): it starts, or a record names the first failed condition. -/
def enableRing (s : State) (x : Ring) (r : Nat) : State :=
  match ringBad s x r with
  | none => startRing s x r
  | some (syn, field) =>
    let p := x.part.toNat
    let own := s.dev.stage == 4 && (getPart s p).st == .ready
    raise' (setRing s r { x with enable := false }) (synRec syn (if own then some p else none) uHub field 0)

/-- A ring stops fetching and runs its accepted commands to their ends (R248). -/
def quiesceRing (s : State) (r : Nat) : State :=
  settleRing (setRing s r { getRing s r with enable := false, st := .quiescing }) r

/-- A committed write of a set-up entry (R245, R246, R248). -/
def commitRing (r : Nat) (s : State) (v : Nat) : State :=
  let x := getRing s r
  let en := nbits v 255 255 == 1
  match x.st with
  | .off => if en then enableRing s (ringFields x v) r else setRing s r { ringFields x v with enable := false }
  | .quiescing => s
  | _ => if en then s else quiesceRing s r

/-- A write to the top of a set-up entry. -/
def ringTopWrite (s : State) (w : Writer) (r : Nat) (wide : Bool) (v : W64) : State :=
  if !barUp s then s
  else wideWrite s w (0x100000 + 32 * r) 256 0 (topOff 256 wide) (topWidth wide) v.toNat (commitRing r) (fun s => ringWord (getRing s r))

/-- RING_ENABLE (R246). -/
def execRingEnable (w : Writer) (r : Nat) (wide : Bool) (v : W64) (s : State) : Host.Outcome State Fault Refusal :=
  if 32768 ≤ r then .fault .noSuchUnit else .next (ringTopWrite s w r wide v)

/-- RING_DISABLE (R248). -/
def execRingDisable (w : Writer) (r : Nat) (wide : Bool) (v : W64) (s : State) : Host.Outcome State Fault Refusal :=
  if 32768 ≤ r then .fault .noSuchUnit else .next (ringTopWrite s w r wide v)

/-! ## Doorbells (R252, R253) -/

/-- What the driver stored in host memory before a doorbell (R254), and the ranges that cannot be read (R475). -/
def hostStores (s : State) (stores : List HostStore) (fails : List HostFail) : State :=
  let s := stores.foldl (fun s h => { s with hif := { s.hif with host := mwriteN s.hif.host h.addr h.bytes } }) s
  { s with hif := { s.hif with hostBad := fails } }

/-- The pages of BAR2 of a function, in the order of their offsets (R242): all 512 pages of PF0, the first 2^VF_DB_LOG2 that a VF owns. -/
def barPages (s : State) (fn : Nat) : List Nat :=
  if fn = 0 then List.range 512
  else ((List.range 512).filter (pageOwned s fn)).take (2 ^ Nat.min 9 s.hif.vfDb.toNat)

/-- Whether a doorbell of a function reaches ring `r` (R242, R244). -/
def doorbellOk (s : State) (fn r : Nat) : Bool :=
  barUp s && ownsPage s fn r && (fn == 0 || s.hif.vfEnable) && (barPages s fn).contains (r / 64)

/-- A field of a ring's doorbell by its offset, with its width in bytes (R252). -/
def doorbellField (x : Ring) (o : Nat) : Option (Nat × Nat) :=
  match o with
  | 0x00 => some (4, x.sqTail)
  | 0x04 => some (4, x.cqHead)
  | 0x08 => some (4, x.fetched)
  | 0x0C => some (4, x.written)
  | 0x10 => some (8, nextSeq x)
  | 0x18 => some (4, ringCode x.st)
  | _ => none

/-- What a read of `n` bytes at offset `off` of a function's BAR2 returns (R244, R252): zero for a page the function does not own, for a
reserved field, and for an access that is not one field. -/
def doorbellRead (s : State) (fn off n : Nat) : Nat :=
  match (barPages s fn)[off / 4096]? with
  | none => 0
  | some i =>
    let r := 64 * i + off % 4096 / 64
    if !doorbellOk s fn r then 0
    else match doorbellField (getRing s r) (off % 64) with
      | some (w, v) => if n = w then v % 2 ^ (8 * w) else 0
      | none => 0

/-- What a read of 4 bytes at offset `off` of a function's BAR4 returns (R242): an entry of the MSI-X table (address, data, mask bit) or a
word of the PBA, whose layouts are those of the PCI Express Base Specification (log 107). -/
def msixRead (s : State) (fn off : Nat) : Nat :=
  if !barUp s || (fn != 0 && !s.hif.vfEnable) then 0
  else if off / 16 < msixSize s fn then
    let e : MsixEntry := tget {} s.hif.msix (msixKey fn (off / 16))
    match off % 16 with
    | 0 => bits e.addr 31 0
    | 4 => bits e.addr 63 32
    | 8 => e.data.toNat
    | 12 => b2n e.mask
    | _ => 0
  else if off = 0x1000 then
    ((List.range (msixSize s fn)).filter (fun v => s.hif.pba.contains (msixKey fn v))).foldl (fun w v => w + 2 ^ v) 0
  else 0

/-- A doorbell wakes the partition of a ring that is not OFF (R424). -/
def doorbellWake (s : State) (r : Nat) : State := if (getRing s r).st == .off then s else wakePart s (getRing s r).part.toNat

/-- A doorbell value out of range (R253). -/
def doorbellBad (s : State) (r field : Nat) : State := raise' s (synRec 0x0014 (some (getRing s r).part.toNat) uPcie field 0)

/-- Store SQ_TAIL if 0 ≤ SQ_TAIL − FETCHED ≤ size mod 2³² (R253). -/
def storeTail (s : State) (r : Nat) (v : W32) : State :=
  let x := getRing s r
  let d := (v.toNat + 2 ^ 32 - x.fetched % 2 ^ 32) % 2 ^ 32
  if d ≤ ringSize x then setRing s r { x with sqTail := x.fetched + d } else doorbellBad s r 0

/-- Store CQ_HEAD if 0 ≤ WRITTEN − CQ_HEAD ≤ size mod 2³² (R253). -/
def storeHead (s : State) (r : Nat) (v : W32) : State :=
  let x := getRing s r
  let d := (x.written % 2 ^ 32 + 2 ^ 32 - v.toNat) % 2 ^ 32
  if d ≤ ringSize x then setRing s r { x with cqHead := v.toNat } else doorbellBad s r 4

/-- SQ_TAIL_WRITE (R253). -/
def execSqTailWrite (fn r : Nat) (v : W32) (stores : List HostStore) (fails : List HostFail) (s : State) : Host.Outcome State Fault Refusal :=
  if 64 ≤ fn || 32768 ≤ r then .fault .noSuchUnit
  else
    let s := hostStores s stores fails
    if doorbellOk s fn r then .next (doorbellWake (storeTail s r v) r) else .next s

/-- CQ_HEAD_WRITE (R253). -/
def execCqHeadWrite (fn r : Nat) (v : W32) (s : State) : Host.Outcome State Fault Refusal :=
  if 64 ≤ fn || 32768 ≤ r then .fault .noSuchUnit
  else if doorbellOk s fn r then .next (doorbellWake (storeHead s r v) r) else .next s

/-! ## Function resets and the loss of IDE (R260, R261) -/

/-- Accepted commands of a ring that have not started complete CANCELLED. -/
def cancelAccepted (s : State) (r : Nat) : State :=
  (s.cmds.filter (fun c => c.ring == r && !c.started)).foldl (fun s c =>
    afterActivation (stopCmd (dropWaiting s c.ring c.seq) c.ring c.seq { status := stCancelled }) c) s

/-- A ring is cut off from its host memory (R260): fetch stops, commands that have not started are cancelled (`cancel`) or
left to run, nothing more is written to the host, and the ring ends OFF. -/
def cutRing (cancel : Bool) (s : State) (r : Nat) : State :=
  let x := getRing s r
  if x.st == .off then s
  else
    let s := setRing s r { x with enable := false, st := .quiescing, mute := true, pendCnt := 0 }
    settleRing (if cancel then cancelAccepted s r else s) r

/-- The MSI-X table of a VF returns to its reset state (R260). -/
def resetMsix (s : State) (fn : Nat) : State :=
  { s with hif := { s.hif with msix := s.hif.msix.filter (fun e => e.1 / 32 != fn), pba := s.hif.pba.filter (fun k => k / 32 != fn) } }

/-- The rings of a function. -/
def ringsOf (s : State) (fn : Nat) : List Nat := (s.rings.filter (fun e => e.2.func.toNat == fn)).map (·.1)

/-- A Function Level Reset of VF `fn` (R260). -/
def flrVf (s : State) (fn : Nat) : State := resetMsix ((ringsOf s fn).foldl (cutRing true) s) fn

/-- VF_FLR (R260). -/
def execVfFlr (n : Nat) (s : State) : Host.Outcome State Fault Refusal :=
  if n = 0 || 64 ≤ n then .fault .noSuchUnit
  else if barUp s && s.hif.vfEnable then .next (startLaunches (flrVf s n)) else .next s

/-- VF_ENABLE_CLEAR (R260): every VF's rings, as an FLR. -/
def execVfEnableClear (s : State) : Host.Outcome State Fault Refusal :=
  if !(barUp s && s.hif.vfEnable) then .next s
  else
    let s := (rangeFrom 1 63).foldl flrVf s
    .next (startLaunches { s with hif := { s.hif with vfEnable := false } })

/-- VF_ENABLE_SET (R244). -/
def execVfEnableSet (s : State) : Host.Outcome State Fault Refusal :=
  if barUp s then .next { s with hif := { s.hif with vfEnable := true } } else .next s

/-- PF0_FLR (R261): a device reset. -/
def execPf0Flr (s : State) : Host.Outcome State Fault Refusal :=
  if barUp s && !underReset s .device then .next (beginDevice s 0 false) else .next s

/-- A stream leaves the Secure state (R233, R261): the partition's rings are cut off; commands in ACCEPTED are left to
run. -/
def loseIde (s : State) (p : Nat) : State :=
  if !tget false s.hif.ide p then s
  else
    let s := { s with hif := { s.hif with ide := tset s.hif.ide p false } }
    let rs := s.rings.filter (fun e => e.2.part.toNat == p && e.2.st != .off)
    let s := (rs.map (·.1)).foldl (cutRing false) s
    (rs.map (fun e => e.2.func.toNat)).foldl (fun s fn => if fn = 0 then s else resetMsix s fn) s

/-- IDE_STREAM_LOSS (R261). -/
def execIdeStreamLoss (p : Nat) (s : State) : Host.Outcome State Fault Refusal :=
  if 8 ≤ p then .fault .noSuchUnit else .next (loseIde s p)

/-! ## The PCIe link (R240, R241) -/

/-- Every ring in RUNNING or BROKEN quiesces with a record in its partition's queue (R241). -/
def belowService (s : State) : State :=
  (s.rings.filter (fun e => e.2.st == .running || e.2.st == .broken)).foldl (fun s e =>
    raise' (quiesceRing s e.1) (synRec 0x000F (some e.2.part.toNat) uPcie 0 0)) s

/-- PCIE_LINK_TRAINED (R241): at a rate or width below the service point the rings quiesce. -/
def execPcieLinkTrained (rate : BitVec 4) (width : BitVec 5) (flit : Bool) (s : State) : Host.Outcome State Fault Refusal :=
  if !s.pins.pwrGood then .next s
  else
    let t := { s with hif := { s.hif with rate := rate, width := width, flit := flit } }
    .next (if linkService t then t else belowService t)

/-- LINK_BELOW_SERVICE_POINT (R241). -/
def execLinkBelowServicePoint (rate : BitVec 4) (width : BitVec 5) (s : State) : Host.Outcome State Fault Refusal :=
  let t := { s with hif := { s.hif with rate := rate, width := width } }
  .next (if !s.pins.pwrGood || linkService t then s else belowService t)

end Sys2Proof.Machine
end

