-- ==== Sys2Proof/Machine/Settings.lean ====
section
/-! DEFINITION. The set-up registers outside rings and partition entries: what a write stores and what a read shows
(R232, R244, R267, R292, R310, R316, R326, R339, R346, R357, R359, R369, R415, R422, R426, R434, R471). -/

namespace Sys2Proof.Machine

open Sys2Proof

/-! ## Power (R422 to R434) -/

/-- Write PWR_CAP, clamped to 300 W to 700 W (R11, R426). -/
def writeCap (s : State) (v : Nat) : State :=
  noteShares { s with pwr := { s.pwr with cap := BitVec.ofNat 10 (Nat.max 300 (Nat.min 700 (v % 1024))) } }

/-- PWR_STATUS. -/
def pwrStatus (s : State) : Nat :=
  (s.pwr.input.toNat <<< 48) + (capInForce s <<< 38) + (b2n s.pwr.brake <<< 37) + (b2n (s.pwr.hotTiles != 0) <<< 36) +
  (s.pwr.throttle.toNat <<< 28)

/-- PWR_INPUTS: straps, stuck and chatter bits, and filtered levels. -/
def pwrInputs (s : State) : Nat :=
  (s.pwr.slotId.toNat <<< 26) + (s.pwr.feedId.toNat <<< 22) + (b2n s.pwr.stuck <<< 11) + (s.pwr.chatter.toNat <<< 8) +
  (b2n s.pins.brakeN <<< 2) + (b2n s.pins.perstN <<< 1) + b2n s.pins.pwrEn

/-- The power state a partition shows (R422): P1 while its tolerance permits it and none of its cores has a kernel. -/
def shownState (s : State) (p : Nat) : Nat :=
  let x := getPart s p
  if 2 ≤ x.pstate then x.pstate
  else if 1 ≤ deepest x.tol ∧ (partCores x).all (fun c => (getCore s c).run == .idle) then 1 else 0

/-- PWR_TOL of a partition (R422). -/
def tolWord (s : State) (p : Nat) : Nat := (shownState s p <<< 20) + (getPart s p).tol

/-! ## Serving, checks and windows of a partition (R292, R346, R359) -/

/-- Write SRV_CFG: values above a field's range clamp to its top (R292). -/
def writeSrv (n : Nat) (s : State) (v : Nat) : State :=
  setPart s n { getPart s n with gatherUs := BitVec.ofNat 10 (Nat.min 1000 (nbits v 127 118)),
                                 timedPct := BitVec.ofNat 7 (Nat.min 100 (nbits v 117 111)),
                                 milkMin := BitVec.ofNat 11 (Nat.min 1440 (nbits v 110 100)) }

/-- SRV_CFG. -/
def srvWord (x : Part) : Nat := (x.gatherUs.toNat <<< 118) + (x.timedPct.toNat <<< 111) + (x.milkMin.toNat <<< 100)

/-- Write CHECK_CFG (R346). -/
def writeCheck (n : Nat) (s : State) (v : Nat) : State :=
  setPart s n { getPart s n with proofN := BitVec.ofNat 16 (nbits v 127 112), herdN := BitVec.ofNat 16 (nbits v 111 96),
                                 proofTemp := BitVec.ofNat 10 (nbits v 95 86), proofMv := BitVec.ofNat 8 (nbits v 85 78),
                                 pcheck := nbits v 77 77 == 1 }

/-- CHECK_CFG. -/
def checkWord (x : Part) : Nat :=
  (x.proofN.toNat <<< 112) + (x.herdN.toNat <<< 96) + (x.proofTemp.toNat <<< 86) + (x.proofMv.toNat <<< 78) + (b2n x.pcheck <<< 77)

/-- Write PROG_CFG (R359): the windows are bounded where they are used. -/
def writeProg (n : Nat) (s : State) (v : Nat) : State :=
  setPart s n { getPart s n with seqWin := BitVec.ofNat 26 (nbits v 127 102), ldstWin := BitVec.ofNat 26 (nbits v 101 76),
                                 ringWin := BitVec.ofNat 26 (nbits v 75 50), fabricWin := BitVec.ofNat 26 (nbits v 49 24) }

/-- PROG_CFG. -/
def progWord (x : Part) : Nat :=
  (x.seqWin.toNat <<< 102) + (x.ldstWin.toNat <<< 76) + (x.ringWin.toNat <<< 50) + (x.fabricWin.toNat <<< 24)

/-! ## Host interface (R244) -/

/-- Write HIF_CTRL: the VF sizes are fixed while VF Enable is set (R244). -/
def writeHifCtrl (s : State) (v : Nat) : State :=
  let h := { s.hif with warm := nbits v 31 31 == 1 }
  { s with hif := if h.vfEnable then h else { h with vfDb := BitVec.ofNat 4 (nbits v 9 6), vfMsix := BitVec.ofNat 3 (nbits v 5 3) } }

/-- HIF_CTRL. -/
def hifCtrl (s : State) : Nat := (b2n s.hif.warm <<< 31) + (s.hif.vfDb.toNat <<< 6) + (s.hif.vfMsix.toNat <<< 3)

/-- HIF_LINK. -/
def hifLink (s : State) : Nat :=
  (s.hif.rate.toNat <<< 12) + (s.hif.width.toNat <<< 7) + (b2n s.hif.flit <<< 6) + (b2n (linkService s) <<< 5)

/-- Write FUNC_PART, ignored while a ring of the VF is not OFF (R244). -/
def writeFuncPart (n : Nat) (s : State) (v : Nat) : State :=
  if s.rings.any (fun e => e.2.func.toNat == n && e.2.st != .off) then s
  else { s with hif := { s.hif with funcPart := tset s.hif.funcPart n (nbits v 31 31 == 1, BitVec.ofNat 3 (nbits v 2 0)) } }

/-- FUNC_PART. -/
def funcPartWord (s : State) (n : Nat) : Nat := let b := tget (false, 0) s.hif.funcPart n; (b2n b.1 <<< 31) + b.2.toNat

/-- Write DB_OWNER, ignored while a ring of the page is not OFF (R244). -/
def writeDbOwner (i : Nat) (s : State) (v : Nat) : State :=
  if s.rings.any (fun e => e.1 / 64 == i && e.2.st != .off) then s
  else { s with hif := { s.hif with dbOwner := tset s.hif.dbOwner i (nbits v 31 31 == 1, BitVec.ofNat 6 (nbits v 5 0)) } }

/-- DB_OWNER. -/
def dbOwnerWord (s : State) (i : Nat) : Nat := let b := tget (false, 0) s.hif.dbOwner i; (b2n b.1 <<< 31) + b.2.toNat

/-! ## The ERR block (R339, R357, R361, R369) -/

/-- The queue ERR_Q_SEL selects: 9 to 15 select none (R339). -/
def selected (s : State) : Option Nat := if s.err.qSel.toNat ≤ 8 then some s.err.qSel.toNat else none

/-- Write ERR_Q_CONS: stored only where 0 ≤ PROD − CONS ≤ 256 (R339). -/
def writeCons (s : State) (v : Nat) : State :=
  match selected s with
  | none => s
  | some n =>
    let q := tget {} s.err.queues n
    let d := (q.prod % 2 ^ 32 + 2 ^ 32 - v % 2 ^ 32) % 2 ^ 32
    if d ≤ 256 ∧ d ≤ q.prod then { s with err := { s.err with queues := tset s.err.queues n { q with cons := q.prod - d } } } else s

/-- Write ERR_Q_SEL. -/
def writeErrSel (s : State) (v : Nat) : State := { s with err := { s.err with qSel := BitVec.ofNat 4 (nbits v 3 0) } }

/-- Write ERR_IRQ. -/
def writeErrIrq (s : State) (v : Nat) : State :=
  { s with err := { s.err with irqEn := nbits v 15 15 == 1, irqSev := BitVec.ofNat 2 (nbits v 9 8), irqVec := BitVec.ofNat 5 (nbits v 4 0) } }

/-- ERR_IRQ. -/
def errIrqWord (s : State) : Nat := (b2n s.err.irqEn <<< 15) + (s.err.irqSev.toNat <<< 8) + s.err.irqVec.toNat

/-- Write ERR_CS_SEL (R369). -/
def writeCsSel (s : State) (v : Nat) : State :=
  { s with err := { s.err with csPage := BitVec.ofNat 5 (nbits v 20 16), csPart := BitVec.ofNat 3 (nbits v 10 8), csSlot := BitVec.ofNat 5 (nbits v 4 0) } }

/-- ERR_CS_SEL. -/
def csSelWord (s : State) : Nat := (s.err.csPage.toNat <<< 16) + (s.err.csPart.toNat <<< 8) + s.err.csSlot.toNat

/-- Arm an injection, outside isolation mode (R357). -/
def armInjection (s : State) (v : Nat) : State :=
  let i : Inject := { kind := BitVec.ofNat 4 (nbits v 63 60), nsym := BitVec.ofNat 2 (nbits v 59 58), unit := BitVec.ofNat 8 (nbits v 57 50),
                      part := BitVec.ofNat 3 (nbits v 49 47), target := BitVec.ofNat 47 (nbits v 46 0) }
  if s.dev.isolate || i.kind == 0 || decide (6 < i.kind.toNat) then s
  else { s with err := { s.err with armed := s.err.armed ++ [i] } }

/-- STATE and COUNT of a heartbeat (R361). -/
def hbWord (s : State) (k : Nat) : Nat :=
  let silent := s.time.ftime - tget 0 s.err.hbLast k
  let st := if !hbWatched s k then 3 else if 105000000 < silent then 2 else if 10500000 < silent then 1 else 0
  (st <<< 32) + tget 0 s.err.hbCount k % 2 ^ 32

/-- Put a number's low `n` bits at bit `lo`. -/
def fld (v n lo : Nat) : Nat := (v % 2 ^ n) <<< lo

/-- DOMAIN, PART and command fields of a record that may be absent. -/
def optFld (o : Option Nat) (n lo : Nat) : Nat := match o with | some v => fld v n lo | none => 0

/-- An error record as its 1,024 bits (R333). -/
def recWord (r : Rec) : Nat :=
  fld r.seq 64 960 + fld r.ftime 64 896 + fld r.code.toNat 16 880 + fld r.sev.toNat 2 878 + fld (b2n r.esc) 1 877 + fld (b2n r.queued) 1 876 +
  fld (b2n r.inj) 1 875 + fld r.domain.toNat 3 872 + fld r.gen.toNat 8 864 + fld (b2n r.part.isSome) 1 863 + optFld r.part 3 860 +
  fld r.unitType.toNat 8 848 + fld r.unitId.toNat 16 832 + optFld (r.cmd.map (·.2)) 64 768 + optFld (r.cmd.map (·.1)) 15 753 +
  fld (b2n r.cmd.isSome) 1 752 + optFld (r.instr.map (·.1)) 12 740 + optFld (r.instr.map (·.2)) 16 724 + fld (b2n r.instr.isSome) 1 723 +
  fld r.temp.toNat 12 700 + fld r.volt.toNat 16 684 + fld r.count 32 640 + fld r.related 64 576 + fld r.syn.toNat 16 496 + r.detail.toNat

/-- Slot `k` of the selected queue's window (R339): zeros where nothing has been placed. -/
def queueSlot (s : State) (k : Nat) : Nat :=
  match selected s with
  | none => 0
  | some n => match tfind (tget {} s.err.queues n).slots k with | some r => recWord r | none => 0

/-- A register of the selected queue. -/
def queueReg (s : State) (f : ErrQueue → Nat) : Nat := match selected s with | some n => f (tget {} s.err.queues n) | none => 0

/-! ## Fabric (R310, R314, R316, R324, R326, R327) -/

/-- FAB_PORT. -/
def portWord (s : State) (p : Nat) : Nat :=
  let x := getPort s p
  fld x.peer.toNat 16 48 + fld x.retrains.toNat 16 32 + fld x.lanesOk.toNat 8 24 + fld (linkCode x.st) 3 16 + fld x.width.toNat 2 14 +
  fld (p / 2) 2 12 + fld (b2n x.enable) 1 11

/-- Write FAB_PORT: ENABLE (R310). -/
def writePort (p : Nat) (s : State) (v : Nat) : State :=
  let en := nbits v 11 11 == 1
  if (getPort s p).enable == en then s else setPortEnable s p en

/-- FAB_TSTATE (R324). -/
def tstateWord (s : State) : Nat :=
  fld s.time.bound 16 32 + fld (ofInt 16 s.time.theta).toNat 16 16 + fld s.time.src 4 4 + s.time.tstate.toNat

/-- Write FAB_EPID (R316, R321). -/
def writeEpid (p : Nat) (s : State) (v : Nat) : State :=
  setPart s p { getPart s p with epValid := nbits v 31 31 == 1, epWeight := BitVec.ofNat 8 (nbits v 23 16), endpoint := BitVec.ofNat 16 (nbits v 15 0) }

/-- FAB_EPID. -/
def epidWord (x : Part) : Nat := fld (b2n x.epValid) 1 31 + fld x.epWeight.toNat 8 16 + x.endpoint.toNat

/-- STATE code of a job (R326). -/
def jobCode (x : JobState) : Nat := match x with | .idle => 0 | .forming => 1 | .active => 2 | .stopped => 3

/-- FAB_JOB. -/
def jobWord (j : Job) : Nat :=
  fld (b2n j.valid) 1 127 + fld (jobCode j.st) 3 124 + fld j.part.toNat 3 121 + fld j.cmode.toNat 2 119 + fld j.check.toNat 2 117 +
  fld j.g.toNat 13 104 + fld j.run.toNat 13 91 + fld j.nmemb.toNat 12 79 + fld j.rank.toNat 12 67 + fld j.jobId.toNat 32 32 + j.page.toNat

/-- The entry a write describes: no member table, tags or counts of an earlier job. -/
def jobFields (v : Nat) : Job :=
  { valid := nbits v 127 127 == 1, part := BitVec.ofNat 3 (nbits v 123 121), cmode := BitVec.ofNat 2 (nbits v 120 119),
    check := BitVec.ofNat 2 (nbits v 118 117), g := BitVec.ofNat 13 (nbits v 116 104), run := BitVec.ofNat 13 (nbits v 103 91),
    nmemb := BitVec.ofNat 12 (nbits v 90 79), rank := BitVec.ofNat 12 (nbits v 78 67), jobId := BitVec.ofNat 32 (nbits v 63 32),
    page := BitVec.ofNat 32 (nbits v 31 0) }

/-- The same job in another life goes on in its collective numbers, and contributions of those it abandoned stay discarded (R330,
log 96). -/
def sameColls (old new : Job) : Job :=
  if old.jobId == new.jobId then { new with collSeq := old.collSeq, abandoned := old.abandoned } else new

/-- The member table of a job (R326): 16-bit words in rank order, from a page of the partition's near working region. A
table that cannot be read is free values, with the records of the reads. -/
def memberBytes (s : State) (j : Job) : State × List Byte :=
  let n := 2 * (j.nmemb.toNat + 1)
  let m := readPart s j.part.toNat 0 (j.page.toNat * 65536) n
  let s := m.ces.foldl raise' s
  match m.ue, m.err with
  | none, none => (s, m.bytes)
  | u, _ =>
    let s := match u with | some (r, _) => raise' s r | none => s
    ({ s with fresh := s.fresh + n }, (List.range n).map (fun i => BitVec.ofNat 8 (Config.freeNat (s.fresh + i))))

/-- Form a job (R327): the member table is copied and its digest goes to every other member. -/
def formJob (j : Nat) (s : State) (v : Nat) : State :=
  let x := sameColls (getJob s j) (jobFields v)
  let (s, b) := memberBytes s x
  let x := { x with st := .forming, members := (chunks 2 b).map (fun w => BitVec.ofNat 16 (leNat w)),
                    digest := BitVec.ofNat 64 (leNat ((sha3 b).take 8)) }
  let s := { s with sep := { s.sep with batches := s.sep.batches.filter (fun y => y.job != j), credits := s.sep.credits.filter (fun e => e.1.1 != j) },
                    fab := { s.fab with colls := s.fab.colls.filter (fun y => y.job != j) },
                    herds := s.herds.filter (fun h => h.job != j) }
  activateJobs (sendDigests (setJob s j x))

/-- A committed write of FAB_JOB (R326, R327). -/
def commitJob (j : Nat) (s : State) (v : Nat) : State :=
  let x := getJob s j
  let on := nbits v 127 127 == 1
  if x.st == .idle || x.st == .stopped then (if on then formJob j s v else setJob s j (sameColls x (jobFields v)))
  else if on then s else setJob s j { x with valid := false, st := .idle }

/-! ## Keys and the attestation mailbox (R232, R415) -/

/-- STATE code of a key slot (R415). -/
def keyCode (x : KeyState) : Nat := match x with | .empty => 0 | .active => 1 | .retired => 2

/-- SEC_SLOT: no key material (R230). -/
def keyWord (x : KeySlot) : Nat := fld (keyCode x.st) 2 62 + fld x.part.toNat 3 59 + fld (b2n x.pv) 1 58 + fld x.frames 25 0

/-- Write SEC_SLOT: PART and PV while the slot is EMPTY (R415). -/
def writeKeySlot (k : Nat) (s : State) (v : Nat) : State :=
  let x := getKey s k
  if x.st == .empty then setKey s k { x with part := BitVec.ofNat 3 (nbits v 61 59), pv := nbits v 58 58 == 1 } else s

/-- Retire a key slot (R232): its material is overwritten, and it is EMPTY at once when no far frame is tagged with it. -/
def retireKey (s : State) (k : Nat) : State :=
  let x := getKey s k
  if x.st != .active then s
  else setKey s k { x with key := 0, st := if x.frames = 0 then .empty else .retired }

/-- Write SEC_RETIRE (R415). -/
def writeRetire (s : State) (v : Nat) : State := if nbits v 31 31 = 1 then retireKey s (nbits v 5 0) else s

/-- SEC_MB_CTRL. -/
def mbCtrl (s : State) : Nat := fld (b2n s.sec.busy) 1 30 + fld (b2n s.sec.done) 1 29 + s.sec.len.toNat

/-- Write SEC_MB_CTRL (R415, R469): GO hands the request to the responder; it is ignored while BUSY is 1. -/
def writeMbCtrl (s : State) (v : Nat) : State :=
  let go := nbits v 31 31 == 1
  if go && s.sec.busy then s
  else { s with sec := { s.sec with done := s.sec.done && !(nbits v 29 29 == 1), busy := s.sec.busy || go, len := BitVec.ofNat 16 (nbits v 15 0) } }

end Sys2Proof.Machine
end

