-- ==== Sys2Proof/Machine/Manage.lean ====
section
/-! DEFINITION. The management port and the MGC mailbox (R398 to R405, R416 to R419, R340, R460): staging under the
update lock, commit, anchors, the CPER export, and the requests of Redfish and PLDM. -/

namespace Sys2Proof.Machine

open Sys2Proof

/-! ## Status codes (R418) -/

/-- MGC_STATUS 0x00 done. -/
def msDone : Byte := 0x00
/-- 0x01 busy elsewhere. -/
def msBusy : Byte := 0x01
/-- 0x02 verify failed. -/
def msVerify : Byte := 0x02
/-- 0x03 not higher. -/
def msNotHigher : Byte := 0x03
/-- 0x04 anchor present. -/
def msAnchor : Byte := 0x04
/-- 0x05 refused in isolation mode. -/
def msIsolated : Byte := 0x05
/-- The model's answer to a Redfish client whose role may not make the request (R416). -/
def msRole : Byte := 0x80

/-! ## The CPER export (R340) -/

/-- The Gyvowell error section of a record (R340), 160 bytes. -/
def cperSection (s : State) (r : Rec) : List Byte :=
  natLE 2 0x0100 ++ natLE 2 0 ++ natLE 4 (1 + 2 * b2n s.pwr.strapsOk + 4 * b2n s.pwr.strapsOk + 8 * b2n s.mgc.hubRun.isSome) ++
  natLE 8 s.dev.serial.toNat ++ natLE 1 s.pwr.slotId.toNat ++ natLE 1 s.pwr.feedId.toNat ++ natLE 6 0 ++
  natLE 8 s.dev.fwVersion.toNat ++ natLE 128 (recWord r)

/-- The section type GUID (R340), its first three fields low byte first (log 64). -/
def cperGuid : List Byte := [0x2E, 0x0B, 0x3C, 0x1F, 0x47, 0x9D, 0x86, 0x4A, 0xB5, 0xE1, 0x6C, 0x27, 0xD0, 0xA9, 0xE3, 0x4F]

/-- The FRU text "GWY-9812" (R340). -/
def fruText : List Byte := [0x47, 0x57, 0x59, 0x2D, 0x39, 0x38, 0x31, 0x32]

/-- The CPER severity of a record (R340): Corrected, Recoverable for contained and fatal-domain, Fatal for fatal-device. -/
def cperSev (r : Rec) : Nat := match r.sev.toNat with | 0 => 2 | 3 => 1 | _ => 0

/-- The record header of UEFI Appendix N, 128 bytes (R340, log 64). -/
def cperHeader (r : Rec) : List Byte :=
  natLE 4 0x52455043 ++ natLE 2 0x0101 ++ natLE 4 0xFFFFFFFF ++ natLE 2 1 ++ natLE 4 (cperSev r) ++ natLE 4 0 ++ natLE 4 360 ++
  natLE 72 0 ++ natLE 8 r.seq ++ natLE 24 0

/-- The section descriptor of UEFI Appendix N, 72 bytes (R340, log 64). -/
def cperDescriptor (r : Rec) : List Byte :=
  natLE 4 200 ++ natLE 4 160 ++ natLE 2 0x0100 ++ natLE 1 2 ++ natLE 1 0 ++ natLE 4 0 ++ cperGuid ++ natLE 16 0 ++ natLE 4 (cperSev r) ++
  padTo 20 fruText

/-- A record as the MGC keeps it (R340), 360 bytes: header, descriptor and the one section. -/
def cperRecord (s : State) (r : Rec) : List Byte := cperHeader r ++ cperDescriptor r ++ cperSection s r

/-- Records of an exported queue from record `i` on, as many as `n` (R340). -/
def cperBytes (s : State) (q i n : Nat) : List Byte := (((tget [] s.err.cper q).drop i).take n).flatMap (cperRecord s)

/-! ## Test mode (R460) -/

/-- Close test mode: the test port enters test-logic reset (R460). -/
def closeTest (s : State) : State := if s.tap.test then { s with tap := {} } else s

/-- Write the Manager's test setting (R460): test mode opens while PERST_N is asserted, never in isolation mode. -/
def setTest (s : State) (on : Bool) : State :=
  let s := { s with mgc := { s.mgc with testOn := on } }
  if !on then closeTest s
  else if !s.pins.perstN && !s.dev.isolate then { s with tap := { s.tap with test := true } } else s

/-! ## Staging (R402, R403, R419) -/

/-- Whether the MGC's services answer. -/
def mgcUp (s : State) : Bool := s.pins.pwrGood && s.mgc.booted

/-- Index of a flash slot in the staging table. -/
def flashKey (c : Component) (b : Bool) : Nat := 2 * (componentCode c - 1) + b2n b

/-- The slot staging writes: never that of the image that is running (R419). -/
def targetSlot (s : State) (c : Component) : Bool := match runningSlot s c with | some b => !b | none => !preferred s c

/-- Take the update lock, or nothing where another holds it (R419). -/
def takeLock (s : State) (k : Locker) : Option State :=
  if s.mgc.lock.isNone || s.mgc.lock == some k then some { s with mgc := { s.mgc with lock := some k } } else none

/-- Stage a whole image: its status (R419). -/
def stageImage (s : State) (k : Locker) (c : Component) (m : FwImage) : State × Byte :=
  match takeLock s k with
  | none => (s, msBusy)
  | some s => (putImage s c (targetSlot s c) (some m), msDone)

/-- Stage a part of an image at a byte offset: the slot holds no image until its next verification (R419). -/
def stagePart (s : State) (k : Locker) (c : Component) (off : Nat) (d : List Byte) : State × Byte :=
  match takeLock s k with
  | none => (s, msBusy)
  | some s =>
    let i := flashKey c (targetSlot s c)
    let s := putImage s c (targetSlot s c) none
    ({ s with mgc := { s.mgc with partial_ := tset s.mgc.partial_ i (mwriteN (tget [] s.mgc.partial_ i) off d) } }, msDone)

/-- The image that bytes of a slot spell (R399). -/
def parseImage (m : Memory) : FwImage :=
  let f := fun a n => leNat (mreadN m a n)
  { magic := BitVec.ofNat 32 (f 0 4), format := BitVec.ofNat 16 (f 4 2), component := BitVec.ofNat 16 (f 6 2), svn := BitVec.ofNat 32 (f 8 4),
    flags := BitVec.ofNat 32 (f 12 4), version := BitVec.ofNat 64 (f 16 8), length := BitVec.ofNat 32 (f 24 4),
    digest := BitVec.ofNat 256 (f 32 32), key := mreadN m 64 1312, sig := mreadN m 0x560 2420,
    payload := mreadN m 4096 (Nat.min (f 24 4) 67108864), reserved := mreadN m 28 4 ++ mreadN m 0xED4 300 }

/-- Put the bytes staged for a component into its slot. -/
def settleStaged (s : State) (c : Component) : State :=
  let i := flashKey c (targetSlot s c)
  match tfind s.mgc.partial_ i with
  | none => s
  | some m =>
    let s := putImage s c (targetSlot s c) (some (parseImage m))
    { s with mgc := { s.mgc with partial_ := tdel s.mgc.partial_ i } }

/-- The MGC firmware starts from a slot (R401 steps 1 and 2, R403). -/
def bootMgc (s : State) (b : Bool) : State := { s with mgc := { s.mgc with booted := true, recovery := false, mgcRun := some b } }

/-- What follows once a staged slot passes R400: a device in Safelight is reset (R402), a module in MGC recovery boots
the image (R403). -/
def afterStaged (s : State) (c : Component) (b : Bool) : State :=
  if s.mgc.recovery then (if c == .mgc then bootMgc s b else s)
  else if s.dev.stage = 15 ∧ !underReset s .device then beginDevice s 0 false
  else s

/-- Verify a staged image and give the lock back: its status (R419). -/
def verifyStaged (s : State) (k : Locker) (c : Component) : State × Byte :=
  match takeLock s k with
  | none => (s, msBusy)
  | some s =>
    let s := settleStaged { s with mgc := { s.mgc with lock := none } } c
    let b := targetSlot s c
    if slotOk s c b then (afterStaged s c b, msDone) else (s, msVerify)

/-! ## Commit and preference (R401, R405) -/

/-- COMMIT_SVN of a component (R405): its counter takes the SVN of the running image, if that is higher. -/
def commitRunning (s : State) (c : Component) : State × Byte :=
  match runningImage s c with
  | none => (s, msNotHigher)
  | some m =>
    if m.svn.toNat ≤ (svnOf s c).toNat then (s, msNotHigher)
    else ({ s with mgc := match c with | .hub => { s.mgc with hubSvn := m.svn } | .mgc => { s.mgc with mgcSvn := m.svn } }, msDone)

/-- Set the preferred slot of a component (R401). -/
def prefer (s : State) (c : Component) (b : Bool) : State :=
  { s with mgc := match c with | .hub => { s.mgc with hubPref := b } | .mgc => { s.mgc with mgcPref := b } }

/-! ## The MGC mailbox (R418, R419) -/

/-- The component MGC_ARG names in bits [47:32], by its code (R399). -/
def argComp (s : State) : Option Component :=
  match bits s.mgc.arg 47 32 with | 1 => some .hub | 2 => some .mgc | _ => none

/-- Whether a GO write of the mailbox by a writer takes effect: PF0 only (R418), with the MGC up. -/
def mailboxOpen (s : State) (w : Writer) : Bool := barUp s && w == .pf0 && !s.mgc.busy

/-- The end of a mailbox command. -/
def mailboxDone (x : State × Byte) (cmd : Byte) : State :=
  { x.1 with mgc := { x.1.mgc with cmd := cmd, busy := false, done := true, status := x.2 } }

/-- STAGE_WRITE: the 32 KiB data window at the offset of MGC_ARG [31:0]. -/
def mbStageWrite (s : State) : State :=
  mailboxDone (match argComp s with
    | none => (s, msVerify)
    | some c => stagePart s .mailbox c (bits s.mgc.arg 31 0) (mreadN s.mgc.data 0 32768)) 1

/-- STAGE_VERIFY. The mailbox registers are reset by a device reset that follows. -/
def mbStageVerify (s : State) : State :=
  mailboxDone (match argComp s with | none => (s, msVerify) | some c => verifyStaged s .mailbox c) 2

/-- COMMIT_SVN. -/
def mbCommit (s : State) : State := mailboxDone (match argComp s with | none => (s, msVerify) | some c => commitRunning s c) 3

/-- Install the first anchor (R417), as an Administrator's. -/
def enrol (s : State) (cert : List Byte) : State × Byte :=
  if !s.mgc.anchors.isEmpty then (s, msAnchor)
  else ({ s with mgc := { s.mgc with anchors := [(.administrator, cert)] } }, msDone)

/-- ENROL_ANCHOR from the mailbox: MGC_ARG [31:0] bytes of the data window. -/
def mbEnrol (s : State) : State :=
  mailboxDone (if s.dev.isolate then (s, msIsolated) else enrol s (mreadN s.mgc.data 0 (Nat.min 32768 (bits s.mgc.arg 31 0)))) 4

/-- READ_CPER: sections of the exported queue MGC_ARG [47:32], from record MGC_ARG [31:0] on, into the data window. -/
def mbReadCper (s : State) : State :=
  let d := cperBytes s (bits s.mgc.arg 47 32) (bits s.mgc.arg 31 0) 91
  mailboxDone ({ s with mgc := { s.mgc with data := mwriteN [] 0 d } }, msDone) 5

/-- DEVICE_RESET (R362). -/
def mbReset (s : State) : State :=
  if s.dev.isolate then mailboxDone (s, msIsolated) 6
  else
    let s := mailboxDone (s, msDone) 6
    if underReset s .device then s else beginDevice s 0 false

/-- SET_PREFERRED: the component of MGC_ARG and slot A (0) or B (1) in bit 0. -/
def mbPrefer (s : State) : State :=
  mailboxDone (match argComp s with | none => (s, msVerify) | some c => (prefer s c (bit s.mgc.arg 0), msDone)) 7

/-- STAGE_WRITE (R419). -/
def execStageWrite (w : Writer) (s : State) : Host.Outcome State Fault Refusal := .next (if mailboxOpen s w then mbStageWrite s else s)

/-- STAGE_VERIFY (R419). -/
def execStageVerify (w : Writer) (s : State) : Host.Outcome State Fault Refusal := .next (if mailboxOpen s w then mbStageVerify s else s)

/-- COMMIT_SVN (R405). -/
def execCommitSvn (w : Writer) (s : State) : Host.Outcome State Fault Refusal := .next (if mailboxOpen s w then mbCommit s else s)

/-- ENROL_ANCHOR (R417): from the mailbox, or a certificate over MCTP from the host board's controller, which isolation
mode does not refuse (R419). -/
def execEnrolAnchor (mctp : Option (List Byte)) (s : State) : Host.Outcome State Fault Refusal :=
  match mctp with
  | none => .next (if mailboxOpen s .pf0 then mbEnrol s else s)
  | some cert => .next (if mgcUp s then (enrol s cert).1 else s)

/-- READ_CPER (R340, R418). -/
def execReadCper (w : Writer) (s : State) : Host.Outcome State Fault Refusal := .next (if mailboxOpen s w then mbReadCper s else s)

/-- DEVICE_RESET (R362, R419). -/
def execDeviceReset (w : Writer) (s : State) : Host.Outcome State Fault Refusal := .next (if mailboxOpen s w then mbReset s else s)

/-- SET_PREFERRED (R401). -/
def execSetPreferred (w : Writer) (s : State) : Host.Outcome State Fault Refusal := .next (if mailboxOpen s w then mbPrefer s else s)

/-! ## Redfish and PLDM (R416 to R419) -/

/-- The rank of a role. -/
def roleRank (r : Role) : Nat := match r with | .administrator => 3 | .operator => 2 | .readOnly => 1 | .none => 0

/-- Whether a client of a role may make a request that needs rank `n`: its certificate chains to an anchor bound to the
role (R416). -/
def mayRole (s : State) (r : Role) (n : Nat) : Bool := decide (n ≤ roleRank r) && s.mgc.anchors.any (fun a => a.1 == r)

/-- The least role of a request (R416). -/
def reqRank (q : RfReq) : Nat :=
  match q with | .setCap _ => 2 | .readLog => 1 | .readSummary => 1 | _ => 3

/-- The OEM summary without tenant data (R416): fenced cores and lanes, the Safelight cause, jobs and partitions by state. -/
def summary (s : State) : List Byte :=
  natLE 16 (fenced s).toNat ++ natLE 6 (s.dev.laneCfg ||| s.dev.laneLost).toNat ++ natLE 1 s.dev.slCause.toNat ++
  (List.range 64).map (fun j => BitVec.ofNat 8 (jobCode (getJob s j).st)) ++ (List.range 8).map (fun p => BitVec.ofNat 8 (partCode (getPart s p).st))

/-- Every record of the export, in the order of the queues. -/
def logBytes (s : State) : List Byte := (List.range 9).flatMap (fun q => cperBytes s q 0 4096)

/-- What a permitted Redfish request does: its answer is a status and data (R416). -/
def redfish (s : State) (q : RfReq) : State × Byte × List Byte :=
  match q with
  | .setCap w => (if barUp s then writeCap s (Nat.min w 1023) else s, msDone, [])
  | .stage c m => let x := stageImage s .redfish c m; (x.1, x.2, [])
  | .verify c => let x := verifyStaged s .redfish c; (x.1, x.2, [])
  | .commitSvn c => let x := commitRunning s c; (x.1, x.2, [])
  | .setPreferred c b => (prefer s c b, msDone, [])
  | .readLog => (s, msDone, logBytes s)
  | .setAnchor r cert => ({ s with mgc := { s.mgc with anchors := s.mgc.anchors ++ [(r, cert)] } }, msDone, [])
  | .dropAnchor n => ({ s with mgc := { s.mgc with anchors := s.mgc.anchors.eraseIdx n } }, msDone, [])
  | .moduleReset => (moduleReset s, msDone, [])
  | .testMode on => (setTest s on, msDone, [])
  | .retireKey k => (if barUp s then retireKey s (k % 64) else s, msDone, [])
  | .setEpid p v => (if barUp s && decide (p < 8) then writeEpid p s v.toNat else s, msDone, [])
  | .readSummary => (s, msDone, summary s)

/-- Put the answer of the Redfish service. -/
def answerRf (x : State × Byte × List Byte) : State := { x.1 with mgc := { x.1.mgc with redfish := x.2.1 :: x.2.2 } }

/-- REDFISH_REQUEST (R416). -/
def execRedfishRequest (r : Role) (q : RfReq) (s : State) : Host.Outcome State Fault Refusal :=
  if !mgcUp s then .next s
  else if !mayRole s r (reqRank q) then .next (answerRf (s, msRole, []))
  else if q == .moduleReset then .next (moduleReset s)
  else .next (answerRf (redfish s q))

/-- MODULE_RESET_COMMAND (R362, R416): the Manager resource resets the module. -/
def execModuleResetCommand (r : Role) (s : State) : Host.Outcome State Fault Refusal :=
  if !mgcUp s then .next s
  else if mayRole s r 3 then .next (moduleReset s)
  else .next (answerRf (s, msRole, []))

/-- TEST_MODE_ENABLE (R460). -/
def execTestModeEnable (r : Role) (on : Bool) (s : State) : Host.Outcome State Fault Refusal :=
  if !mgcUp s then .next s
  else if mayRole s r 3 then .next (answerRf (setTest s on, msDone, []))
  else .next (answerRf (s, msRole, []))

/-- What a PLDM request does, and its status (R418). -/
def pldm (s : State) (q : PldmReq) : State × Byte :=
  match q with
  | .stage c m => stageImage s .pldm c m
  | .verify c => verifyStaged s .pldm c
  | .commitSvn c => commitRunning s c
  | .setPreferred c b => (prefer s c b, msDone)

/-- The component of a PLDM request. -/
def pldmComp (q : PldmReq) : Component :=
  match q with | .stage c _ => c | .verify c => c | .commitSvn c => c | .setPreferred c _ => c

/-- PLDM_FIRMWARE_UPDATE (R403, R418): in MGC recovery for the MGC component only. -/
def execPldmFirmwareUpdate (q : PldmReq) (s : State) : Host.Outcome State Fault Refusal :=
  if !s.pins.pwrGood || !(s.mgc.booted || (s.mgc.recovery && pldmComp q == .mgc)) then .next s
  else
    let x := pldm s q
    .next { x.1 with mgc := { x.1.mgc with pldm := [x.2] } }

end Sys2Proof.Machine
end

