-- ==== Sys2Proof/Machine/Power.lean ====
section
/-! DEFINITION. Power, pins and start-up (R401, R420 to R443, R452 to R460): the power stage, the filtered inputs, the
start-up stages, the governor, the power states of partitions, and the test port. -/

namespace Sys2Proof.Machine

open Sys2Proof

/-! ## The power stage (R428, R434, R441, R443, R452, R458) -/

/-- Whether the power stage may start: PWR_EN asserted, PWR_GOOD low for 500 ms, and after a thermal trip PWR_EN seen
deasserted and every sensor below 95 °C. -/
def mayStart (s : State) : Bool :=
  s.pins.pwrEn && s.pins.offOk &&
  (match s.pins.stage with | .off => true | .tripped => s.pins.tripArmed && s.pins.cool | _ => false)

/-- Start the power stage if it may (R434). -/
def tryStart (s : State) : State :=
  if mayStart s then { s with pins := { s.pins with stage := .ramp, thermTripN := true, tripArmed := false } } else s

/-- The power stage stops: the MGC stores the hub tag, PWR_GOOD drops, and everything volatile is lost (R362, R364, R441). -/
def powerDown (s : State) (stg : Stage) : State :=
  let s := moduleWipe (closeTest s) false
  { s with pins := { s.pins with stage := stg, pwrGood := false, offOk := false, wakeN := true }, tap := {}, mgc := { s.mgc with recovery := false } }

/-- PWR_EN takes a level. -/
def setPwrEn (s : State) (on : Bool) : State :=
  if s.pins.pwrEn == on then s
  else
    let s := { s with pins := { s.pins with pwrEn := on } }
    if on then tryStart s
    else match s.pins.stage with
      | .off => s
      | .tripped => { s with pins := { s.pins with tripArmed := true } }
      | _ => powerDown s .off

/-- PERST_N takes a level: assertion resets the module (R362), release closes test mode (R460). -/
def setPerst (s : State) (high : Bool) : State :=
  if s.pins.perstN == high then s
  else
    let s := { s with pins := { s.pins with perstN := high } }
    if high then closeTest s else if s.pins.pwrGood then moduleReset s else s

/-- PWR_BRAKE_N takes a level (R429, R432). -/
def setBrake (s : State) (high : Bool) : State :=
  noteShares { s with pins := { s.pins with brakeN := high },
                      pwr := { s.pwr with brake := !high, stuck := s.pwr.stuck && !high } }

/-- Bit of CHATTER of an input (R431). -/
def chatBit (p : Pin) : Nat := match p with | .pwrBrakeN => 2 | .perstN => 1 | .pwrEn => 0

/-- Whether an input is held in its safe state (R431). -/
def chattering (s : State) (p : Pin) : Bool := bit s.pwr.chatter (chatBit p)

/-- PWR_EN_ASSERT (R452, R458). -/
def execPwrEnAssert (s : State) : Host.Outcome State Fault Refusal := .next (if chattering s .pwrEn then s else setPwrEn s true)

/-- PWR_EN_DEASSERT (R441). -/
def execPwrEnDeassert (s : State) : Host.Outcome State Fault Refusal := .next (if chattering s .pwrEn then s else setPwrEn s false)

/-- PERST_N_ASSERT (R362). -/
def execPerstNAssert (s : State) : Host.Outcome State Fault Refusal := .next (if chattering s .perstN then s else setPerst s false)

/-- PERST_N_RELEASE (R435, R460). -/
def execPerstNRelease (s : State) : Host.Outcome State Fault Refusal := .next (if chattering s .perstN then s else setPerst s true)

/-- PWR_BRAKE_ASSERT (R429). -/
def execPwrBrakeAssert (s : State) : Host.Outcome State Fault Refusal := .next (if chattering s .pwrBrakeN then s else setBrake s false)

/-- PWR_BRAKE_RELEASE (R429). -/
def execPwrBrakeRelease (s : State) : Host.Outcome State Fault Refusal := .next (if chattering s .pwrBrakeN then s else setBrake s true)

/-- POWER_STAGE_READY (R434). -/
def execPowerStageReady (s : State) : Host.Outcome State Fault Refusal :=
  if s.pins.stage == .ramp then .next { s with pins := { s.pins with stage := .on, pwrGood := true } } else .next s

/-- POWER_OFF_TIME_ELAPSED (R458). -/
def execPowerOffTimeElapsed (s : State) : Host.Outcome State Fault Refusal :=
  if s.pins.pwrGood then .next s else .next (tryStart { s with pins := { s.pins with offOk := true } })

/-- THERMAL_TRIP (R428). -/
def execThermalTrip (s : State) : Host.Outcome State Fault Refusal :=
  if s.pins.stage == .ramp || s.pins.stage == .on then
    let s := powerDown s .tripped
    .next { s with pins := { s.pins with thermTripN := false, cool := false, tripArmed := false } }
  else .next s

/-- RESTART_PERMITTED (R428). -/
def execRestartPermitted (s : State) : Host.Outcome State Fault Refusal := .next (tryStart { s with pins := { s.pins with cool := true } })

/-- INPUT_VOLTAGE_FAULT (R443, R452). -/
def execInputVoltageFault (s : State) : Host.Outcome State Fault Refusal :=
  if s.pins.stage == .ramp || s.pins.stage == .on then .next (powerDown s .off) else .next s

/-! ## Chattering and stuck inputs, straps (R430 to R433) -/

/-- A record of the sideband inputs: corrected, to the device queue and every partition queue (R433, R338). -/
def raiseInput (s : State) (code : W16) : State :=
  if s.pins.pwrGood then (raise s { code := code, sev := sevCorrected, unitType := uPower } (wide := true)).st else s

/-- Put an input's safe state (R430). -/
def safeState (s : State) (p : Pin) : State :=
  match p with | .pwrBrakeN => setBrake s false | .perstN => setPerst s false | .pwrEn => setPwrEn s false

/-- Put a level of an input. -/
def setPin (s : State) (p : Pin) (high : Bool) : State :=
  match p with | .pwrBrakeN => setBrake s high | .perstN => setPerst s high | .pwrEn => setPwrEn s high

/-- INPUT_CHATTER (R431): once per episode. -/
def execInputChatter (p : Pin) (s : State) : Host.Outcome State Fault Refusal :=
  if chattering s p then .next s
  else
    let s := safeState (raiseInput s 0x0702) p
    .next { s with pwr := { s.pwr with chatter := setBit s.pwr.chatter (chatBit p) true } }

/-- INPUT_CHATTER_END (R431): the input has been stable at a level for 100 ms. -/
def execInputChatterEnd (p : Pin) (level : Bool) (s : State) : Host.Outcome State Fault Refusal :=
  if !chattering s p then .next s
  else .next (setPin { s with pwr := { s.pwr with chatter := setBit s.pwr.chatter (chatBit p) false } } p level)

/-- INPUT_STUCK (R432): PWR_BRAKE_N, the one input with a stuck limit, held active for 10 s. -/
def execInputStuck (p : Pin) (s : State) : Host.Outcome State Fault Refusal :=
  if p == .pwrBrakeN && !s.pins.brakeN && !s.pwr.stuck then .next (raiseInput { s with pwr := { s.pwr with stuck := true } } 0x0701)
  else .next s

/-- STRAP_SAMPLE (R433): once after PWR_GOOD. -/
def execStrapSample (feed : BitVec 4) (slotId : BitVec 6) (s : State) : Host.Outcome State Fault Refusal :=
  if s.pins.pwrGood && !s.pwr.strapsOk then
    .next { s with pwr := { s.pwr with feedId := feed, slotId := slotId, strapsOk := true } }
  else .next s

/-- STRAP_CHANGE (R433): ignored, with one record. -/
def execStrapChange (s : State) : Host.Outcome State Fault Refusal :=
  if s.pwr.strapsOk && !s.pwr.strapErr then .next (raiseInput { s with pwr := { s.pwr with strapErr := true } } 0x0702) else .next s

/-- Whether ALERT_N is asserted (R455). -/
def alertOn (s : State) : Bool :=
  (s.err.irqEn && (List.range 9).any (fun n =>
    let q := tget {} s.err.queues n
    (rangeFrom q.cons (q.prod - q.cons)).any (fun i => decide (s.err.irqSev.toNat ≤ (tget {} q.slots (i % 256)).sev.toNat)))) ||
  s.dev.stage == 15 || s.pwr.hotTiles != 0 || s.pwr.chatter != 0 || s.pwr.stuck || s.mgc.recovery

/-! ## The clock (R421) -/

/-- PLL_LOCK_LOSS (R421): every core and the hub are held, the MGC notes it in its Redfish log, and the module resets. -/
def execPllLockLoss (s : State) : Host.Outcome State Fault Refusal :=
  if !(s.pins.pwrGood && s.pins.pllLock) then .next s
  else
    let s := moduleReset { s with mgc := { s.mgc with log := s.mgc.log ++ [0x01] } }
    .next { s with pins := { s.pins with pllLock := false } }

/-- PLL_LOCK_HELD (R421): the PLL has held lock for 1 ms, and the module leaves reset. -/
def execPllLockHeld (s : State) : Host.Outcome State Fault Refusal := .next { s with pins := { s.pins with pllLock := true } }

/-! ## Start-up (R401 to R403, R407, R408, R434 to R438) -/

/-- MGC_BOOT (R401 steps 1 and 2, R403). -/
def execMgcBoot (s : State) : Host.Outcome State Fault Refusal :=
  if !(s.pins.pwrGood && s.pins.pllLock) || s.mgc.booted || s.mgc.recovery then .next s
  else match bootSlot s .mgc with
    | some b => .next (bootMgc s b)
    | none => .next { s with mgc := { s.mgc with recovery := true } }

/-- Whether the hub ROM runs next (R434): PERST_N released, the MGC booted, the clock good, and no reset under way. -/
def romReady (s : State) : Bool :=
  s.pins.pwrGood && s.pins.perstN && s.pins.pllLock && s.mgc.booted && s.dev.stage == 0 && !s.hif.cfgReady && !underReset s .device

/-- Whether the device record of the newest CFG_SEQ stands among the valid records (R408). -/
def seqHeld (s : State) (l : List CfgRecord) : Bool := s.mgc.cfgSeq == 0 || l.any (fun r => r.signer == 1 && r.seq == s.mgc.cfgSeq)

/-- The firmware takes over (R401 step 6, R407, R474): fences, powered tiles, and self-test begins (R434). -/
def startFirmware (s : State) (l : List CfgRecord) : State :=
  let c := masksOf l 1
  let k := masksOf l 2
  { s with dev := { s.dev with cfgGyv := c.1, cfgDev := c.2, quar := c.2 &&& ~~~ c.1, stFenced := 0, laneCfg := (k.1 ||| k.2).setWidth 48, laneLost := 0,
                               tileOn := 0xFF, tileFw := 0xFF, stage := 3, stAt := s.time.ftime },
           mgc := { s.mgc with laneHist := (s.dev.laneLost :: s.mgc.laneHist).take 2 },
           err := { s.err with hbLast := (List.range 9).map (fun k => (k, s.time.ftime)) } }

/-- The boot of the hub from a slot (R401 steps 4 to 6). -/
def bootHub (s : State) (b : Bool) (m : FwImage) : State :=
  let s := { s with mgc := { s.mgc with hubRun := some b }, dev := { s.dev with fwVersion := m.version } }
  let ms := bootMeasurements s m.key
  let s := { s with dev := { s.dev with meas := ms }, mgc := { s.mgc with aliasSeed := aliasSeedOf ms } }
  let l := validRecords s m.key
  if seqHeld s l then startFirmware s l else safelight s 2

/-- HUB_ROM_BOOT (R401, R402, R408, R364): `pufOk` says whether the PUF gave the device secret. -/
def execHubRomBoot (pufOk : Bool) (s : State) : Host.Outcome State Fault Refusal :=
  if !romReady s then .next s
  else
    let s := { s with hif := { s.hif with cfgReady := true }, dev := { s.dev with hubTag := s.mgc.tagStore + 1 },
                      err := { s.err with hbLast := tset s.err.hbLast 0 s.time.ftime } }
    if !pufOk then .next (safelight s 3)
    else match bootSlot s .hub with
      | none => .next (safelight s 1)
      | some b => match slotImage s .hub b with
        | none => .next (safelight s 1)
        | some m => .next (bootHub s b m)

/-- A core fails its self-test (R437): E_RESIDUE or E_PAD_UE, and a fence for this run. -/
def failCore (s : State) (c : Nat) : State :=
  let (n, s) := freeNow s
  let code : W16 := if Config.freeNat n % 2 = 0 then 0x0107 else 0x0106
  let x := raise s { code := code, sev := sevContained, unitType := uCore, unitId := BitVec.ofNat 16 c }
  let s := dropLatch x.st x.seq
  { s with dev := { s.dev with stFenced := setBit s.dev.stFenced c true } }

/-- A failure of the self-test not confined to a core raises its error (R437): E_MEM_UE of a stack or far part, or a record with no named
error, a free choice since the spec names no code (log 68). -/
def failOther (s : State) : State :=
  let (n, s) := freeNow s
  let code : W16 := if Config.freeNat n % 2 = 0 then 0x0202 else 0
  raiseDone s { code := code, sev := sevContained, unitType := uHub }

/-- Whether a tile has no unfenced core left. -/
def tileGone (s : State) (t : Nat) : Bool := (rangeFrom (16 * t) 16).all (isFenced s)

/-- SELF_TEST_COMPLETE (R437, R438): `bad` are the cores that failed, `otherFail` any failure not confined to a core. -/
def execSelfTestComplete (bad : W128) (otherFail : Bool) (s : State) : Host.Outcome State Fault Refusal :=
  if s.dev.stage ≠ 3 ∨ underReset s .device then .next s
  else
    let s := ((List.range 128).filter (bit bad)).foldl failCore s
    let s := if otherFail then failOther s else s
    if otherFail || (List.range 8).any (tileGone s) then .next (safelight s 4)
    else .next (trainPorts { s with dev := { s.dev with stage := 4 } })

/-! ## The governor (R11, R426, R427) -/

/-- Whether a tile's thermal decision may be taken now: at most once per second in isolation mode (R237, R427). -/
def mayDecide (s : State) (tile : Nat) : Bool :=
  !s.dev.isolate || (match tfind s.pwr.hotAt tile with | none => true | some t => decide (t + 1050000000 ≤ s.time.ftime))

/-- THERMAL_THROTTLE (R427). -/
def execThermalThrottle (tile : Nat) (hot : Bool) (s : State) : Host.Outcome State Fault Refusal :=
  if 8 ≤ tile then .fault .noSuchUnit
  else if mayDecide s tile then
    .next { s with pwr := { s.pwr with hotTiles := setBit s.pwr.hotTiles tile hot, hotAt := tset s.pwr.hotAt tile s.time.ftime } }
  else .next s

/-- The partitions that draw more than their share in isolation mode (R237). -/
def overShare (s : State) (own : List (BitVec 16)) : Byte :=
  (List.range 8).foldl (fun b p => if powerOf s p < (nth 0 own p).toNat then setBit b p true else b) 0

/-- The partitions the governor slows (R237, R426): all of them above the cap in force; in isolation mode those above their own shares. -/
def slowParts (s : State) (draw : BitVec 16) (own : List (BitVec 16)) : Byte :=
  if s.dev.isolate then overShare s own else if capInForce s * 10 < draw.toNat then 0xFF else 0

/-- GOVERNOR_EVALUATION (R11, R426): what the module and each partition would draw. The input is held at the cap in force: above it, or
while a tile is hot, a share of cycles that the spec does not state is withheld (log 105). -/
def execGovernorEvaluation (draw : PowerDraw) (s : State) : Host.Outcome State Fault Refusal :=
  if !hubRuns s then .next s
  else
    let slow := slowParts s draw.module draw.parts
    let s := { s with pwr := { s.pwr with input := BitVec.ofNat 16 (Nat.min draw.module.toNat (capInForce s * 10)), slow := slow } }
    if slow != 0 || s.pwr.hotTiles != 0 then
      let (n, s) := freeNow s
      .next { s with pwr := { s.pwr with throttle := BitVec.ofNat 8 (Config.freeNat n % 100 + 1) } }
    else .next { s with pwr := { s.pwr with throttle := 0 } }

/-! ## Power states of partitions (R291, R422 to R424) -/

/-- From when a partition has been quiet: its rings' last progress, its last milk-run pass, its last exposure or exit. -/
def quietSince (s : State) (p : Nat) : Nat :=
  let x := getPart s p
  (s.rings.filter (fun e => e.2.part.toNat == p && e.2.st != .off)).foldl (fun n e => Nat.max n e.2.moved) (Nat.max x.condSince x.milkLast)

/-- The P2 condition of R422, held for `t` ticks: no STARTED command, no exposure streaming, no milk-run pass, and no
admitted Timed command (R291). -/
def p2Cond (s : State) (p t : Nat) : Bool :=
  let x := getPart s p
  s.dev.stage == 4 && hubRuns s && x.st == .ready && !x.waking && !s.cmds.any (fun c => c.part == p && (c.started || c.timed)) &&
  !s.exps.any (fun e => e.part == p) && decide (quietSince s p + t ≤ s.time.ftime)

/-- The P3 condition of R422. -/
def p3Cond (s : State) (p : Nat) : Bool :=
  p2Cond s p 10500000 && !(List.range 64).any (fun j => (getJob s j).st == .active && (getJob s j).part.toNat == p) &&
  !s.sess.any (fun e => e.2.part.toNat == p && e.2.st != .free && (e.2.pstate == 1 || e.2.shadow))

/-- P2_ENTRY (R422). -/
def execP2Entry (p : Nat) (s : State) : Host.Outcome State Fault Refusal :=
  if 8 ≤ p then .fault .noSuchUnit
  else
    let x := getPart s p
    if x.pstate < 2 && decide (2 ≤ deepest x.tol) && p2Cond s p 105000 then .next (setPart s p { x with pstate := 2 }) else .next s

/-- P3_ENTRY (R422). -/
def execP3Entry (p : Nat) (s : State) : Host.Outcome State Fault Refusal :=
  if 8 ≤ p then .fault .noSuchUnit
  else
    let x := getPart s p
    if x.pstate == 2 && decide (3 ≤ deepest x.tol) && p3Cond s p then .next (setPart s p { x with pstate := 3 }) else .next s

/-- The enabled partitions. -/
def enabledParts (s : State) : List Nat := (List.range 8).filter (fun p => (getPart s p).enable)

/-- P4_ENTRY (R422): every enabled partition permits P4 and meets the P3 condition; the link enters L1.2. -/
def execP4Entry (s : State) : Host.Outcome State Fault Refusal :=
  let on := enabledParts s
  if !s.hif.inL12 && !on.isEmpty && on.all (fun p => (getPart s p).pstate == 3 && deepest (getPart s p).tol == 4 && p3Cond s p) then
    let s := on.foldl (fun s p => setPart s p { getPart s p with pstate := 4 }) s
    .next { s with hif := { s.hif with inL12 := true } }
  else .next s

/-- The cores of a partition pass through a core reset (R91, R423). -/
def wakeCores (s : State) (p : Nat) : State :=
  (partCores (getPart s p)).foldl (fun s c =>
    let s := resetCore s c
    let k := getCore s c
    setCore s c { k with run := .idle, ctx := none, errRec := 0, tag := k.tag + 1 }) s

/-- A partition has left P2 or a deeper state (R423, R424); the link leaves L1.2, and the others in P4 are in P3. -/
def wakeDone (s : State) (p : Nat) : State :=
  let s := wakeCores s p
  let s := setPart s p { getPart s p with pstate := 0, waking := false, condSince := s.time.ftime }
  if !s.hif.inL12 then s
  else
    let s := (enabledParts s).foldl (fun s q => let x := getPart s q; if x.pstate = 4 then setPart s q { x with pstate := 3 } else s) s
    { s with hif := { s.hif with inL12 := false }, pins := { s.pins with wakeN := true } }

/-- POWER_STATE_EXIT_COMPLETE (R424). -/
def execPowerStateExitComplete (p : Nat) (s : State) : Host.Outcome State Fault Refusal :=
  if 8 ≤ p then .fault .noSuchUnit
  else if (getPart s p).waking then .next (startLaunches (wakeDone s p)) else .next s

/-! ## The test access port (R459, R460) -/

/-- Load an instruction that needs test mode: outside it, BYPASS. -/
def loadTap (s : State) (i : TapIr) : State := { s with tap := { s.tap with ir := if s.tap.test then i else .bypass } }

/-- IDCODE (R459). -/
def execIdcode (s : State) : Host.Outcome State Fault Refusal := .next { s with tap := { s.tap with ir := .idcode } }

/-- BYPASS, and every opcode the port does not support (R459). -/
def execBypass (opcode : Byte) (s : State) : Host.Outcome State Fault Refusal :=
  if 1 ≤ opcode.toNat ∧ opcode.toNat ≤ 7 then .next s else .next { s with tap := { s.tap with ir := .bypass } }

/-- SAMPLE/PRELOAD (R459). -/
def execSamplePreload (s : State) : Host.Outcome State Fault Refusal := .next (loadTap s .sample)

/-- EXTEST (R459). -/
def execExtest (s : State) : Host.Outcome State Fault Refusal := .next (loadTap s .extest)

/-- CLAMP (R459). -/
def execClamp (s : State) : Host.Outcome State Fault Refusal := .next (loadTap s .clamp)

/-- HIGHZ (R459). -/
def execHighz (s : State) : Host.Outcome State Fault Refusal := .next (loadTap s .highz)

/-- EXTEST_PULSE (R459). -/
def execExtestPulse (s : State) : Host.Outcome State Fault Refusal := .next (loadTap s .pulse)

/-- EXTEST_TRAIN (R459). -/
def execExtestTrain (s : State) : Host.Outcome State Fault Refusal := .next (loadTap s .train)

/-- The word the identification register shifts out (R459). -/
def idcodeWord : W32 := 0x19812FF7

end Sys2Proof.Machine
end

