-- ==== Sys2Proof/Machine/Registers.lean ====
section
/-! DEFINITION. BAR0 (R8, R9, R464 to R474): the map of registers, what each reads as, and a write at any offset; and the
register writes that have rows of their own. -/

namespace Sys2Proof.Machine

open Sys2Proof

/-- The registers of BAR0 (R470 to R473). -/
inductive Reg where
  | devIdent | devSerial | devFw | devSvn | devCfgSeq | devStatus | devFenced | devLanes | devFrames | devParked | partMode
  | partCfg (n : Nat) | srvCfg (n : Nat)
  | hifLink | hifCtrl | funcPart (n : Nat) | dbOwner (i : Nat) | ring (r : Nat)
  | errSel | errProd | errCons | errLost | errIrq | errInject | errFenced | errHb (k : Nat) | checkCfg (n : Nat) | progCfg (n : Nat)
  | csSel | csDir (k : Nat)
  | pwrCap | pwrStatus | pwrInputs | pwrStcfg | pwrTol (n : Nat)
  | fabPort (p : Nat) | fabRetry (p : Nat) | fabTime | fabTstate | fabEpid (n : Nat) | staleDrops | stopDupes | fabJob (j : Nat)
  | sepCount (n c : Nat)
  | secSlot (k : Nat) | secRetire | mbCtrl | mbRlen
  | jnlSel | jnlFirst | jnlNext | jnlWritten
  | mgcCmd | mgcArg | mgcStatus
  deriving DecidableEq, Repr

/-- Offset of a register (R471, R473). -/
def regBase (r : Reg) : Nat :=
  match r with
  | .devIdent => 0 | .devSerial => 8 | .devFw => 0x10 | .devSvn => 0x18 | .devCfgSeq => 0x20 | .devStatus => 0x100 | .devFenced => 0x110
  | .devLanes => 0x120 | .devFrames => 0x128 | .devParked => 0x130 | .partMode => 0x200 | .partCfg n => 0x400 + 16 * n | .srvCfg n => 0x800 + 16 * n
  | .hifLink => 0x10000 | .hifCtrl => 0x10004 | .funcPart n => 0x10100 + 4 * n | .dbOwner i => 0x11000 + 4 * i | .ring r => 0x100000 + 32 * r
  | .errSel => 0x300000 | .errProd => 0x300008 | .errCons => 0x300010 | .errLost => 0x300018 | .errIrq => 0x300020 | .errInject => 0x300028
  | .errFenced => 0x300030 | .errHb k => 0x300040 + 8 * k | .checkCfg n => 0x300100 + 16 * n | .progCfg n => 0x300200 + 16 * n
  | .csSel => 0x300300 | .csDir k => 0x300400 + 8 * k
  | .pwrCap => 0x310000 | .pwrStatus => 0x310008 | .pwrInputs => 0x310010 | .pwrStcfg => 0x310018 | .pwrTol n => 0x310100 + 8 * n
  | .fabPort p => 0x320000 + 16 * p | .fabRetry p => 0x320008 + 16 * p | .fabTime => 0x320100 | .fabTstate => 0x320108
  | .fabEpid n => 0x320200 + 4 * n | .staleDrops => 0x320300 | .stopDupes => 0x320308 | .fabJob j => 0x321000 + 16 * j
  | .sepCount n c => 0x324000 + 64 * n + 8 * c
  | .secSlot k => 0x330000 + 8 * k | .secRetire => 0x330200 | .mbCtrl => 0x330400 | .mbRlen => 0x330408
  | .jnlSel => 0x340000 | .jnlFirst => 0x340008 | .jnlNext => 0x340010 | .jnlWritten => 0x340018
  | .mgcCmd => 0x350000 | .mgcArg => 0x350008 | .mgcStatus => 0x350010

/-- Width of a register in bits (R471, R473). -/
def regSize (r : Reg) : Nat :=
  match r with
  | .devIdent => 32 | .devCfgSeq => 32 | .devStatus => 32 | .devParked => 32 | .partMode => 32 | .hifLink => 32 | .hifCtrl => 32
  | .funcPart _ => 32 | .dbOwner _ => 32 | .pwrCap => 32 | .pwrInputs => 32 | .pwrStcfg => 32 | .fabEpid _ => 32 | .secRetire => 32
  | .mbCtrl => 32 | .mbRlen => 32 | .mgcCmd => 32
  | .devFenced => 128 | .partCfg _ => 128 | .srvCfg _ => 128 | .errFenced => 128 | .checkCfg _ => 128 | .progCfg _ => 128 | .fabJob _ => 128
  | .ring _ => 256
  | _ => 64

/-- Register `k` of an array of `n` registers of `b` bytes from `lo` on that covers offset `o`. -/
def inArray (o lo n b : Nat) : Option Nat := if lo ≤ o ∧ o < lo + n * b then some ((o - lo) / b) else none

/-- Whether a register covers the 32 bits at offset `o`. -/
def regCovers (o : Nat) (r : Reg) : Bool := decide (regBase r ≤ o) && decide (o < regBase r + regSize r / 8)

/-- The single registers, block by block. -/
def singles : List Reg :=
  [.devIdent, .devSerial, .devFw, .devSvn, .devCfgSeq, .devStatus, .devFenced, .devLanes, .devFrames, .devParked, .partMode] ++
  [.hifLink, .hifCtrl] ++ [.errSel, .errProd, .errCons, .errLost, .errIrq, .errInject, .errFenced, .csSel] ++
  [.pwrCap, .pwrStatus, .pwrInputs, .pwrStcfg] ++ [.fabTime, .fabTstate, .staleDrops, .stopDupes] ++ [.secRetire, .mbCtrl, .mbRlen] ++
  [.jnlSel, .jnlFirst, .jnlNext, .jnlWritten] ++ [.mgcCmd, .mgcArg, .mgcStatus]

/-- The arrays of registers. -/
def arrays (o : Nat) : List (Option Reg) :=
  [(inArray o 0x400 8 16).map Reg.partCfg, (inArray o 0x800 8 16).map Reg.srvCfg,
   (inArray o 0x10104 63 4).map (fun n => Reg.funcPart (n + 1)), (inArray o 0x11000 512 4).map Reg.dbOwner,
   (inArray o 0x100000 32768 32).map Reg.ring] ++
  [(inArray o 0x300040 9 8).map Reg.errHb, (inArray o 0x300100 8 16).map Reg.checkCfg, (inArray o 0x300200 8 16).map Reg.progCfg,
   (inArray o 0x300400 32 8).map Reg.csDir, (inArray o 0x310100 8 8).map Reg.pwrTol] ++
  [(inArray o 0x320000 6 16).map (fun p => if o % 16 < 8 then Reg.fabPort p else Reg.fabRetry p), (inArray o 0x320200 8 4).map Reg.fabEpid,
   (inArray o 0x321000 64 16).map Reg.fabJob,
   (inArray o 0x324000 8 64).bind (fun n => if o % 64 < 40 then some (Reg.sepCount n (o % 64 / 8)) else none),
   (inArray o 0x330000 64 8).map Reg.secSlot]

/-- The register that covers the 32 bits at offset `o`, if there is one (R9). -/
def regAt (o : Nat) : Option Reg := (singles.find? (regCovers o)).orElse (fun _ => (arrays o).findSome? id)

/-- Registers that PF0 alone writes (R244, R292, R339, R418, and the PWR block but for PWR_CAP, R426). -/
def pf0Only (r : Reg) : Bool :=
  match r with
  | .srvCfg _ => true
  | .pwrCap => false
  | r => let b := regBase r; (decide (0x10000 ≤ b) && decide (b < 0x20000)) || (decide (0x300000 ≤ b) && decide (b < 0x320000)) || decide (0x350000 ≤ b)

/-! ## What a register reads as -/

/-- Ends of the self-test parts in ms, from the start of the self-test (R436). -/
def partEnds (fast : Bool) : List Nat := if fast then [300, 600, 1200] else [1600, 3000, 7000]

/-- ST_PART: the self-test part in progress, 1 to 4, and 0 outside the self-test (R436, R439). -/
def stPart (s : State) : Nat :=
  if s.dev.stage = 3 then
    1 + ((partEnds s.dev.fast).filter (fun e => decide (e * 1050000 ≤ s.time.ftime - s.dev.stAt))).length
  else 0

/-- DEV_STATUS (R439). -/
def devStatus (s : State) : Nat :=
  fld s.dev.stage.toNat 4 28 + fld s.dev.slCause.toNat 8 16 + fld (stPart s) 8 8 + b2n s.dev.fast

/-- The five Separator counters of a partition (R216). -/
def sepCounter (x : Part) (c : Nat) : Nat :=
  match c with | 0 => x.stale | 1 => x.movedCh | 2 => x.droppedCh | 3 => x.passedRows | _ => x.zeroExp

/-- The value of a register; a write-only register reads zero (R7). -/
def regRead (s : State) (r : Reg) : Nat :=
  match r with
  | .devIdent => 0x98121000
  | .devSerial => s.dev.serial.toNat
  | .devFw => s.dev.fwVersion.toNat
  | .devSvn => (s.mgc.mgcSvn.toNat <<< 32) + s.mgc.hubSvn.toNat
  | .devCfgSeq => s.mgc.cfgSeq.toNat
  | .devStatus => devStatus s
  | .devFenced => (fenced s).toNat
  | .devLanes => (s.dev.laneCfg ||| s.dev.laneLost).toNat
  | .devFrames => fld (s.dev.withdrawn.filter (fun f => (getFrame s f).st == 0)).length 32 32 + fld ((List.range 8).map reservedFrames).sum 32 0
  | .devParked => fld s.dev.parked 18 0
  | .partMode => b2n s.dev.isolate
  | .partCfg n => partWord (getPart s n)
  | .srvCfg n => srvWord (getPart s n)
  | .hifLink => Machine.hifLink s
  | .hifCtrl => Machine.hifCtrl s
  | .funcPart n => funcPartWord s n
  | .dbOwner i => dbOwnerWord s i
  | .ring r => ringWord (getRing s r)
  | .errSel => s.err.qSel.toNat
  | .errProd => queueReg s (fun q => q.prod % 2 ^ 32)
  | .errCons => queueReg s (fun q => q.cons % 2 ^ 32)
  | .errLost => queueReg s (fun q => q.lost % 2 ^ 64)
  | .errIrq => errIrqWord s
  | .errInject => 0
  | .errFenced => s.dev.quar.toNat
  | .errHb k => hbWord s k
  | .checkCfg n => checkWord (getPart s n)
  | .progCfg n => progWord (getPart s n)
  | .csSel => csSelWord s
  | .csDir k => (tget {} (getPart s s.err.csPart.toNat).sheets k).cause
  | .pwrCap => s.pwr.cap.toNat
  | .pwrStatus => Machine.pwrStatus s
  | .pwrInputs => Machine.pwrInputs s
  | .pwrStcfg => b2n s.pwr.stcfg
  | .pwrTol n => tolWord s n
  | .fabPort p => portWord s p
  | .fabRetry p => (getPort s p).retry % 2 ^ 64
  | .fabTime => s.time.ftime % 2 ^ 64
  | .fabTstate => tstateWord s
  | .fabEpid n => epidWord (getPart s n)
  | .staleDrops => s.fab.stale % 2 ^ 64
  | .stopDupes => s.fab.dupes % 2 ^ 64
  | .fabJob j => jobWord (getJob s j)
  | .sepCount n c => sepCounter (getPart s n) c % 2 ^ 64
  | .secSlot k => keyWord (getKey s k)
  | .secRetire => 0
  | .mbCtrl => Machine.mbCtrl s
  | .mbRlen => s.sec.rlen.toNat
  | .jnlSel => s.jnlSel.toNat
  | .jnlFirst => s.jnlFirst.toNat
  | .jnlNext => nextSeq (getRing s s.jnlSel.toNat) % 2 ^ 64
  | .jnlWritten => (getRing s s.jnlSel.toNat).written % 2 ^ 32
  | .mgcCmd => fld (b2n s.mgc.busy) 1 30 + fld (b2n s.mgc.done) 1 29 + s.mgc.cmd.toNat
  | .mgcArg => s.mgc.arg.toNat
  | .mgcStatus => s.mgc.status.toNat

/-- The four bytes of a window at offset `o` (R267, R339, R369, R415, R418). -/
def windowRead (s : State) (o : Nat) : Nat :=
  if 0x301000 ≤ o ∧ o < 0x302000 then
    leNat (mreadN (tget {} (getPart s s.err.csPart.toNat).sheets s.err.csSlot.toNat).data (s.err.csPage.toNat * 4096 + (o - 0x301000)) 4)
  else if 0x308000 ≤ o ∧ o < 0x310000 then
    nbits (queueSlot s ((o - 0x308000) / 128)) (o % 128 * 8 + 31) (o % 128 * 8)
  else if 0x331000 ≤ o ∧ o < 0x332000 then leNat (mreadN s.sec.req (o - 0x331000) 4)
  else if 0x332000 ≤ o ∧ o < 0x333000 then leNat (mreadN s.sec.rsp (o - 0x332000) 4)
  else if 0x341000 ≤ o ∧ o < 0x342000 then
    leNat (((jShow (getRing s s.jnlSel.toNat) (s.jnlFirst.toNat + (o - 0x341000) / 64)).drop (o % 64)).take 4)
  else if 0x358000 ≤ o ∧ o < 0x360000 then leNat (mreadN s.mgc.data (o - 0x358000) 4)
  else 0

/-- The 32 bits at offset `o` (R9, R467). -/
def readDword (s : State) (o : Nat) : Nat :=
  match regAt o with
  | some r => nbits (regRead s r) (8 * (o - regBase r) + 31) (8 * (o - regBase r))
  | none => windowRead s o

/-- Whether an access is 32 or 64 bits wide, aligned and inside BAR0 (R242, R465). -/
def accessOk (off width : Nat) : Bool := (width == 32 || width == 64) && off % (width / 8) == 0 && decide (off + width / 8 ≤ 67108864)

/-- What a read of BAR0 returns (R464 to R467). -/
def readReg (s : State) (off width : Nat) : Nat :=
  if !(barUp s && accessOk off width) then 0
  else if width = 32 then readDword s off else readDword s off + readDword s (off + 4) * 2 ^ 32

/-! ## What a write does -/

/-- A GO write of the MGC mailbox by its command code (R418); reserved codes end with no effect. -/
def runMailbox (s : State) (cmd : Nat) : State :=
  match cmd with
  | 1 => mbStageWrite s | 2 => mbStageVerify s | 3 => mbCommit s | 4 => mbEnrol s | 5 => mbReadCper s | 6 => mbReset s | 7 => mbPrefer s
  | n => mailboxDone (s, s.mgc.status) (BitVec.ofNat 8 n)

/-- Write MGC_CMD (R418, R469). -/
def writeMgcCmd (s : State) (v : Nat) : State :=
  let s := { s with mgc := { s.mgc with done := s.mgc.done && !(nbits v 29 29 == 1), cmd := BitVec.ofNat 8 (nbits v 7 0) } }
  if nbits v 31 31 = 1 then runMailbox s (nbits v 7 0) else s

/-- Apply a whole value to a register; a read-only register ignores it (R7). -/
def regWrite (r : Reg) (s : State) (v : Nat) : State :=
  match r with
  | .partMode => writeMode s v
  | .partCfg n => commitPart n s v
  | .srvCfg n => writeSrv n s v
  | .hifCtrl => writeHifCtrl s v
  | .funcPart n => writeFuncPart n s v
  | .dbOwner i => writeDbOwner i s v
  | .ring r => commitRing r s v
  | .errSel => writeErrSel s v
  | .errCons => writeCons s v
  | .errIrq => writeErrIrq s v
  | .errInject => armInjection s v
  | .checkCfg n => writeCheck n s v
  | .progCfg n => writeProg n s v
  | .csSel => writeCsSel s v
  | .pwrCap => writeCap s v
  | .pwrStcfg => { s with pwr := { s.pwr with stcfg := nbits v 0 0 == 1 } }
  | .pwrTol n => setTol s n (nbits v 19 0)
  | .fabPort p => writePort p s v
  | .fabEpid n => writeEpid n s v
  | .fabJob j => commitJob j s v
  | .secSlot k => writeKeySlot k s v
  | .secRetire => writeRetire s v
  | .mbCtrl => writeMbCtrl s v
  | .jnlSel => { s with jnlSel := BitVec.ofNat 15 (nbits v 14 0) }
  | .jnlFirst => { s with jnlFirst := BitVec.ofNat 64 v }
  | .mgcCmd => writeMgcCmd s v
  | .mgcArg => { s with mgc := { s.mgc with arg := BitVec.ofNat 64 v } }
  | .devIdent => s | .devSerial => s | .devFw => s | .devSvn => s | .devCfgSeq => s | .devStatus => s | .devFenced => s | .devLanes => s
  | .devFrames => s | .devParked => s | .hifLink => s | .errProd => s | .errLost => s | .errFenced => s | .errHb _ => s | .csDir _ => s
  | .pwrStatus => s | .pwrInputs => s | .fabRetry _ => s | .fabTime => s | .fabTstate => s | .staleDrops => s | .stopDupes => s
  | .sepCount _ _ => s | .mbRlen => s | .jnlNext => s | .jnlWritten => s | .mgcStatus => s

/-- The reset value of a wide register, from which a staging copy starts (R466). -/
def wideReset (r : Reg) : Nat :=
  match r with
  | .srvCfg _ => srvWord {} | .checkCfg _ => checkWord {} | .progCfg _ => progWord {} | .fabJob _ => jobWord {} | _ => 0

/-- Write the 32 bits of a window (R415, R418). -/
def windowWrite (s : State) (w : Writer) (o v : Nat) : State :=
  if 0x331000 ≤ o ∧ o < 0x332000 then { s with sec := { s.sec with req := mwriteN s.sec.req (o - 0x331000) (natLE 4 v) } }
  else if 0x358000 ≤ o ∧ o < 0x360000 ∧ w = .pf0 then { s with mgc := { s.mgc with data := mwriteN s.mgc.data (o - 0x358000) (natLE 4 v) } }
  else s

/-- Write `n` bytes at offset `o`, all inside one register (R465, R466): half of a 64-bit register keeps the other half. -/
def writePiece (s : State) (w : Writer) (o n v : Nat) : State :=
  match regAt o with
  | none => windowWrite s w o v
  | some r =>
    let off := 8 * (o - regBase r)
    if w == .mgc && pf0Only r then s
    else if 64 < regSize r then wideWrite s w (regBase r) (regSize r) (wideReset r) off (8 * n) v (regWrite r) (fun s => regRead s r)
    else regWrite r s (if 8 * n = regSize r then v else putBits (regRead s r) off (8 * n) v)

/-- A write at an offset of BAR0 (R464 to R468): a 64-bit access covers one wider register, or the two 32-bit words. -/
def writeReg (s : State) (w : Writer) (off width v : Nat) : State :=
  if !(barUp s && accessOk off width) then s
  else if width = 32 then writePiece s w off 4 (v % 2 ^ 32)
  else if (match regAt off with | some r => decide (off + 8 ≤ regBase r + regSize r / 8) | none => false) then writePiece s w off 8 v
  else writePiece (writePiece s w off 4 (v % 2 ^ 32)) w (off + 4) 4 (v / 2 ^ 32)

/-- REGISTER_WRITE (R466). -/
def execRegisterWrite (w : Writer) (off width : Nat) (v : W64) (s : State) : Host.Outcome State Fault Refusal :=
  .next (writeReg s w off width v.toNat)

/-! ## Register writes with rows of their own -/

/-- PWR_CAP_WRITE (R11, R426): PF0 and the MGC write alike. -/
def execPwrCapWrite (_w : Writer) (v : W32) (s : State) : Host.Outcome State Fault Refusal := .next (if barUp s then writeCap s v.toNat else s)

/-- PWR_TOL_WRITE (R284, R425). -/
def execPwrTolWrite (w : Writer) (p : Nat) (v : W64) (s : State) : Host.Outcome State Fault Refusal :=
  if 8 ≤ p then .fault .noSuchUnit else .next (if barUp s && w == .pf0 then setTol s p (bits v 19 0) else s)

/-- FAB_PORT_WRITE (R310). -/
def execFabPortWrite (_w : Writer) (p : Nat) (v : W64) (s : State) : Host.Outcome State Fault Refusal :=
  if 6 ≤ p then .fault .noSuchUnit else .next (if barUp s then writePort p s v.toNat else s)

/-- A write to the top of FAB_JOB. -/
def jobTopWrite (s : State) (w : Writer) (j : Nat) (wide : Bool) (v : W64) : State :=
  if !barUp s then s
  else wideWrite s w (0x321000 + 16 * j) 128 (jobWord {}) (topOff 128 wide) (topWidth wide) v.toNat (commitJob j) (fun s => jobWord (getJob s j))

/-- JOB_FORM (R327). -/
def execJobForm (w : Writer) (j : Nat) (wide : Bool) (v : W64) (s : State) : Host.Outcome State Fault Refusal :=
  if 64 ≤ j then .fault .noSuchUnit else .next (jobTopWrite s w j wide v)

/-- JOB_END (R326). -/
def execJobEnd (w : Writer) (j : Nat) (wide : Bool) (v : W64) (s : State) : Host.Outcome State Fault Refusal :=
  if 64 ≤ j then .fault .noSuchUnit else .next (jobTopWrite s w j wide v)

/-- KEY_RETIRE (R232): PF0 and the MGC write alike. -/
def execKeyRetire (_w : Writer) (v : W32) (s : State) : Host.Outcome State Fault Refusal := .next (if barUp s then writeRetire s v.toNat else s)

/-- ERR_Q_CONS_WRITE (R339). -/
def execErrQConsWrite (w : Writer) (v : W32) (s : State) : Host.Outcome State Fault Refusal :=
  .next (if barUp s && w == .pf0 then writeCons s v.toNat else s)

/-- A write of ERR_INJECT of kind `k` (R357). -/
def injectWrite (k : Nat) (w : Writer) (v : W64) (s : State) : State :=
  if barUp s && w == .pf0 && bits v 63 60 == k then armInjection s v.toNat else s

/-- INJECT_PAD_SYMBOLS (R357). -/
def execInjectPadSymbols (w : Writer) (v : W64) (s : State) : Host.Outcome State Fault Refusal := .next (injectWrite 1 w v s)

/-- INJECT_RESIDUE (R357). -/
def execInjectResidue (w : Writer) (v : W64) (s : State) : Host.Outcome State Fault Refusal := .next (injectWrite 2 w v s)

/-- INJECT_MEMORY_SYMBOLS (R357). -/
def execInjectMemorySymbols (w : Writer) (v : W64) (s : State) : Host.Outcome State Fault Refusal := .next (injectWrite 3 w v s)

/-- INJECT_FLIT_CRC (R357). -/
def execInjectFlitCrc (w : Writer) (v : W64) (s : State) : Host.Outcome State Fault Refusal := .next (injectWrite 4 w v s)

/-- INJECT_FORCE_PROOF (R357). -/
def execInjectForceProof (w : Writer) (v : W64) (s : State) : Host.Outcome State Fault Refusal := .next (injectWrite 5 w v s)

/-- INJECT_SHARE_DIGEST (R357). -/
def execInjectShareDigest (w : Writer) (v : W64) (s : State) : Host.Outcome State Fault Refusal := .next (injectWrite 6 w v s)

end Sys2Proof.Machine
end

