-- ==== Sys2Proof/Machine/Spdm.lean ====
section
/-! DEFINITION. The SPDM responder (R413 to R415, R233): versions, certificates, measurements, sessions, IDE key
management and the loading of tenant keys. -/

namespace Sys2Proof.Machine

open Sys2Proof

/-! ## Transports -/

/-- Whether a request on a transport reaches the responder: firmware runs, the function exists, and the SEC mailbox holds
a request (R413, R415). -/
def spdmOpen (s : State) (t : SpdmPort) : Bool :=
  barUp s && s.mgc.hubRun.isSome &&
  (match t with
   | .doe fn => decide (fn < 64) && (fn == 0 || s.hif.vfEnable)
   | .mctp => true
   | .mailbox => s.sec.busy)

/-- Send a response: into SEC_MB_RSP for the mailbox (R415), else to the transport. -/
def respond (s : State) (t : SpdmPort) (body : List Byte) : State :=
  match t with
  | .mailbox => { s with sec := { s.sec with busy := false, done := true, rlen := BitVec.ofNat 16 body.length, rsp := mwriteN [] 0 (body.take 4096) } }
  | _ => { s with sec := { s.sec with answers := s.sec.answers ++ [(t, body)] } }

/-- A response message of version 1.4 with a response code and its data (log 42). -/
def spdmMsg (code : Byte) (d : List Byte) : List Byte := 0x14 :: code :: d

/-- An SPDM error response. -/
def spdmErr (e : Byte) : List Byte := spdmMsg 0x7F [e]

/-- SPDM error codes: InvalidRequest, Busy, UnexpectedRequest. -/
def eInvalid : Byte := 0x01
/-- Busy. -/
def eBusy : Byte := 0x03
/-- UnexpectedRequest. -/
def eUnexpected : Byte := 0x04

/-- A request that needs an earlier negotiation on its transport: its answer, or UnexpectedRequest (log 42). -/
def negotiated (s : State) (t : SpdmPort) (f : State → State) : State :=
  if s.sec.negotiated.contains t then f s else respond s t (spdmErr eUnexpected)

/-- The function a transport's requests come from: the SEC mailbox is PF0's, and MCTP is of no function (R414, R415). -/
def functionOf (t : SpdmPort) : Option Nat := match t with | .doe fn => some fn | .mailbox => some 0 | .mctp => none

/-- Whether a requester is a VF of a partition (R244, R414). -/
def vfOf (s : State) (t : SpdmPort) (p : Nat) : Bool :=
  match functionOf t with
  | none => false
  | some fn => fn != 0 && boundTo s fn p

/-- The VF a transport belongs to, if it is a VF's. -/
def vfPart (s : State) (t : SpdmPort) : Option (Option Nat) :=
  match functionOf t with
  | none => none
  | some 0 => none
  | some fn => let b := tget (false, 0) s.hif.funcPart fn; some (if b.1 then some b.2.toNat else none)

/-! ## Version, capabilities, algorithms, certificates -/

/-- GET_VERSION (R413): version 1.4; the negotiation of the transport starts anew. -/
def execGetVersion (t : SpdmPort) (s : State) : Host.Outcome State Fault Refusal :=
  if !spdmOpen s t then .next s
  else
    let s := { s with sec := { s.sec with versioned := t :: s.sec.versioned.filter (fun x => x != t),
                                          negotiated := s.sec.negotiated.filter (fun x => x != t) } }
    .next (respond s t (spdmMsg 0x04 [0x00, 0x14]))

/-- GET_CAPABILITIES (R413). -/
def execGetCapabilities (t : SpdmPort) (s : State) : Host.Outcome State Fault Refusal :=
  if !spdmOpen s t then .next s
  else if s.sec.versioned.contains t then .next (respond s t (spdmMsg 0x61 []))
  else .next (respond s t (spdmErr eUnexpected))

/-- NEGOTIATE_ALGORITHMS (R413): ML-DSA-44, ML-KEM-768, AES-256-GCM and SHA3-256. -/
def execNegotiateAlgorithms (t : SpdmPort) (s : State) : Host.Outcome State Fault Refusal :=
  if !spdmOpen s t then .next s
  else if s.sec.versioned.contains t then
    let s := { s with sec := { s.sec with negotiated := t :: s.sec.negotiated.filter (fun x => x != t) } }
    .next (respond s t (spdmMsg 0x63 []))
  else .next (respond s t (spdmErr eUnexpected))

/-- The Alias chain of slot 0 (R410, R413). -/
def aliasChain (s : State) : List Byte := s.mgc.devCert ++ Config.aliasCert s.mgc.aliasSeed

/-- GET_DIGESTS (R413). -/
def execGetDigests (t : SpdmPort) (s : State) : Host.Outcome State Fault Refusal :=
  if !spdmOpen s t then .next s
  else .next (negotiated s t (fun s => respond s t (spdmMsg 0x01 (sha3 (aliasChain s)))))

/-- GET_CERTIFICATE (R413), for slot 0. -/
def execGetCertificate (t : SpdmPort) (slot : Nat) (s : State) : Host.Outcome State Fault Refusal :=
  if !spdmOpen s t then .next s
  else .next (negotiated s t (fun s => respond s t (if slot = 0 then spdmMsg 0x02 (aliasChain s) else spdmErr eInvalid)))

/-- CHALLENGE (R413): the Alias key signs the nonce and the digest of its chain. -/
def execChallenge (t : SpdmPort) (nonce : W256) (s : State) : Host.Outcome State Fault Refusal :=
  if !spdmOpen s t then .next s
  else .next (negotiated s t (fun s =>
    let d := sha3 (aliasChain s)
    respond s t (spdmMsg 0x03 (d ++ Config.mlDsaSign s.mgc.aliasSeed (natLE 32 nonce.toNat ++ d)))))

/-! ## Measurements (R412, R414) -/

/-- The partition whose measurements 6 and 7 a request sees (R414): a VF's own, else the one it names. -/
def measuredPart (s : State) (t : SpdmPort) (p : Nat) : Option Nat :=
  match vfPart s t with
  | some x => x
  | none => if p < 8 then some p else none

/-- GET_MEASUREMENTS (R412, R414). -/
def execGetMeasurements (t : SpdmPort) (p index : Nat) (s : State) : Host.Outcome State Fault Refusal :=
  if !spdmOpen s t then .next s
  else .next (negotiated s t (fun s =>
    let m := if index = 0 ∨ 7 < index then none
             else if index ≤ 5 then some (measurement s 0 index)
             else (measuredPart s t p).map (fun p => measurement s p index)
    match m with
    | none => respond s t (spdmErr eInvalid)
    | some d => let b := natLE 32 d.toNat; respond s t (spdmMsg 0x60 (b ++ Config.mlDsaSign s.mgc.aliasSeed b))))

/-! ## Sessions (R413, R414) -/

/-- The open sessions of a transport's function (R414). -/
def sessionsOf (s : State) (t : SpdmPort) : List SpdmSess := s.sec.sess.filter (fun x => functionOf x.port == functionOf t)

/-- A session of a transport. -/
def sessOn (s : State) (t : SpdmPort) (sid : Nat) : Option SpdmSess := s.sec.sess.find? (fun x => x.port == t && x.sid == sid)

/-- Whether a request comes within a secure session. -/
def secure (s : State) (t : SpdmPort) (sid : Nat) : Bool := match sessOn s t sid with | some x => x.done | none => false

/-- KEY_EXCHANGE (R413, R414): a ninth session of a function is answered Busy. -/
def execKeyExchange (t : SpdmPort) (s : State) : Host.Outcome State Fault Refusal :=
  if !spdmOpen s t then .next s
  else .next (negotiated s t (fun s =>
    if 8 ≤ (sessionsOf s t).length then respond s t (spdmErr eBusy)
    else
      let n := s.sec.nextSid
      let (k, s) := freeNow s
      let s := { s with sec := { s.sec with sess := s.sec.sess ++ [⟨t, n, false⟩], nextSid := n + 1 } }
      respond s t (spdmMsg 0x64 (natLE 4 n ++ Config.mlKemShare k))))

/-- FINISH (R413): the session is secure from here on. -/
def execFinish (t : SpdmPort) (sid : Nat) (s : State) : Host.Outcome State Fault Refusal :=
  if !spdmOpen s t then .next s
  else match sessOn s t sid with
    | none => .next (respond s t (spdmErr eUnexpected))
    | some _ =>
      let s := { s with sec := { s.sec with sess := updAll (fun x => x.port == t && x.sid == sid) (fun x => { x with done := true }) s.sec.sess } }
      .next (respond s t (spdmMsg 0x65 []))

/-- END_SESSION (R413). -/
def execEndSession (t : SpdmPort) (sid : Nat) (s : State) : Host.Outcome State Fault Refusal :=
  if !spdmOpen s t then .next s
  else if secure s t sid then
    let s := { s with sec := { s.sec with sess := s.sec.sess.filter (fun x => !(x.port == t && x.sid == sid)) } }
    .next (respond s t (spdmMsg 0x6C []))
  else .next (respond s t (spdmErr eUnexpected))

/-- HEARTBEAT (R413). -/
def execHeartbeat (t : SpdmPort) (sid : Nat) (s : State) : Host.Outcome State Fault Refusal :=
  if !spdmOpen s t then .next s
  else .next (respond s t (if secure s t sid then spdmMsg 0x68 [] else spdmErr eUnexpected))

/-! ## IDE key management and key loading (R233, R415) -/

/-- VENDOR_DEFINED_REQUEST for IDE_KM (R233, R413): the stream of a partition becomes Secure, or stops. A VF names its
own partition's stream. -/
def execVendorDefinedRequest (t : SpdmPort) (sid p : Nat) (km : IdeKm) (s : State) : Host.Outcome State Fault Refusal :=
  if 8 ≤ p then .fault .noSuchUnit
  else if !spdmOpen s t then .next s
  else if !secure s t sid then .next (respond s t (spdmErr eUnexpected))
  else if (vfPart s t).isSome && !vfOf s t p then .next (respond s t (spdmErr eInvalid))
  else
    let s := match km with
      | .keyGo => { s with hif := { s.hif with ide := tset s.hif.ide p true } }
      | .keyStop => loseIde s p
    .next (respond s t (spdmMsg 0x7E [0]))

/-- The status of a KEY_LOAD (R415): 0x03 no secure session, 0x02 not permitted, 0x01 slot not empty, 0x00 loaded. -/
def keyStatus (s : State) (t : SpdmPort) (sid k : Nat) : Byte :=
  let x := getKey s k
  if !secure s t sid then 0x03
  else if 64 ≤ k || !(functionOf t == some 0 || (x.pv && vfOf s t x.part.toNat)) then 0x02
  else if x.st != .empty then 0x01
  else 0x00

/-- KEY_LOAD (R230, R415). -/
def execKeyLoad (t : SpdmPort) (sid k : Nat) (key : W512) (s : State) : Host.Outcome State Fault Refusal :=
  if !spdmOpen s t then .next s
  else
    let st := keyStatus s t sid k
    let s := if st == 0x00 then setKey s k { getKey s k with st := .active, key := key } else s
    .next (respond s t (spdmMsg 0x7E [st]))

end Sys2Proof.Machine
end

