-- ==== Sys2Proof/Machine/Sy.lean ====
section
/-! DEFINITION. The meanings of the SY class (R81, R131 to R136): slot definitions, bank maps, marks and waits,
queries, and the fence. -/

namespace Sys2Proof.Machine

open Sys2Proof

/-- The entry a SLOT writes (R71, R131): EMPTY, with the keeper of a retained slot (R90). -/
def slotEntryOf (k : Core) (o : SlotArgs) : SlotEntry :=
  { retain := o.retain, st := .empty, owner := 7, consumers := o.consumers, producer := o.producer, rowCount := o.rowCount,
    firstRow := o.firstRow, bankCount := o.bankCount, firstBank := o.firstBank,
    keeper := if o.retain then k.ctx.map (fun x => (x.part, x.pset)) else none }

/-- The slot use that a SLOT or SCLR record names. -/
def slotNamed (pad slot : Nat) (acc : Access) : SlotUse := { pad := pad, slot := slot, acc := acc, flag := false, r0 := 0, n := 0 }

/-- A change of a slot by the Sequencer at the end of this cycle. -/
def slotChange (s : State) (c : Nat) (e : FlightEv) : State :=
  let k := getCore s c
  addFlight s c { eng := 0, addr := k.pc, due := k.cyc, evs := [(k.cyc, e)] }

/-- SLOT (R72, R131): the entry changes at the end of its cycle; a slot that is not EMPTY stops the core. -/
def slotAct (c : Nat) (o : SlotArgs) (s : State) : State :=
  let k := getCore s c
  let pad := o.pad.toNat
  let n := o.slot.toNat
  if (slotOf k pad n).st = .empty then goOn c (slotChange s c (.define pad n (slotEntryOf k o)))
  else stopNow s c 0 k.pc [slotRec s c k.pc 0 (slotNamed pad n .write) 5]

/-- SLOT (R131). -/
def execSlot (c : Nat) (h : Hdr) (o : SlotArgs) (s : State) : Host.Outcome State Fault Refusal :=
  seqRow s c (.slot c h o) h [] (fun _ => true) (slotAct c o)

/-- BMAP writes one or two maps (R69, R132). -/
def bmapAct (c : Nat) (o : BmapArgs) (s : State) : State :=
  let k := getCore s c
  let m := tset k.maps o.port0.toNat o.map0
  let m := if o.v1 then tset m o.port1.toNat o.map1 else m
  setCore s c { retire { k with maps := m } (k.pc + 1) with mapped := true }

/-- BMAP (R69, R132): waits for every access of earlier instructions, unless it follows a BMAP. -/
def execBmap (c : Nat) (h : Hdr) (o : BmapArgs) (s : State) : Host.Outcome State Fault Refusal :=
  seqRow s c (.bmap c h o) h [] (fun s => (getCore s c).mapped || drainedCore (getCore s c)) (bmapAct c o)

/-- Whether a slot condition holds (R133). -/
def condHolds (k : Core) (x : Cond) : Bool := !x.v || stateCode (slotOf k x.pad.toNat x.slot.toNat).st == x.st.toNat

/-- Whether the conditions of a MARK or WAIT hold (R81, R133). -/
def condsHold (c : Nat) (o : MarkArgs) (s : State) : Bool :=
  let k := getCore s c
  condHolds k o.c0 && condHolds k o.c1 && condHolds k o.c2 && condHolds k o.c3

/-- MARK issues (R81, R102): mark cycle 0 is the next cycle. -/
def markAct (c : Nat) (s : State) : State :=
  let k := getCore s c
  setCore s c (retire { k with markAt := k.cyc + 1 } (k.pc + 1))

/-- MARK (R81, R133). -/
def execMark (c : Nat) (h : Hdr) (o : MarkArgs) (s : State) : Host.Outcome State Fault Refusal :=
  seqRow s c (.mark c h o) h [] (condsHold c o) (markAct c)

/-- WAIT (R133). -/
def execWait (c : Nat) (h : Hdr) (o : MarkArgs) (s : State) : Host.Outcome State Fault Refusal :=
  seqRow s c (.wait c h o) h [] (condsHold c o) (goOn c)

/-- SQRY (R134): the slot table entry. -/
def execSqry (c : Nat) (h : Hdr) (o : QryArgs) (s : State) : Host.Outcome State Fault Refusal :=
  seqRow s c (.sqry c h o) h [o.sd] (fun _ => true)
    (sdAct c o.sd (fun s => BitVec.ofNat 64 (slotWord (slotOf (getCore s c) o.pad.toNat o.slot.toNat))))

/-- The counter PERF selects (R134). -/
def perfVal (k : Core) (sel : Nat) : Nat :=
  match sel with | 0 => k.cyc - k.markAt | 1 => k.slipMx | 2 => k.slipVx | 3 => k.cyc | _ => k.retired

/-- PERF (R134). -/
def execPerf (c : Nat) (h : Hdr) (o : PerfArgs) (s : State) : Host.Outcome State Fault Refusal :=
  seqRow s c (.perf c h o) h [o.sd] (fun _ => true) (sdAct c o.sd (fun s => BitVec.ofNat 64 (perfVal (getCore s c) o.sel.toNat)))

/-- Whether every earlier ST, STKV and STSH is visible (R136). -/
def storesDone (c : Nat) (s : State) : Bool :=
  let k := getCore s c
  k.qSt.isEmpty && !k.flights.any (fun f => f.eng == 2)

/-- FENCE (R136). -/
def execFenceInstr (c : Nat) (h : Hdr) (s : State) : Host.Outcome State Fault Refusal :=
  seqRow s c (.fenceInstr c h) h [] (storesDone c) (goOn c)

/-- SCLR (R135): a FULL slot becomes EMPTY; any other state stops the core. -/
def sclrAct (c : Nat) (o : SclrArgs) (s : State) : State :=
  let k := getCore s c
  let pad := o.pad.toNat
  let n := o.slot.toNat
  if (slotOf k pad n).st = .full then goOn c (slotChange s c (.slot pad n .empty))
  else stopNow s c 0 k.pc [slotRec s c k.pc 0 (slotNamed pad n .read) 0]

/-- SCLR (R135). -/
def execSclr (c : Nat) (h : Hdr) (o : SclrArgs) (s : State) : Host.Outcome State Fault Refusal :=
  seqRow s c (.sclr c h o) h [] (fun _ => true) (sclrAct c o)

end Sys2Proof.Machine
end

