-- ==== Sys2Proof/Machine/Dispatch.lean ====
section
/-! DEFINITION. One arm per command: its meaning, or its rejection by name. -/

namespace Sys2Proof.Machine

open Sys2Proof

def exec (i : Instr) (s : State) : Host.Outcome State Fault Refusal :=
  match i with
  | .nop c h => Sys2Proof.Machine.execNop c h s
  | .end_ c h => Sys2Proof.Machine.execEnd c h s
  | .kernelEnd c => Sys2Proof.Machine.execKernelEnd c s
  | .movi c h o => Sys2Proof.Machine.execMovi c h o s
  | .add c h o => Sys2Proof.Machine.execAdd c h o s
  | .sub c h o => Sys2Proof.Machine.execSub c h o s
  | .mul c h o => Sys2Proof.Machine.execMul c h o s
  | .and c h o => Sys2Proof.Machine.execAnd c h o s
  | .or c h o => Sys2Proof.Machine.execOr c h o s
  | .xor c h o => Sys2Proof.Machine.execXor c h o s
  | .shl c h o => Sys2Proof.Machine.execShl c h o s
  | .shr c h o => Sys2Proof.Machine.execShr c h o s
  | .sra c h o => Sys2Proof.Machine.execSra c h o s
  | .min c h o => Sys2Proof.Machine.execMin c h o s
  | .max c h o => Sys2Proof.Machine.execMax c h o s
  | .setp c h o => Sys2Proof.Machine.execSetp c h o s
  | .plog c h o => Sys2Proof.Machine.execPlog c h o s
  | .spr c h o => Sys2Proof.Machine.execSpr c h o s
  | .br c h o => Sys2Proof.Machine.execBr c h o s
  | .loop c h o => Sys2Proof.Machine.execLoop c h o s
  | .lds c h o => Sys2Proof.Machine.execLds c h o s
  | .sts c h o => Sys2Proof.Machine.execSts c h o s
  | .shw c h o => Sys2Proof.Machine.execShw c h o s
  | .ld c h o => Sys2Proof.Machine.execLd c h o s
  | .ldkv c h o => Sys2Proof.Machine.execLdkv c h o s
  | .ldsk c h o => Sys2Proof.Machine.execLdsk c h o s
  | .st c h o => Sys2Proof.Machine.execSt c h o s
  | .stkv c h o => Sys2Proof.Machine.execStkv c h o s
  | .stsh c h o => Sys2Proof.Machine.execStsh c h o s
  | .mx c h o => Sys2Proof.Machine.execMx c h o s
  | .mxscan c h o => Sys2Proof.Machine.execMxscan c h o s
  | .mxcmb c h o => Sys2Proof.Machine.execMxcmb c h o s
  | .mxcvt c h o => Sys2Proof.Machine.execMxcvt c h o s
  | .vld c h o => Sys2Proof.Machine.execVld c h o s
  | .vst c h o => Sys2Proof.Machine.execVst c h o s
  | .vadd c h o => Sys2Proof.Machine.execVadd c h o s
  | .vsub c h o => Sys2Proof.Machine.execVsub c h o s
  | .vmul c h o => Sys2Proof.Machine.execVmul c h o s
  | .vfma c h o => Sys2Proof.Machine.execVfma c h o s
  | .vmax c h o => Sys2Proof.Machine.execVmax c h o s
  | .vmin c h o => Sys2Proof.Machine.execVmin c h o s
  | .vcmp c h o => Sys2Proof.Machine.execVcmp c h o s
  | .vsel c h o => Sys2Proof.Machine.execVsel c h o s
  | .vspl c h o => Sys2Proof.Machine.execVspl c h o s
  | .vcvt c h o => Sys2Proof.Machine.execVcvt c h o s
  | .vexp2 c h o => Sys2Proof.Machine.execVexp2 c h o s
  | .vrcp c h o => Sys2Proof.Machine.execVrcp c h o s
  | .vrsq c h o => Sys2Proof.Machine.execVrsq c h o s
  | .vrot c h o => Sys2Proof.Machine.execVrot c h o s
  | .vbias c h o => Sys2Proof.Machine.execVbias c h o s
  | .vmsk c h o => Sys2Proof.Machine.execVmsk c h o s
  | .vsmx c h o => Sys2Proof.Machine.execVsmx c h o s
  | .vred c h o => Sys2Proof.Machine.execVred c h o s
  | .vrng c h o => Sys2Proof.Machine.execVrng c h o s
  | .slot c h o => Sys2Proof.Machine.execSlot c h o s
  | .bmap c h o => Sys2Proof.Machine.execBmap c h o s
  | .mark c h o => Sys2Proof.Machine.execMark c h o s
  | .wait c h o => Sys2Proof.Machine.execWait c h o s
  | .sqry c h o => Sys2Proof.Machine.execSqry c h o s
  | .perf c h o => Sys2Proof.Machine.execPerf c h o s
  | .fenceInstr c h => Sys2Proof.Machine.execFenceInstr c h s
  | .sclr c h o => Sys2Proof.Machine.execSclr c h o s
  | .instructionLastAccess c eng => Sys2Proof.Machine.execInstructionLastAccess c eng s
  | .openSession r q => Sys2Proof.Machine.execOpenSession r q s
  | .closeSession r q => Sys2Proof.Machine.execCloseSession r q s
  | .prefill r q => Sys2Proof.Machine.execPrefill r q s
  | .decode r q => Sys2Proof.Machine.execDecode r q s
  | .fork r q => Sys2Proof.Machine.execFork r q s
  | .evict r q => Sys2Proof.Machine.execEvict r q s
  | .recall r q => Sys2Proof.Machine.execRecall r q s
  | .plateLoad r q => Sys2Proof.Machine.execPlateLoad r q s
  | .platesetActivate r q => Sys2Proof.Machine.execPlatesetActivate r q s
  | .platesetRetire r q => Sys2Proof.Machine.execPlatesetRetire r q s
  | .kernelRun r q => Sys2Proof.Machine.execKernelRun r q s
  | .expose r q => Sys2Proof.Machine.execExpose r q s
  | .restore r q => Sys2Proof.Machine.execRestore r q s
  | .migrateOut r q => Sys2Proof.Machine.execMigrateOut r q s
  | .migrateIn r q => Sys2Proof.Machine.execMigrateIn r q s
  | .fence r q => Sys2Proof.Machine.execFence r q s
  | .cancel r q => Sys2Proof.Machine.execCancel r q s
  | .setWakeTolerance r q => Sys2Proof.Machine.execSetWakeTolerance r q s
  | .drain r q => Sys2Proof.Machine.execDrain r q s
  | .journalQuery r q => Sys2Proof.Machine.execJournalQuery r q s
  | .descriptorFetch r => Sys2Proof.Machine.execDescriptorFetch r s
  | .fencePredecessorDone r q => Sys2Proof.Machine.execFencePredecessorDone r q s
  | .sessionCommandStart r q => Sys2Proof.Machine.execSessionCommandStart r q s
  | .gatherWindowClose p => Sys2Proof.Machine.execGatherWindowClose p s
  | .launchEnd l => Sys2Proof.Machine.execLaunchEnd l s
  | .fixedStepRelease r q => Sys2Proof.Machine.execFixedStepRelease r q s
  | .timedDeadlineStop r q => Sys2Proof.Machine.execTimedDeadlineStop r q s
  | .interruptTimer r => Sys2Proof.Machine.execInterruptTimer r s
  | .msixUnmask fn vec => Sys2Proof.Machine.execMsixUnmask fn vec s
  | .sqTailWrite fn r v stores fails => Sys2Proof.Machine.execSqTailWrite fn r v stores fails s
  | .cqHeadWrite fn r v => Sys2Proof.Machine.execCqHeadWrite fn r v s
  | .ringEnable w r wide v => Sys2Proof.Machine.execRingEnable w r wide v s
  | .ringDisable w r wide v => Sys2Proof.Machine.execRingDisable w r wide v s
  | .partitionSetup w p wide v => Sys2Proof.Machine.execPartitionSetup w p wide v s
  | .partitionSetupComplete p => Sys2Proof.Machine.execPartitionSetupComplete p s
  | .partitionTeardown w p wide v => Sys2Proof.Machine.execPartitionTeardown w p wide v s
  | .partitionTeardownComplete p => Sys2Proof.Machine.execPartitionTeardownComplete p s
  | .partModeWrite w v => Sys2Proof.Machine.execPartModeWrite w v s
  | .pwrCapWrite w v => Sys2Proof.Machine.execPwrCapWrite w v s
  | .pwrTolWrite w p v => Sys2Proof.Machine.execPwrTolWrite w p v s
  | .fabPortWrite w p v => Sys2Proof.Machine.execFabPortWrite w p v s
  | .jobForm w j wide v => Sys2Proof.Machine.execJobForm w j wide v s
  | .jobEnd w j wide v => Sys2Proof.Machine.execJobEnd w j wide v s
  | .keyRetire w v => Sys2Proof.Machine.execKeyRetire w v s
  | .errQConsWrite w v => Sys2Proof.Machine.execErrQConsWrite w v s
  | .injectPadSymbols w v => Sys2Proof.Machine.execInjectPadSymbols w v s
  | .injectResidue w v => Sys2Proof.Machine.execInjectResidue w v s
  | .injectMemorySymbols w v => Sys2Proof.Machine.execInjectMemorySymbols w v s
  | .injectFlitCrc w v => Sys2Proof.Machine.execInjectFlitCrc w v s
  | .injectForceProof w v => Sys2Proof.Machine.execInjectForceProof w v s
  | .injectShareDigest w v => Sys2Proof.Machine.execInjectShareDigest w v s
  | .registerWrite w off width v => Sys2Proof.Machine.execRegisterWrite w off width v s
  | .stageWrite w => Sys2Proof.Machine.execStageWrite w s
  | .stageVerify w => Sys2Proof.Machine.execStageVerify w s
  | .commitSvn w => Sys2Proof.Machine.execCommitSvn w s
  | .enrolAnchor mctp => Sys2Proof.Machine.execEnrolAnchor mctp s
  | .readCper w => Sys2Proof.Machine.execReadCper w s
  | .deviceReset w => Sys2Proof.Machine.execDeviceReset w s
  | .setPreferred w => Sys2Proof.Machine.execSetPreferred w s
  | .redfishRequest role req => Sys2Proof.Machine.execRedfishRequest role req s
  | .moduleResetCommand role => Sys2Proof.Machine.execModuleResetCommand role s
  | .testModeEnable role on => Sys2Proof.Machine.execTestModeEnable role on s
  | .pldmFirmwareUpdate req => Sys2Proof.Machine.execPldmFirmwareUpdate req s
  | .getVersion t => Sys2Proof.Machine.execGetVersion t s
  | .getCapabilities t => Sys2Proof.Machine.execGetCapabilities t s
  | .negotiateAlgorithms t => Sys2Proof.Machine.execNegotiateAlgorithms t s
  | .getDigests t => Sys2Proof.Machine.execGetDigests t s
  | .getCertificate t slot => Sys2Proof.Machine.execGetCertificate t slot s
  | .challenge t nonce => Sys2Proof.Machine.execChallenge t nonce s
  | .getMeasurements t part index => Sys2Proof.Machine.execGetMeasurements t part index s
  | .keyExchange t => Sys2Proof.Machine.execKeyExchange t s
  | .finish t sid => Sys2Proof.Machine.execFinish t sid s
  | .endSession t sid => Sys2Proof.Machine.execEndSession t sid s
  | .heartbeat t sid => Sys2Proof.Machine.execHeartbeat t sid s
  | .vendorDefinedRequest t sid p km => Sys2Proof.Machine.execVendorDefinedRequest t sid p km s
  | .keyLoad t sid slot key => Sys2Proof.Machine.execKeyLoad t sid slot key s
  | .idcode => Sys2Proof.Machine.execIdcode s
  | .bypass opcode => Sys2Proof.Machine.execBypass opcode s
  | .samplePreload => Sys2Proof.Machine.execSamplePreload s
  | .extest => Sys2Proof.Machine.execExtest s
  | .clamp => Sys2Proof.Machine.execClamp s
  | .highz => Sys2Proof.Machine.execHighz s
  | .extestPulse => Sys2Proof.Machine.execExtestPulse s
  | .extestTrain => Sys2Proof.Machine.execExtestTrain s
  | .pwrEnAssert => Sys2Proof.Machine.execPwrEnAssert s
  | .powerStageReady => Sys2Proof.Machine.execPowerStageReady s
  | .pwrEnDeassert => Sys2Proof.Machine.execPwrEnDeassert s
  | .perstNAssert => Sys2Proof.Machine.execPerstNAssert s
  | .perstNRelease => Sys2Proof.Machine.execPerstNRelease s
  | .pwrBrakeAssert => Sys2Proof.Machine.execPwrBrakeAssert s
  | .pwrBrakeRelease => Sys2Proof.Machine.execPwrBrakeRelease s
  | .inputChatter pin => Sys2Proof.Machine.execInputChatter pin s
  | .inputChatterEnd pin level => Sys2Proof.Machine.execInputChatterEnd pin level s
  | .inputStuck pin => Sys2Proof.Machine.execInputStuck pin s
  | .strapSample feed slotId => Sys2Proof.Machine.execStrapSample feed slotId s
  | .strapChange => Sys2Proof.Machine.execStrapChange s
  | .inputVoltageFault => Sys2Proof.Machine.execInputVoltageFault s
  | .thermalThrottle tile hot => Sys2Proof.Machine.execThermalThrottle tile hot s
  | .thermalTrip => Sys2Proof.Machine.execThermalTrip s
  | .pllLockLoss => Sys2Proof.Machine.execPllLockLoss s
  | .pllLockHeld => Sys2Proof.Machine.execPllLockHeld s
  | .governorEvaluation draw => Sys2Proof.Machine.execGovernorEvaluation draw s
  | .mgcBoot => Sys2Proof.Machine.execMgcBoot s
  | .hubRomBoot pufOk => Sys2Proof.Machine.execHubRomBoot pufOk s
  | .selfTestComplete bad otherFail => Sys2Proof.Machine.execSelfTestComplete bad otherFail s
  | .linkBelowServicePoint rate width => Sys2Proof.Machine.execLinkBelowServicePoint rate width s
  | .vfFlr n => Sys2Proof.Machine.execVfFlr n s
  | .vfEnableClear => Sys2Proof.Machine.execVfEnableClear s
  | .pf0Flr => Sys2Proof.Machine.execPf0Flr s
  | .ideStreamLoss p => Sys2Proof.Machine.execIdeStreamLoss p s
  | .p2Entry p => Sys2Proof.Machine.execP2Entry p s
  | .p3Entry p => Sys2Proof.Machine.execP3Entry p s
  | .p4Entry => Sys2Proof.Machine.execP4Entry s
  | .powerStateExitComplete p => Sys2Proof.Machine.execPowerStateExitComplete p s
  | .portSignalDetect p lanes => Sys2Proof.Machine.execPortSignalDetect p lanes s
  | .equalizeConverged p => Sys2Proof.Machine.execEqualizeConverged p s
  | .alignDone p mask => Sys2Proof.Machine.execAlignDone p mask s
  | .negotiateDone p mask plane port peer => Sys2Proof.Machine.execNegotiateDone p mask plane port peer s
  | .linkStateTimeout p => Sys2Proof.Machine.execLinkStateTimeout p s
  | .portDownTimer p => Sys2Proof.Machine.execPortDownTimer p s
  | .laneFailing p lane => Sys2Proof.Machine.execLaneFailing p lane s
  | .uncorrectableCodeword p => Sys2Proof.Machine.execUncorrectableCodeword p s
  | .dataFlit p f => Sys2Proof.Machine.execDataFlit p f s
  | .nak p seq => Sys2Proof.Machine.execNak p seq s
  | .timeReq p => Sys2Proof.Machine.execTimeReq p s
  | .timeRsp p t2 t3 state bound => Sys2Proof.Machine.execTimeRsp p t2 t3 state bound s
  | .retrainReq p => Sys2Proof.Machine.execRetrainReq p s
  | .creditInit p free => Sys2Proof.Machine.execCreditInit p free s
  | .timeExchange => Sys2Proof.Machine.execTimeExchange s
  | .timeRspTimeout => Sys2Proof.Machine.execTimeRspTimeout s
  | .timeHoldover => Sys2Proof.Machine.execTimeHoldover s
  | .write k body => Sys2Proof.Machine.execWrite k body s
  | .readReq k len => Sys2Proof.Machine.execReadReq k len s
  | .readRsp k body => Sys2Proof.Machine.execReadRsp k body s
  | .ack k => Sys2Proof.Machine.execAck k s
  | .ackSend p src chan => Sys2Proof.Machine.execAckSend p src chan s
  | .channelResend p dst chan => Sys2Proof.Machine.execChannelResend p dst chan s
  | .channelOpen k digest => Sys2Proof.Machine.execChannelOpen k digest s
  | .collective k h body => Sys2Proof.Machine.execCollective k h body s
  | .stopBath k b => Sys2Proof.Machine.execStopBath k b s
  | .memberMove k rank ep => Sys2Proof.Machine.execMemberMove k rank ep s
  | .plateReq k set plate => Sys2Proof.Machine.execPlateReq k set plate s
  | .plateRsp k set plate body => Sys2Proof.Machine.execPlateRsp k set plate body s
  | .dispatch k h counts rows => Sys2Proof.Machine.execDispatch k h counts rows s
  | .return_ k h rows => Sys2Proof.Machine.execReturn k h rows s
  | .tagRetire k h => Sys2Proof.Machine.execTagRetire k h s
  | .sequencerStall c => Sys2Proof.Machine.execSequencerStall c s
  | .loaderStall c => Sys2Proof.Machine.execLoaderStall c s
  | .storerStall c => Sys2Proof.Machine.execStorerStall c s
  | .ringConsumerStall r => Sys2Proof.Machine.execRingConsumerStall r s
  | .portCreditStall p vc => Sys2Proof.Machine.execPortCreditStall p vc s
  | .channelStall p dst chan => Sys2Proof.Machine.execChannelStall p dst chan s
  | .separatorStall j tag layer => Sys2Proof.Machine.execSeparatorStall j tag layer s
  | .heartbeatAdvance k => Sys2Proof.Machine.execHeartbeatAdvance k s
  | .heartbeatLost k => Sys2Proof.Machine.execHeartbeatLost k s
  | .resetQuiesceDone d => Sys2Proof.Machine.execResetQuiesceDone d s
  | .resetQuiesceTimeout d => Sys2Proof.Machine.execResetQuiesceTimeout d s
  | .resetRelease d => Sys2Proof.Machine.execResetRelease d s
  | .frameReclaim p => Sys2Proof.Machine.execFrameReclaim p s
  | .plateAttemptDone p set plate => Sys2Proof.Machine.execPlateAttemptDone p set plate s
  | .plateAttemptTimeout p set plate => Sys2Proof.Machine.execPlateAttemptTimeout p set plate s
  | .milkRunPass p => Sys2Proof.Machine.execMilkRunPass p s
  | .plateReloadDone p set plate => Sys2Proof.Machine.execPlateReloadDone p set plate s
  | .proofReplayDone r q run => Sys2Proof.Machine.execProofReplayDone r q run s
  | .herdCheck j => Sys2Proof.Machine.execHerdCheck j s
  | .herdDigest k check window digest => Sys2Proof.Machine.execHerdDigest k check window digest s
  | .pairingRequest k p => Sys2Proof.Machine.execPairingRequest k p s
  | .stepNotice k handle desc ring seq tokens mask => Sys2Proof.Machine.execStepNotice k handle desc ring seq tokens mask s
  | .exposurePage k handle item => Sys2Proof.Machine.execExposurePage k handle item s
  | .exposureAck k handle seq ftime => Sys2Proof.Machine.execExposureAck k handle seq ftime s
  | .exposureInstant e => Sys2Proof.Machine.execExposureInstant e s
  | .exposurePageTaken e => Sys2Proof.Machine.execExposurePageTaken e s
  | .peerImageExpiry p n => Sys2Proof.Machine.execPeerImageExpiry p n s
  | .keepaliveSend k => Sys2Proof.Machine.execKeepaliveSend k s
  | .keepalive k handle => Sys2Proof.Machine.execKeepalive k handle s
  | .partnerLost k => Sys2Proof.Machine.execPartnerLost k s
  | .takeoverSilence k => Sys2Proof.Machine.execTakeoverSilence k s
  | .takeoverAfterReopen k => Sys2Proof.Machine.execTakeoverAfterReopen k s
  | .takeover k handle => Sys2Proof.Machine.execTakeover k handle s
  | .pairingResponse k handle ok shadow feed => Sys2Proof.Machine.execPairingResponse k handle ok shadow feed s
  | .keepaliveReply k handle => Sys2Proof.Machine.execKeepaliveReply k handle s
  | .partnerStepDigest k handle seq digest => Sys2Proof.Machine.execPartnerStepDigest k handle seq digest s
  | .pageAskedAgain k handle id => Sys2Proof.Machine.execPageAskedAgain k handle id s
  | .pcieLinkTrained rate width flit => Sys2Proof.Machine.execPcieLinkTrained rate width flit s
  | .vfEnableSet => Sys2Proof.Machine.execVfEnableSet s
  | .restartPermitted => Sys2Proof.Machine.execRestartPermitted s
  | .powerOffTimeElapsed => Sys2Proof.Machine.execPowerOffTimeElapsed s

end Sys2Proof.Machine
end

