-- ==== Sys2Proof/Machine/Tick.lean ====
section
/-! DEFINITION. What the block does when no command waits (log 2): fabric time advances by one tick and every
core with cycles passes one cycle, its Sequencer dispatching from the instruction buffer (R92, R98, R323). -/

namespace Sys2Proof.Machine

open Sys2Proof

/-- FAB_TIME after one more cycle of the reference (R323, R324): the trim carries in 2⁻³² ticks but not in FREE, one tick in 1,024 goes
toward a slew of zero, and BOUND grows by 1 for each millisecond of HOLDOVER. It never decreases: where a carry and a slew of −1 meet,
the slew waits. -/
def advanceTime (t : TimeSt) : TimeSt :=
  let f := (t.frac : Int) + (if t.tstate == 0 then 0 else t.trim)
  let turn := t.tickMod + 1 == 1024
  let carry := f / (2 ^ 32 : Int)
  let one : Int := if !turn then 0 else if 0 < t.slew then 1 else if t.slew < 0 && decide (0 ≤ carry) then -1 else 0
  let held := t.tstate == 3
  let ms := held && t.holdMs + 1 == 1050000
  { t with ftime := (t.ftime + (1 + carry + one).toNat) % 2 ^ 64, frac := (f % (2 ^ 32 : Int)).toNat,
           slew := t.slew - one, tickMod := if turn then 0 else t.tickMod + 1,
           holdMs := if !held || ms then 0 else t.holdMs + 1, bound := if ms then t.bound + 1 else t.bound }

/-- Core `c` passes one cycle. An instruction that would wait beyond the cycle is not dispatched in it. -/
def tickCore (ex : Instr → State → Host.Outcome State Fault Refusal) (s : State) (c : Nat) : State :=
  let k := getCore s c
  if !clocked k then s
  else
    let s1 : State :=
      if k.run != .running then s
      else match k.ibuf[k.pc]?.bind (decodeWord c) with
        | none => s
        | some i => match ex i s with
          | .next t => if (getCore t c).cyc == k.cyc || (getCore t c).run == .stopped then t else s
          | _ => s
    if (getCore s1 c).run == .stopped || (getCore s1 c).cyc != k.cyc then s1 else coreCycle s1 c

/-- Whether the governor throttles a core: its tile is hot, or its partition draws too much (R237, R426, R427). -/
def coreSlow (s : State) (c : Nat) : Bool :=
  bit s.pwr.hotTiles (c / 16) ||
  (if s.dev.isolate then (match partOfTile s (c / 16) with | some p => bit s.pwr.slow p | none => false) else s.pwr.slow != 0)

/-- Core `c` passes one cycle unless the governor withholds it from all its engines (R12, R55). -/
def tickSlow (ex : Instr → State → Host.Outcome State Fault Refusal) (n : Nat) (s : State) (c : Nat) : State :=
  if coreSlow s c && Config.withheld n c then s else tickCore ex s c

/-- Whether the block has a clock: the power is good and the root PLL locked (R421, R434). -/
def hasClock (s : State) : Bool := s.pins.pwrGood && s.pins.pllLock

/-- One tick: the time, the ports at a slot of isolation mode, then the cores in order. Without a clock nothing happens. -/
def tickWith (ex : Instr → State → Host.Outcome State Fault Refusal) (s : State) : State :=
  if !hasClock s then s
  else
    let (n, s) := if s.pwr.slow != 0 || s.pwr.hotTiles != 0 then freeNow s else (0, s)
    (s.cores.map (·.1)).foldl (tickSlow ex n) (pumpSlots { s with time := advanceTime s.time })

end Sys2Proof.Machine
end

