-- ==== Sys2Proof/Machine/Encode.lean ====
section
/-! DEFINITION. The words of core instructions (R94, R95, R104, R107, R113, R122, R131 to R135), written from the layout
tables of the manual: what a kernel image holds for each instruction. -/

namespace Sys2Proof.Machine

open Sys2Proof

/-- A slot reference as a number (R95). -/
def srefNat (r : SRef) : Nat := b2n r.flag * 2 ^ 8 + r.pad.toNat * 2 ^ 6 + r.slot.toNat

/-- The header of a word with an opcode (R94). -/
def hdrNat (op : Nat) (h : Hdr) : Nat :=
  op * 2 ^ 120 + b2n h.pneg * 2 ^ 119 + h.pred.toNat * 2 ^ 116 + b2n h.timed * 2 ^ 115 + h.offset.toNat * 2 ^ 96

/-- The SQ payload (R104). -/
def sqNat (o : SqArgs) : Nat :=
  o.sd.toNat * 2 ^ 91 + o.sa.toNat * 2 ^ 86 + o.sb.toNat * 2 ^ 81 + b2n o.immf * 2 ^ 80 + o.pd.toNat * 2 ^ 77 + o.pa.toNat * 2 ^ 74 +
  o.pb.toNat * 2 ^ 71 + o.fn.toNat * 2 ^ 67 + o.imm.toNat

/-- The LD and ST payload (R107). -/
def ldNat (o : LdArgs) : Nat :=
  srefNat o.sref * 2 ^ 87 + o.sa.toNat * 2 ^ 82 + o.sb.toNat * 2 ^ 77 + o.sc.toNat * 2 ^ 72 + o.sd.toNat * 2 ^ 67 + o.nrows.toNat * 2 ^ 52 +
  o.rbytes.toNat * 2 ^ 36 + o.row.toNat * 2 ^ 24 + o.grp.toNat * 2 ^ 16 + o.part.toNat * 2 ^ 14

/-- The MX payload (R113). -/
def mxNat (o : MxArgs) : Nat :=
  srefNat o.sa * 2 ^ 87 + srefNat o.sw * 2 ^ 78 + srefNat o.so * 2 ^ 69 + srefNat o.sc * 2 ^ 60 + o.mm.toNat * 2 ^ 48 + o.nn.toNat * 2 ^ 36 +
  o.kk.toNat * 2 ^ 24 + o.fa.toNat * 2 ^ 20 + o.fw.toNat * 2 ^ 16 + o.fo.toNat * 2 ^ 12 + b2n o.is * 2 ^ 11 + b2n o.sp * 2 ^ 10 +
  b2n o.ovf * 2 ^ 9 + b2n o.spill * 2 ^ 8 + b2n o.acc * 2 ^ 7 + b2n o.pcs * 2 ^ 6 + o.sr.toNat * 2

/-- The VX payload (R122). -/
def vxNat (o : VxArgs) : Nat :=
  o.vd.toNat * 2 ^ 91 + o.va.toNat * 2 ^ 86 + o.vb.toNat * 2 ^ 81 + o.vc.toNat * 2 ^ 76 + o.sa.toNat * 2 ^ 71 + o.sb.toNat * 2 ^ 66 +
  srefNat o.sref * 2 ^ 57 + o.row.toNat * 2 ^ 45 + o.sr.toNat * 2 ^ 40 + o.fmt.toNat * 2 ^ 36 + o.fn.toNat * 2 ^ 32 + o.imm.toNat

/-- The SLOT payload (R131). -/
def slotNat (o : SlotArgs) : Nat :=
  o.pad.toNat * 2 ^ 94 + o.slot.toNat * 2 ^ 88 + b2n o.retain * 2 ^ 87 + o.consumers.toNat * 2 ^ 82 + o.producer.toNat * 2 ^ 79 +
  o.rowCount.toNat * 2 ^ 71 + o.firstRow.toNat * 2 ^ 64 + o.bankCount.toNat * 2 ^ 58 + o.firstBank.toNat * 2 ^ 53

/-- The BMAP payload (R132). -/
def bmapNat (o : BmapArgs) : Nat :=
  o.port0.toNat * 2 ^ 92 + o.map0.toNat * 2 ^ 60 + b2n o.v1 * 2 ^ 59 + o.port1.toNat * 2 ^ 55 + o.map1.toNat * 2 ^ 23

/-- An 11-bit slot condition (R133). -/
def condNat (c : Cond) : Nat := b2n c.v * 2 ^ 10 + c.pad.toNat * 2 ^ 8 + c.slot.toNat * 2 ^ 2 + c.st.toNat

/-- The MARK and WAIT payload (R133). -/
def markNat (o : MarkArgs) : Nat := condNat o.c0 * 2 ^ 85 + condNat o.c1 * 2 ^ 74 + condNat o.c2 * 2 ^ 63 + condNat o.c3 * 2 ^ 52

/-- The word of a core instruction; a command that is none has no word. -/
def encodeWord (i : Instr) : Option W128 :=
  match i with
  | .nop _ h => some (BitVec.ofNat 128 (hdrNat 0x00 h))
  | .end_ _ h => some (BitVec.ofNat 128 (hdrNat 0x01 h))
  | .movi _ h o => some (BitVec.ofNat 128 (hdrNat 0x02 h + sqNat o))
  | .br _ h o => some (BitVec.ofNat 128 (hdrNat 0x03 h + sqNat o))
  | .loop _ h o => some (BitVec.ofNat 128 (hdrNat 0x04 h + sqNat o))
  | .setp _ h o => some (BitVec.ofNat 128 (hdrNat 0x05 h + sqNat o))
  | .plog _ h o => some (BitVec.ofNat 128 (hdrNat 0x06 h + sqNat o))
  | .spr _ h o => some (BitVec.ofNat 128 (hdrNat 0x07 h + sqNat o))
  | .lds _ h o => some (BitVec.ofNat 128 (hdrNat 0x08 h + sqNat o))
  | .sts _ h o => some (BitVec.ofNat 128 (hdrNat 0x09 h + sqNat o))
  | .shw _ h o => some (BitVec.ofNat 128 (hdrNat 0x0A h + sqNat o))
  | .add _ h o => some (BitVec.ofNat 128 (hdrNat 0x10 h + sqNat o))
  | .sub _ h o => some (BitVec.ofNat 128 (hdrNat 0x11 h + sqNat o))
  | .mul _ h o => some (BitVec.ofNat 128 (hdrNat 0x12 h + sqNat o))
  | .and _ h o => some (BitVec.ofNat 128 (hdrNat 0x13 h + sqNat o))
  | .or _ h o => some (BitVec.ofNat 128 (hdrNat 0x14 h + sqNat o))
  | .xor _ h o => some (BitVec.ofNat 128 (hdrNat 0x15 h + sqNat o))
  | .shl _ h o => some (BitVec.ofNat 128 (hdrNat 0x16 h + sqNat o))
  | .shr _ h o => some (BitVec.ofNat 128 (hdrNat 0x17 h + sqNat o))
  | .sra _ h o => some (BitVec.ofNat 128 (hdrNat 0x18 h + sqNat o))
  | .min _ h o => some (BitVec.ofNat 128 (hdrNat 0x19 h + sqNat o))
  | .max _ h o => some (BitVec.ofNat 128 (hdrNat 0x1A h + sqNat o))
  | .ld _ h o => some (BitVec.ofNat 128 (hdrNat 0x20 h + ldNat o))
  | .ldkv _ h o => some (BitVec.ofNat 128 (hdrNat 0x21 h + ldNat o))
  | .ldsk _ h o => some (BitVec.ofNat 128 (hdrNat 0x22 h + ldNat o))
  | .st _ h o => some (BitVec.ofNat 128 (hdrNat 0x40 h + ldNat o))
  | .stkv _ h o => some (BitVec.ofNat 128 (hdrNat 0x41 h + ldNat o))
  | .stsh _ h o => some (BitVec.ofNat 128 (hdrNat 0x42 h + ldNat o))
  | .mx _ h o => some (BitVec.ofNat 128 (hdrNat 0x60 h + mxNat o))
  | .mxscan _ h o => some (BitVec.ofNat 128 (hdrNat 0x61 h + mxNat o))
  | .mxcmb _ h o => some (BitVec.ofNat 128 (hdrNat 0x62 h + mxNat o))
  | .mxcvt _ h o => some (BitVec.ofNat 128 (hdrNat 0x63 h + mxNat o))
  | .vld _ h o => some (BitVec.ofNat 128 (hdrNat 0x80 h + vxNat o))
  | .vst _ h o => some (BitVec.ofNat 128 (hdrNat 0x81 h + vxNat o))
  | .vadd _ h o => some (BitVec.ofNat 128 (hdrNat 0x82 h + vxNat o))
  | .vsub _ h o => some (BitVec.ofNat 128 (hdrNat 0x83 h + vxNat o))
  | .vmul _ h o => some (BitVec.ofNat 128 (hdrNat 0x84 h + vxNat o))
  | .vfma _ h o => some (BitVec.ofNat 128 (hdrNat 0x85 h + vxNat o))
  | .vmax _ h o => some (BitVec.ofNat 128 (hdrNat 0x86 h + vxNat o))
  | .vmin _ h o => some (BitVec.ofNat 128 (hdrNat 0x87 h + vxNat o))
  | .vcmp _ h o => some (BitVec.ofNat 128 (hdrNat 0x88 h + vxNat o))
  | .vsel _ h o => some (BitVec.ofNat 128 (hdrNat 0x89 h + vxNat o))
  | .vspl _ h o => some (BitVec.ofNat 128 (hdrNat 0x8A h + vxNat o))
  | .vcvt _ h o => some (BitVec.ofNat 128 (hdrNat 0x8B h + vxNat o))
  | .vexp2 _ h o => some (BitVec.ofNat 128 (hdrNat 0x8C h + vxNat o))
  | .vrcp _ h o => some (BitVec.ofNat 128 (hdrNat 0x8D h + vxNat o))
  | .vrsq _ h o => some (BitVec.ofNat 128 (hdrNat 0x8E h + vxNat o))
  | .vrot _ h o => some (BitVec.ofNat 128 (hdrNat 0x8F h + vxNat o))
  | .vbias _ h o => some (BitVec.ofNat 128 (hdrNat 0x90 h + vxNat o))
  | .vmsk _ h o => some (BitVec.ofNat 128 (hdrNat 0x91 h + vxNat o))
  | .vsmx _ h o => some (BitVec.ofNat 128 (hdrNat 0x92 h + vxNat o))
  | .vred _ h o => some (BitVec.ofNat 128 (hdrNat 0x93 h + vxNat o))
  | .vrng _ h o => some (BitVec.ofNat 128 (hdrNat 0x94 h + vxNat o))
  | .slot _ h o => some (BitVec.ofNat 128 (hdrNat 0xA0 h + slotNat o))
  | .bmap _ h o => some (BitVec.ofNat 128 (hdrNat 0xA1 h + bmapNat o))
  | .mark _ h o => some (BitVec.ofNat 128 (hdrNat 0xA2 h + markNat o))
  | .wait _ h o => some (BitVec.ofNat 128 (hdrNat 0xA3 h + markNat o))
  | .sqry _ h o => some (BitVec.ofNat 128 (hdrNat 0xA4 h + (o.sd.toNat * 2 ^ 91 + o.pad.toNat * 2 ^ 89 + o.slot.toNat * 2 ^ 83)))
  | .perf _ h o => some (BitVec.ofNat 128 (hdrNat 0xA5 h + (o.sd.toNat * 2 ^ 91 + o.sel.toNat * 2 ^ 87)))
  | .fenceInstr _ h => some (BitVec.ofNat 128 (hdrNat 0xA6 h))
  | .sclr _ h o => some (BitVec.ofNat 128 (hdrNat 0xA7 h + (o.pad.toNat * 2 ^ 94 + o.slot.toNat * 2 ^ 88)))
  | _ => none

/-- The header of a core instruction (R94); a command that is none has no header. -/
def coreHdr (i : Instr) : Option Hdr :=
  match i with
  | .nop _ h => some h | .end_ _ h => some h | .movi _ h _ => some h | .br _ h _ => some h
  | .loop _ h _ => some h | .setp _ h _ => some h | .plog _ h _ => some h | .spr _ h _ => some h
  | .lds _ h _ => some h | .sts _ h _ => some h | .shw _ h _ => some h | .add _ h _ => some h
  | .sub _ h _ => some h | .mul _ h _ => some h | .and _ h _ => some h | .or _ h _ => some h
  | .xor _ h _ => some h | .shl _ h _ => some h | .shr _ h _ => some h | .sra _ h _ => some h
  | .min _ h _ => some h | .max _ h _ => some h | .ld _ h _ => some h | .ldkv _ h _ => some h
  | .ldsk _ h _ => some h | .st _ h _ => some h | .stkv _ h _ => some h | .stsh _ h _ => some h
  | .mx _ h _ => some h | .mxscan _ h _ => some h | .mxcmb _ h _ => some h | .mxcvt _ h _ => some h
  | .vld _ h _ => some h | .vst _ h _ => some h | .vadd _ h _ => some h | .vsub _ h _ => some h
  | .vmul _ h _ => some h | .vfma _ h _ => some h | .vmax _ h _ => some h | .vmin _ h _ => some h
  | .vcmp _ h _ => some h | .vsel _ h _ => some h | .vspl _ h _ => some h | .vcvt _ h _ => some h
  | .vexp2 _ h _ => some h | .vrcp _ h _ => some h | .vrsq _ h _ => some h | .vrot _ h _ => some h
  | .vbias _ h _ => some h | .vmsk _ h _ => some h | .vsmx _ h _ => some h | .vred _ h _ => some h
  | .vrng _ h _ => some h | .slot _ h _ => some h | .bmap _ h _ => some h | .mark _ h _ => some h
  | .wait _ h _ => some h | .sqry _ h _ => some h | .perf _ h _ => some h | .fenceInstr _ h => some h
  | .sclr _ h _ => some h
  | _ => none

end Sys2Proof.Machine
end

