-- ==== Sys2Proof/WellFormed.lean ====
section
/-! DEFINITION. Which commands can reach the block: the units they name exist (R10), and a core instruction
is legal (R96), as the load check of a kernel image leaves it. -/

namespace Sys2Proof

/-- Cores of the device (R10). -/
def coreOk (c : Nat) : Bool := decide (c < 128)

/-- Rings (R245). -/
def ringOk (r : Nat) : Bool := decide (r < 32768)

/-- Partitions (R224). -/
def partOk (p : Nat) : Bool := decide (p < 8)

/-- Zhevlink ports (R306). -/
def portOk (p : Nat) : Bool := decide (p < 6)

/-- The core of a core instruction, if the command is one. -/
def coreOfInstr (i : Instr) : Option Nat :=
  match i with
  | .nop c _ => some c | .end_ c _ => some c | .kernelEnd c => some c | .movi c _ _ => some c | .add c _ _ => some c
  | .sub c _ _ => some c | .mul c _ _ => some c | .and c _ _ => some c | .or c _ _ => some c | .xor c _ _ => some c
  | .shl c _ _ => some c | .shr c _ _ => some c | .sra c _ _ => some c | .min c _ _ => some c | .max c _ _ => some c
  | .setp c _ _ => some c | .plog c _ _ => some c | .spr c _ _ => some c | .br c _ _ => some c | .loop c _ _ => some c
  | .lds c _ _ => some c | .sts c _ _ => some c | .shw c _ _ => some c | .ld c _ _ => some c | .ldkv c _ _ => some c
  | .ldsk c _ _ => some c | .st c _ _ => some c | .stkv c _ _ => some c | .stsh c _ _ => some c | .mx c _ _ => some c
  | .mxscan c _ _ => some c | .mxcmb c _ _ => some c | .mxcvt c _ _ => some c | .vld c _ _ => some c | .vst c _ _ => some c
  | .vadd c _ _ => some c | .vsub c _ _ => some c | .vmul c _ _ => some c | .vfma c _ _ => some c | .vmax c _ _ => some c
  | .vmin c _ _ => some c | .vcmp c _ _ => some c | .vsel c _ _ => some c | .vspl c _ _ => some c | .vcvt c _ _ => some c
  | .vexp2 c _ _ => some c | .vrcp c _ _ => some c | .vrsq c _ _ => some c | .vrot c _ _ => some c | .vbias c _ _ => some c
  | .vmsk c _ _ => some c | .vsmx c _ _ => some c | .vred c _ _ => some c | .vrng c _ _ => some c | .slot c _ _ => some c
  | .bmap c _ _ => some c | .mark c _ _ => some c | .wait c _ _ => some c | .sqry c _ _ => some c | .perf c _ _ => some c
  | .fenceInstr c _ => some c | .sclr c _ _ => some c | .instructionLastAccess c _ => some c | .sequencerStall c => some c
  | .loaderStall c => some c | .storerStall c => some c
  | _ => none

/-- Whether a command is well formed. -/
def wellFormed (i : Instr) : Bool :=
  (match coreOfInstr i with | some c => coreOk c | none => true) && (Machine.illegalField i).isNone &&
  (match i with
   | .instructionLastAccess _ e => decide (e ≤ 4)
   | .descriptorFetch r => ringOk r | .interruptTimer r => ringOk r | .ringConsumerStall r => ringOk r
   | .sqTailWrite _ r _ _ _ => ringOk r | .cqHeadWrite _ r _ => ringOk r | .ringEnable _ r _ _ => ringOk r
   | .ringDisable _ r _ _ => ringOk r
   | .gatherWindowClose p => partOk p | .partitionSetup _ p _ _ => partOk p | .partitionSetupComplete p => partOk p
   | .partitionTeardown _ p _ _ => partOk p | .partitionTeardownComplete p => partOk p | .frameReclaim p => partOk p
   | .milkRunPass p => partOk p | .p2Entry p => partOk p | .p3Entry p => partOk p | .powerStateExitComplete p => partOk p
   | .ideStreamLoss p => partOk p | .peerImageExpiry p _ => partOk p
   | .fabPortWrite _ p _ => portOk p | .portSignalDetect p _ => portOk p | .equalizeConverged p => portOk p
   | .alignDone p _ => portOk p | .negotiateDone p _ _ _ _ => portOk p | .linkStateTimeout p => portOk p
   | .portDownTimer p => portOk p | .laneFailing p _ => portOk p | .uncorrectableCodeword p => portOk p
   | .dataFlit p _ => portOk p | .nak p _ => portOk p | .timeReq p => portOk p | .timeRsp p _ _ _ _ => portOk p
   | .retrainReq p => portOk p | .creditInit p _ => portOk p | .portCreditStall p _ => portOk p
   | .heartbeatAdvance k => decide (k < 9) | .heartbeatLost k => decide (k < 9)
   | .thermalThrottle t _ => decide (t < 8)
   | _ => true)

end Sys2Proof
end

