-- ==== Sys2Proof/Safety.lean ====
section
/-! DEFINITION. The words the statements are written in: what a step may do, when a core can dispatch, and what an
instruction leaves as it was. -/

namespace Sys2Proof.Safety

open Sys2Proof Sys2Proof.Machine

/-- The step of `s` answers a next state. -/
def Runs (s : State) : Prop := ∃ t, step s = .next t

/-! ## Cores -/

/-- Core `c` runs a kernel, its Sequencer can dispatch in this cycle, and nothing of it is under way (R99). -/
structure Calm (s : State) (c : Nat) : Prop where
  exists_ : c < 128
  running : (getCore s c).run = .running
  free    : (getCore s c).sqAt ≤ (getCore s c).cyc
  qLd     : (getCore s c).qLd = []
  qSt     : (getCore s c).qSt = []
  qMx     : (getCore s c).qMx = []
  qVx     : (getCore s c).qVx = []
  flights : (getCore s c).flights = []

/-- Core `c` dispatches instruction `i` with header `h` in this cycle: it is calm, the instruction is legal (R96), its guard
holds (R100), and the scalar registers `rs` are not pending (R101). -/
structure Dispatches (s : State) (c : Nat) (i : Instr) (h : Hdr) (rs : List (BitVec 5)) : Prop where
  calm  : Calm s c
  legal : illegalField i = none
  guard : guardOn (getCore s c) h = true
  regs  : regsFree (getCore s c) rs = true

/-- Nothing but core `c` differs. -/
def OnlyCore (s t : State) (c : Nat) : Prop := t = setCore s c (getCore t c)

/-- The Sequencer has gone on to the next instruction: of core `k`, nothing but what `k'` gives explicitly differs from
before, and the program counter, the loop stack, the count of retired instructions and the dispatch time are those of a
retired instruction (R98, R105, R134). -/
def Retired (k k' : Core) : Prop :=
  k'.pc = (loopNext k.loops (k.pc + 1)).1 ∧ k'.loops = (loopNext k.loops (k.pc + 1)).2 ∧ k'.retired = k.retired + 1 ∧
  k'.sqAt = k.cyc + 1

/-- A scalar result (R98, R101, R104): register `sd` holds `v` (s0 stays zero) and is usable as `ready` says, every other
scalar register is as it was, and of the core only the program position changes beside it. -/
def ScalarWrite (s t : State) (c : Nat) (sd : BitVec 5) (v : W64) (ready : Tbl Nat) : Prop :=
  OnlyCore s t c ∧ Retired (getCore s c) (getCore t c) ∧
  sreg (getCore t c) sd = (if sd = 0 then 0 else v) ∧
  (∀ r, r ≠ sd → sreg (getCore t c) r = sreg (getCore s c) r) ∧
  getCore t c = { getCore s c with
    gpr := (getCore t c).gpr, regAt := ready, mapped := false,
    pc := (getCore t c).pc, loops := (getCore t c).loops, retired := (getCore t c).retired, sqAt := (getCore t c).sqAt }

/-- A predicate result (R100, R104): predicate `pd` holds `v` (p0 stays true), every other predicate is as it was, and of
the core only the program position changes beside it. -/
def PredicateWrite (s t : State) (c : Nat) (pd : BitVec 3) (v : Bool) : Prop :=
  OnlyCore s t c ∧ Retired (getCore s c) (getCore t c) ∧
  preg (getCore t c) pd = (if pd = 0 then true else v) ∧
  (∀ p, p ≠ pd → preg (getCore t c) p = preg (getCore s c) p) ∧
  getCore t c = { getCore s c with
    prd := (getCore t c).prd, mapped := false,
    pc := (getCore t c).pc, loops := (getCore t c).loops, retired := (getCore t c).retired, sqAt := (getCore t c).sqAt }

/-- Only the program position of core `c` changes. -/
def Passes (s t : State) (c : Nat) : Prop :=
  OnlyCore s t c ∧ Retired (getCore s c) (getCore t c) ∧
  getCore t c = { getCore s c with
    mapped := false,
    pc := (getCore t c).pc, loops := (getCore t c).loops, retired := (getCore t c).retired, sqAt := (getCore t c).sqAt }

/-! ## Engines -/

/-- No row of a pad has symbols in error (R60). -/
def PadsSound (k : Core) : Prop := k.padW.bad = [] ∧ k.padA.bad = [] ∧ k.padP.bad = []

/-- Every stored residue byte of the P-pad is that of its entry (R63). -/
def ResiduesRight (k : Core) : Prop :=
  ∀ key i, i < 16 → residueAt k.padP key i = residueOf (((rowBytes k.padP 2 key).drop (16 * i)).take 16)

/-- The map of the engine's port on a pad holds every bank of a slot (R67). -/
def Reaches (k : Core) (eng pad slot : Nat) : Prop :=
  ∀ j, j < Nat.max 1 (slotOf k pad slot).bankCount.toNat →
    bit (mapOf k (portOf eng pad)) ((slotOf k pad slot).firstBank.toNat + j) = true

/-- A timed form has reached its offset (R82). -/
def OffsetReached (k : Core) (h : Hdr) : Prop := h.timed = true → k.markAt + h.offset.toNat ≤ k.cyc

/-- Every use of a slot by engine `eng` passes its check (R75 to R77). -/
def SlotsPass (k : Core) (eng : Nat) (us : List SlotUse) : Prop := ∀ u ∈ us, checkUse k eng u = .ok

/-- The state after `n` cycles of core `c` in which its Sequencer dispatches nothing and its queues are empty. -/
def afterCycles (c : Nat) : Nat → State → State
  | 0, s => s
  | n + 1, s => afterCycles c n (endCycle s c)

/-- The instruction has left its queue at once: only the core differs, the Sequencer has gone on, the queues are empty, and
pads, predicates and scalar registers are as they were. -/
def IssuedAtOnce (s t : State) (c : Nat) : Prop :=
  OnlyCore s t c ∧ Retired (getCore s c) (getCore t c) ∧
  (getCore t c).qLd = [] ∧ (getCore t c).qSt = [] ∧ (getCore t c).qMx = [] ∧ (getCore t c).qVx = [] ∧
  (getCore t c).padW = (getCore s c).padW ∧ (getCore t c).padA = (getCore s c).padA ∧ (getCore t c).padP = (getCore s c).padP ∧
  (getCore t c).prd = (getCore s c).prd ∧ (getCore t c).gpr = (getCore s c).gpr ∧ (getCore t c).run = .running ∧
  (getCore t c).cyc = (getCore s c).cyc

/-- A vector result (R122, R123, R130): `vd` holds `x`, usable `lat` cycles from now; every other vector register is as it
was. -/
def VectorWrite (s t : State) (c : Nat) (vd : BitVec 5) (x : Lanes) (lat : Nat) : Prop :=
  vregOf (getCore t c) vd = x ∧ tget 0 (getCore t c).vecAt vd.toNat = (getCore s c).cyc + lat ∧
  (∀ v, v ≠ vd → vregOf (getCore t c) v = vregOf (getCore s c) v)

/-- Instruction `i` of the Vector engine dispatches and issues in this cycle (R99, R122, R130). -/
structure VectorIssues (s : State) (c : Nat) (i : Instr) (h : Hdr) (rs : List (BitVec 5)) : Prop where
  disp : Dispatches s c i h rs
  idle : (getCore s c).busyVx ≤ (getCore s c).cyc
  vecs : (vxRegs i).all (vecFree (getCore s c)) = true
  due  : OffsetReached (getCore s c) h

/-! ## Commands of the rings -/

/-- Command `q` of ring `r`, with code `op`, has been accepted as `c` and can start now: it has not started, waits for nothing,
no earlier FENCE of its ring is outstanding, the hub is not under reset, and its deadline is not near (R263, R281, R290, R362). -/
structure CanStart (s : State) (r q op : Nat) (c : Cmd) : Prop where
  found    : findCmd s r q = some c
  code     : opcodeOf c = op
  isNew    : c.started = false
  noWait   : c.wait = .none
  ready    : c.ready = true
  unfenced : heldByFence s r q = false
  hub      : underReset s .hub = false
  intime   : lateCmd s c = false

/-- Command `q` of ring `r` has ended: it is no longer accepted, and its journal entry holds its status and result (R256,
R262). -/
def Ended (t : State) (r q : Nat) (status : Byte) (result : Nat) : Prop :=
  findCmd t r q = none ∧ (journalAt (getRing t r) q).status = status ∧
  (journalAt (getRing t r) q).result = BitVec.ofNat 128 result ∧
  (journalAt (getRing t r) q).st =
    (if status = stOk ∨ status = stMigrated ∨ status = stShapeZero then .completed else .failed)

/-- Command `q` of ring `r` has ended FAULT (R256, R336). -/
def Faulted (t : State) (r q : Nat) : Prop :=
  findCmd t r q = none ∧ (journalAt (getRing t r) q).status = stFault ∧ (journalAt (getRing t r) q).st = .failed

/-- Command `q` of ring `r` is under way. -/
def UnderWay (t : State) (r q : Nat) : Prop := ∃ c, findCmd t r q = some c ∧ c.started = true

/-- A packet with body `b` stands unacknowledged on a channel of partition `p` to `dst` (R317). -/
def Queued (t : State) (p : Nat) (dst ch : W16) (b : Body) : Prop :=
  ∃ x ∈ t.fab.txCh, x.part = p ∧ x.dst = dst ∧ x.chan = ch ∧ ∃ k ∈ x.unack, k.body = b

/-- The session record of index `i`, and no other, may differ. -/
def OnlySession (s t : State) (i : Nat) : Prop := ∀ j, j ≠ i → getSess t j = getSess s j

/-! ## Packets -/

/-- A packet whose ECRC holds arrives at the one partition that claims its destination, which is awake (R316, R317, R424); its
generation is not older than the one held for its source (R318). -/
structure Heard (s : State) (p : Nat) (k : Pkt) : Prop where
  only   : partsOfEp s k.dst = [p]
  awake  : (getPart s p).pstate < 2
  sound  : k.ecrcOk = true
  notOld : genAge s k.src k.gen ≠ .older

/-- A packet arrives at partition `p` with the generation held for its source and the CSEQ its channel expects (R317, R318). -/
structure Delivered (s : State) (p : Nat) (k : Pkt) : Prop where
  only    : partsOfEp s k.dst = [p]
  awake   : (getPart s p).pstate < 2
  sound   : k.ecrcOk = true
  gen     : genAge s k.src k.gen = .same
  inOrder : k.cseq.toNat = (rxOf s p k.src k.chan).expect

/-- The packet has been accepted: its channel expects the next CSEQ (R317). -/
def AcceptedPkt (t : State) (p : Nat) (k : Pkt) : Prop := (rxOf t p k.src k.chan).expect = (k.cseq.toNat + 1) % 2 ^ 32

/-! ## Memories -/

/-- The frames of a state that the least free one is sought among. -/
def usedFrames (s : State) : List Nat := s.mem.frames.map (·.1) ++ s.dev.withdrawn

/-- Frames are left for so many more allocations: of the frames of a stack or a far part, over a million are unreserved (R218, R219, R480). -/
def Room (s : State) (n : Nat) : Prop := (usedFrames s).length + n ≤ 1000000

/-- No line of the memories has symbols in error, and no injection waits for a write of one (R343, R357). -/
def MemorySound (s : State) : Prop := s.mem.bad = [] ∧ ∀ j ∈ s.err.armed, j.kind ≠ 3

/-- The page of a mapped entry can be brought to near memory: a far page lies under an ACTIVE key slot, and the record of a page in
the host image is readable under the session's ACTIVE key slot and matches its digest and place (R162, R232, R376). -/
def Recallable (s : State) (i : Nat) (k : Nat × Nat × Nat) (e : Pte) : Prop :=
  let x := getSess s i
  let key := getKey s x.keySlot.toNat
  if e.host then
    key.st = .active ∧ ∃ rc, readRecHost s x.hostImage.toNat e.pfn = some rc ∧ rc.id = kvId k.1 k.2.1 k.2.2 ∧
      recOk rc (openRec key.key (handleOf i x) e.pfn rc) = true
  else isFar e.pfn = true → (getKey s (getFrame s e.pfn).keySlot.toNat).st = .active

/-- Near, far and host memory are in canonical form: addresses strictly rising, no zero byte listed. -/
def MemoriesCanonical (s : State) : Prop := Memory.wf s.mem.near = true ∧ Memory.wf s.mem.far = true ∧ Memory.wf s.hif.host = true

/-! ## Records and registers -/

/-- The record raised next in `s` stands in the export of its queue: error code `code`, syndrome `syn`, partition `part`, and
the time of `s` (R333, R338, R340). -/
def Recorded (s t : State) (code : W16) (syn : Nat) (part : Option Nat) : Prop :=
  ∃ x ∈ tget [] t.err.cper (part.getD 8), x.seq = s.err.nextSeq ∧ x.code = code ∧ x.syn = BitVec.ofNat 16 syn ∧ x.part = part ∧
    x.ftime = s.time.ftime

/-- The value a write of the upper part of a wide register commits: its staging copy with that part written (R466). -/
def committed (s : State) (w : Writer) (base size rst : Nat) (wide : Bool) (v : W64) : Nat :=
  putBits (((tfind (stages s w) base).map BitVec.toNat).getD rst) (topOff size wide) (topWidth wide) v.toNat

/-- The SPDM responder has answered `body` on a transport: in the SEC mailbox's response, with DONE and the length (R415), or
in a message of the transport. -/
def Answered (s t : State) (port : SpdmPort) (body : List Byte) : Prop :=
  match port with
  | .mailbox => t.sec.busy = false ∧ t.sec.done = true ∧ t.sec.rlen = BitVec.ofNat 16 body.length ∧ t.sec.rsp = mwriteN [] 0 (body.take 4096)
  | _ => t.sec.answers = s.sec.answers ++ [(port, body)]

/-- The mailbox command `cmd` has ended with a status (R418). -/
def MailboxDone (t : State) (cmd status : Byte) : Prop :=
  t.mgc.status = status ∧ t.mgc.done = true ∧ t.mgc.busy = false ∧ t.mgc.cmd = cmd

/-- The module is as a module reset leaves it (R362): no command, session, partition, key or plate set, no memory but the frames of
journals that are kept, every core idle with its slots and rows undefined, the device before its start-up; and what stands in flash and
in replay-protected storage is as it was, with the hub's tag. Rings keep their journals where `warm`, and nothing else (R266, log 106). -/
def ModuleReset (s t : State) (warm : Bool) : Prop :=
  t.cmds = [] ∧ t.sess = [] ∧ t.parts = [] ∧ t.keys = [] ∧ t.psets = [] ∧ t.mem = { frames := t.mem.frames } ∧ t.dev.stage = 0 ∧
  (warm = false → t.rings = [] ∧ t.mem = {}) ∧
  (warm = true → ∀ r, getRing t r = warmJournal 1 s.time.ftime (getRing s r)) ∧
  (∀ c, getCore t c = { padW := clearPad (getCore s c).padW, padA := clearPad (getCore s c).padA, padP := clearPad (getCore s c).padP }) ∧
  t.mgc.booted = false ∧ t.mgc.hubSvn = s.mgc.hubSvn ∧ t.mgc.mgcSvn = s.mgc.mgcSvn ∧ t.mgc.cfgSeq = s.mgc.cfgSeq ∧
  t.mgc.cfgRecs = s.mgc.cfgRecs ∧ t.mgc.hubA = s.mgc.hubA ∧ t.mgc.hubB = s.mgc.hubB ∧ t.mgc.mgcA = s.mgc.mgcA ∧ t.mgc.mgcB = s.mgc.mgcB ∧
  t.mgc.anchors = s.mgc.anchors ∧ t.mgc.tagStore = s.dev.hubTag

end Sys2Proof.Safety
end

