-- ==== Sys2Proof/Certificates/Slice0/Obligations.lean ====
section
/-! DEFINITION. The statements for the provers. Each clause names the conditions under which a command completes, on the
state and the operands alone, and what the next state holds. -/

section Statements

open Sys2Proof Sys2Proof.Machine Sys2Proof.Safety

/-! ## The Sequencer -/

/-- The two-operand scalar instructions of R104: each writes s[SD] with its function of s[SA] and operand B (IMM when IF is
1, else s[SB]), usable in the next cycle, MUL 3 cycles after dispatch; a write to s0 is discarded (R98); nothing else changes
but the position in the program. -/
def Obligations.ScalarArithmeticWritesItsResult : Prop :=
  ∀ (s : State) (c : Nat) (h : Hdr) (o : SqArgs),
    let k := getCore s c
    let a := sreg k o.sa
    let b := if o.immf then o.imm else sreg k o.sb
    let rs := [o.sd, o.sa] ++ (if o.immf then [] else [o.sb])
    (Dispatches s c (.add c h o) h rs → ∃ t, exec (.add c h o) s = .next t ∧ ScalarWrite s t c o.sd (a + b) k.regAt) ∧
    (Dispatches s c (.sub c h o) h rs → ∃ t, exec (.sub c h o) s = .next t ∧ ScalarWrite s t c o.sd (a - b) k.regAt) ∧
    (Dispatches s c (.mul c h o) h rs → ∃ t, exec (.mul c h o) s = .next t ∧
      ScalarWrite s t c o.sd (a * b) (tset k.regAt o.sd.toNat (k.cyc + 3))) ∧
    (Dispatches s c (.and c h o) h rs → ∃ t, exec (.and c h o) s = .next t ∧ ScalarWrite s t c o.sd (a &&& b) k.regAt) ∧
    (Dispatches s c (.or c h o) h rs → ∃ t, exec (.or c h o) s = .next t ∧ ScalarWrite s t c o.sd (a ||| b) k.regAt) ∧
    (Dispatches s c (.xor c h o) h rs → ∃ t, exec (.xor c h o) s = .next t ∧ ScalarWrite s t c o.sd (a ^^^ b) k.regAt) ∧
    (Dispatches s c (.shl c h o) h rs → ∃ t, exec (.shl c h o) s = .next t ∧
      ScalarWrite s t c o.sd (a <<< (b.toNat % 64)) k.regAt) ∧
    (Dispatches s c (.shr c h o) h rs → ∃ t, exec (.shr c h o) s = .next t ∧
      ScalarWrite s t c o.sd (a >>> (b.toNat % 64)) k.regAt) ∧
    (Dispatches s c (.sra c h o) h rs → ∃ t, exec (.sra c h o) s = .next t ∧
      ScalarWrite s t c o.sd (a.sshiftRight (b.toNat % 64)) k.regAt) ∧
    (Dispatches s c (.min c h o) h rs → ∃ t, exec (.min c h o) s = .next t ∧
      ScalarWrite s t c o.sd (if b.toInt < a.toInt then b else a) k.regAt) ∧
    (Dispatches s c (.max c h o) h rs → ∃ t, exec (.max c h o) s = .next t ∧
      ScalarWrite s t c o.sd (if a.toInt < b.toInt then b else a) k.regAt)

/-- MOVI writes IMM (R104); SPR writes the value FN selects: core number in its tile, tile, partition, launch, fabric time,
session handle, plate set (R104); SQRY writes the slot table entry (R71, R134); PERF writes the counter SEL selects (R134). -/
def Obligations.ScalarReadsWriteWhatTheySelect : Prop :=
  ∀ (s : State) (c : Nat) (h : Hdr),
    let k := getCore s c
    (∀ o : SqArgs, Dispatches s c (.movi c h o) h [o.sd] →
      ∃ t, exec (.movi c h o) s = .next t ∧ ScalarWrite s t c o.sd o.imm k.regAt) ∧
    (∀ (o : SqArgs) (x : CoreCtx), Dispatches s c (.spr c h o) h [o.sd] → k.ctx = some x →
      ∃ t v, exec (.spr c h o) s = .next t ∧ ScalarWrite s t c o.sd v k.regAt ∧
        (o.fn = 0 → v.toNat = c % 16) ∧ (o.fn = 1 → v.toNat = c / 16) ∧ (o.fn = 2 → v = BitVec.ofNat 64 x.part) ∧
        (o.fn = 3 → v = BitVec.ofNat 64 x.launch) ∧ (o.fn = 4 → v = BitVec.ofNat 64 s.time.ftime) ∧
        (o.fn = 5 → v.toNat = x.handle.toNat) ∧ (o.fn = 6 → v.toNat = x.pset.toNat)) ∧
    (∀ o : QryArgs, Dispatches s c (.sqry c h o) h [o.sd] →
      ∃ t v, exec (.sqry c h o) s = .next t ∧ ScalarWrite s t c o.sd v k.regAt ∧
        let e := slotOf k o.pad.toNat o.slot.toNat
        bits v 55 54 = stateCode e.st ∧ bits v 53 51 = e.owner.toNat ∧ bits v 50 46 = e.consumers.toNat ∧
        bits v 45 43 = e.producer.toNat ∧ bits v 35 28 = e.rowCount.toNat ∧ bits v 26 20 = e.firstRow.toNat ∧
        bits v 19 14 = e.bankCount.toNat ∧ bits v 13 9 = e.firstBank.toNat ∧ bit v 63 = e.retain) ∧
    (∀ o : PerfArgs, Dispatches s c (.perf c h o) h [o.sd] →
      ∃ t v, exec (.perf c h o) s = .next t ∧ ScalarWrite s t c o.sd v k.regAt ∧
        (o.sel = 0 → v = BitVec.ofNat 64 (k.cyc - k.markAt)) ∧ (o.sel = 1 → v = BitVec.ofNat 64 k.slipMx) ∧
        (o.sel = 2 → v = BitVec.ofNat 64 k.slipVx) ∧ (o.sel = 3 → v = BitVec.ofNat 64 k.cyc) ∧
        (o.sel = 4 → v = BitVec.ofNat 64 k.retired))

/-- SETP writes predicate PD with the comparison FN selects of s[SA] and B, and PLOG with the function FN selects of p[PA]
and p[PB] (R104); p0 stays true (R98). -/
def Obligations.PredicateInstructionsWriteTheirCondition : Prop :=
  ∀ (s : State) (c : Nat) (h : Hdr) (o : SqArgs),
    let k := getCore s c
    let a := sreg k o.sa
    let b := if o.immf then o.imm else sreg k o.sb
    (Dispatches s c (.setp c h o) h ([o.sa] ++ (if o.immf then [] else [o.sb])) →
      ∃ t v, exec (.setp c h o) s = .next t ∧ PredicateWrite s t c o.pd v ∧
        (o.fn = 0 → v = decide (a = b)) ∧ (o.fn = 1 → v = decide (a ≠ b)) ∧ (o.fn = 2 → v = decide (a.toInt < b.toInt)) ∧
        (o.fn = 3 → v = decide (a.toInt ≤ b.toInt)) ∧ (o.fn = 4 → v = decide (b.toInt < a.toInt)) ∧
        (o.fn = 5 → v = decide (b.toInt ≤ a.toInt)) ∧ (o.fn = 6 → v = decide (a.toNat < b.toNat)) ∧
        (o.fn = 7 → v = decide (b.toNat ≤ a.toNat))) ∧
    (Dispatches s c (.plog c h o) h [] →
      ∃ t v, exec (.plog c h o) s = .next t ∧ PredicateWrite s t c o.pd v ∧
        (o.fn = 0 → v = (preg k o.pa && preg k o.pb)) ∧ (o.fn = 1 → v = (preg k o.pa || preg k o.pb)) ∧
        (o.fn = 2 → v = (preg k o.pa ^^ preg k o.pb)) ∧ (o.fn = 3 → v = (preg k o.pa && !preg k o.pb)))

/-- NOP, a WAIT whose conditions hold and a FENCE with no store under way only go on (R104, R133, R136); MARK also sets the
mark counter to 0 in the next cycle (R81); BR goes on at its own address plus IMM, 3 cycles later (R104). -/
def Obligations.SequencerGoesOn : Prop :=
  ∀ (s : State) (c : Nat) (h : Hdr),
    let k := getCore s c
    (Dispatches s c (.nop c h) h [] → ∃ t, exec (.nop c h) s = .next t ∧ Passes s t c) ∧
    (∀ o : MarkArgs, Dispatches s c (.wait c h o) h [] → (∀ x ∈ [o.c0, o.c1, o.c2, o.c3], condHolds k x = true) →
      ∃ t, exec (.wait c h o) s = .next t ∧ Passes s t c) ∧
    (Dispatches s c (.fenceInstr c h) h [] → ∃ t, exec (.fenceInstr c h) s = .next t ∧ Passes s t c) ∧
    (∀ o : MarkArgs, Dispatches s c (.mark c h o) h [] → (∀ x ∈ [o.c0, o.c1, o.c2, o.c3], condHolds k x = true) →
      ∃ t, exec (.mark c h o) s = .next t ∧ OnlyCore s t c ∧ Retired k (getCore t c) ∧
        getCore t c = { k with
          markAt := k.cyc + 1, mapped := false,
          pc := (getCore t c).pc, loops := (getCore t c).loops, retired := k.retired + 1, sqAt := k.cyc + 1 }) ∧
    (∀ o : SqArgs, Dispatches s c (.br c h o) h [] →
      ∃ t, exec (.br c h o) s = .next t ∧ OnlyCore s t c ∧
        getCore t c = { k with
          mapped := false, pc := (loopNext k.loops (BitVec.ofNat 64 k.pc + o.imm).toNat).1,
          loops := (loopNext k.loops (BitVec.ofNat 64 k.pc + o.imm).toNat).2, retired := k.retired + 1, sqAt := k.cyc + 3 })

/-- LOOP with a count or a body of 0 goes on after the body; otherwise it enters the body with its count (R104, R105). END
takes effect at once, and the kernel of the core ends once the core has drained: the core is idle and its share of the launch
has ended (R103). -/
def Obligations.LoopAndEndOfKernel : Prop :=
  ∀ (s : State) (c : Nat) (h : Hdr) (o : SqArgs),
    let k := getCore s c
    let n := bits o.imm 15 0
    let count := bits (sreg k o.sa) 31 0
    (Dispatches s c (.loop c h o) h [o.sa] → ∃ t, exec (.loop c h o) s = .next t ∧ OnlyCore s t c ∧
      (count = 0 ∨ n = 0 → getCore t c = { k with
          mapped := false, pc := (loopNext k.loops (k.pc + n + 1)).1, loops := (loopNext k.loops (k.pc + n + 1)).2,
          retired := k.retired + 1, sqAt := k.cyc + 1 }) ∧
      (count ≠ 0 → n ≠ 0 → getCore t c = { k with
          mapped := false, pc := k.pc + 1, loops := ⟨k.pc + 1, k.pc + n, count⟩ :: k.loops,
          retired := k.retired + 1, sqAt := k.cyc + 1 })) ∧
    (Dispatches s c (.end_ c h) h [] → ∃ t, exec (.end_ c h) s = .next t ∧
      t = setCore s c { k with run := .ended, retired := k.retired + 1, sqAt := k.cyc + 1, mapped := false }) ∧
    (c < 128 → k.run = .ended → k.qLd = [] → k.qSt = [] → k.qMx = [] → k.qVx = [] → k.flights = [] →
      ∃ t, exec (.kernelEnd c) s = .next t ∧ (getCore t c).run = .idle ∧ (getCore t c).ctx = none ∧
        (∀ j, j ≠ c → getCore t j = getCore s j) ∧ t.mem = s.mem ∧
        (∀ x, k.ctx = some x → ∀ l ∈ s.launches, l.id = x.launch → ∃ l' ∈ t.launches, l'.id = l.id ∧ c ∈ l'.ended))

/-- The guard (R100): an instruction whose guard does not hold takes one dispatch cycle and has no other effect: only the position in
the program changes. PRED 0 with PNEG 1 never holds. The one exception is an END at the last address, which R478 has stop the core. -/
def Obligations.GuardOffPassesOver : Prop :=
  ∀ (s : State) (c : Nat) (h : Hdr) (i : Instr),
    let k := getCore s c
    (h.pred = 0 → h.pneg = true → guardOn k h = false) ∧
    (coreHdr i = some h → coreOfInstr i = some c → Calm s c → illegalField i = none → guardOn k h = false →
      (∀ g, i = .end_ c g → (loopNext k.loops (k.pc + 1)).1 ≠ k.ibuf.length) →
      ∃ t, exec i s = .next t ∧ Passes s t c)

/-- BMAP writes the bank map of one or two ports (R132). SLOT defines a slot that is EMPTY, at the end of its cycle (R131);
SCLR makes a FULL slot EMPTY (R135). -/
def Obligations.SlotAndMapInstructions : Prop :=
  ∀ (s : State) (c : Nat) (h : Hdr),
    let k := getCore s c
    (∀ o : BmapArgs, Dispatches s c (.bmap c h o) h [] → ∃ t, exec (.bmap c h o) s = .next t ∧ OnlyCore s t c ∧
      Retired k (getCore t c) ∧ (getCore t c).mapped = true ∧
      (o.v1 = false ∨ o.port1 ≠ o.port0 → mapOf (getCore t c) o.port0.toNat = o.map0) ∧
      (o.v1 = true → mapOf (getCore t c) o.port1.toNat = o.map1) ∧
      (∀ p, p ≠ o.port0.toNat → (o.v1 = true → p ≠ o.port1.toNat) → mapOf (getCore t c) p = mapOf k p) ∧
      (getCore t c).padW = k.padW ∧ (getCore t c).padA = k.padA ∧ (getCore t c).padP = k.padP ∧ (getCore t c).gpr = k.gpr) ∧
    (∀ o : SlotArgs, Dispatches s c (.slot c h o) h [] → (slotOf k o.pad.toNat o.slot.toNat).st = .empty →
      ∃ t, exec (.slot c h o) s = .next t ∧ OnlyCore s t c ∧ Retired k (getCore t c) ∧
        (let e := slotOf (getCore (endCycle t c) c) o.pad.toNat o.slot.toNat
         e.st = .empty ∧ e.rowCount = o.rowCount ∧ e.firstRow = o.firstRow ∧ e.bankCount = o.bankCount ∧
         e.firstBank = o.firstBank ∧ e.producer = o.producer ∧ e.consumers = o.consumers ∧ e.retain = o.retain) ∧
        (∀ n, n ≠ o.slot.toNat → slotOf (getCore (endCycle t c) c) o.pad.toNat n = slotOf k o.pad.toNat n)) ∧
    (∀ o : SclrArgs, Dispatches s c (.sclr c h o) h [] → (slotOf k o.pad.toNat o.slot.toNat).st = .full →
      ∃ t, exec (.sclr c h o) s = .next t ∧ OnlyCore s t c ∧ Retired k (getCore t c) ∧
        slotOf (getCore (endCycle t c) c) o.pad.toNat o.slot.toNat =
          { slotOf k o.pad.toNat o.slot.toNat with st := .empty, owner := 7 } ∧
        (∀ n, n ≠ o.slot.toNat → slotOf (getCore (endCycle t c) c) o.pad.toNat n = slotOf k o.pad.toNat n))

/-- LDS reads its row in this cycle and writes s[SD] with the 1, 2, 4 or 8 bytes FN selects at the byte offset IMM[31:0] + s[SA]
of the slot, zero- or sign-extended, usable 4 cycles later; STS writes the low bytes of s[SB] there, in this cycle (R104, R106). SHW
checks its address, leaves s[SD] pending, and waits for memory (R101, R104). -/
def Obligations.SequencerPadAccesses : Prop :=
  ∀ (s : State) (c : Nat) (h : Hdr) (o : SqArgs),
    let k := getCore s c
    let n := 2 ^ (o.fn.toNat % 4)
    let off := (bits o.imm 31 0 + (sreg k o.sa).toNat) % 2 ^ 64
    let slot := bits o.imm 60 55
    let key := slotKey (slotOf k 1 slot) (off / 128)
    let raw := leNat (((rowBytes k.padA 1 key).drop (off % 128)).take n)
    let use : Access → SlotUse := fun a => { pad := 1, slot := slot, acc := a, flag := bit o.imm 63, r0 := off / 128, n := 1 }
    (Dispatches s c (.lds c h o) h [o.sd, o.sa] → checkUse k 0 (use .read) = .ok → off % n = 0 →
      ∃ t, exec (.lds c h o) s = .next t ∧ OnlyCore s t c ∧ Retired k (getCore t c) ∧ (getCore t c).gpr = k.gpr ∧
        (getCore t c).padA = k.padA ∧ tget 0 (getCore t c).regAt o.sd.toNat = k.cyc + 4 ∧
        (Reaches k 0 1 slot → PadsSound k →
          let u := getCore (afterCycles c 4 t) c
          sreg u o.sd = (if o.sd = 0 then 0 else if bit o.fn 2 then ofInt 64 (signed (8 * n) raw) else BitVec.ofNat 64 raw) ∧
          (∀ r, r ≠ o.sd → sreg u r = sreg k r) ∧ (∀ j, rowBytes u.padA 1 j = rowBytes k.padA 1 j) ∧ u.cyc = k.cyc + 4)) ∧
    (Dispatches s c (.sts c h o) h [o.sa, o.sb] → checkUse k 0 (use .write) = .ok → off % n = 0 → Reaches k 0 1 slot →
      ∃ t, exec (.sts c h o) s = .next t ∧ OnlyCore s t c ∧ Retired k (getCore t c) ∧ (getCore t c).gpr = k.gpr ∧
        let x := getCore (endCycle t c) c
        rowBytes x.padA 1 key = (rowBytes k.padA 1 key).take (off % 128) ++ natLE n (sreg k o.sb).toNat ++
          (rowBytes k.padA 1 key).drop (off % 128 + n) ∧
        (∀ j, j ≠ key → rowBytes x.padA 1 j = rowBytes k.padA 1 j) ∧ x.padW = k.padW ∧ x.padP = k.padP) ∧
    (Dispatches s c (.shw c h o) h [o.sd, o.sa] → (sreg k o.sa + o.imm).toNat % 4 = 0 →
      ∃ t, exec (.shw c h o) s = .next t ∧ OnlyCore s t c ∧ Retired k (getCore t c) ∧ (getCore t c).gpr = k.gpr ∧
        (o.sd ≠ 0 → tget 0 (getCore t c).regAt o.sd.toNat = never) ∧
        ∃ f, (getCore t c).flights = [f] ∧ f.eng = 0 ∧ f.addr = k.pc ∧
          f.mem.map (fun q => (q.ins, q.sc.a)) = some (.shw c h o, sreg k o.sa + o.imm))

/-! ## The engines -/

/-- An LD or ST whose slot operand passes its check and whose address and stride are multiples of 16, an LDKV, LDSK or STKV
whose slot passes, and an STSH whose address is a multiple of 4 issue at once in the order of their queue: the instruction is
in flight until its last access, its slot changes at the end of the cycle, and the register it will write is pending (R76,
R99, R101, R108, R110 to R112). -/
def Obligations.MemoryInstructionsIssue : Prop :=
  ∀ (s : State) (c : Nat) (h : Hdr) (o : LdArgs),
    let k := getCore s c
    let a := sreg k o.sa
    let r0 := o.row.toNat + (sreg k o.sc).toNat
    let n := (o.nrows.toNat + 1) * ceilDiv o.rbytes.toNat (rowW o.sref.pad.toNat)
    let use : Access → Nat → SlotUse := fun acc n =>
      { pad := o.sref.pad.toNat, slot := o.sref.slot.toNat, acc := acc, flag := o.sref.flag, r0 := if n = 0 then 0 else r0, n := n }
    let flies : State → Instr → Nat → List SlotUse → Prop := fun t i eng us =>
      OnlyCore s t c ∧ Retired k (getCore t c) ∧ (getCore t c).qLd = [] ∧ (getCore t c).qSt = [] ∧
      (getCore t c).padW = k.padW ∧ (getCore t c).padA = k.padA ∧ (getCore t c).padP = k.padP ∧ (getCore t c).gpr = k.gpr ∧
      ∃ f q, (getCore t c).flights = [f] ∧ f.eng = eng ∧ f.addr = k.pc ∧ f.mem = some q ∧ q.ins = i ∧ q.sc.a = a ∧
        q.sc.b = sreg k o.sb ∧ f.evs = us.flatMap (fun u => issueEv u k.cyc)
    (Dispatches s c (.ld c h o) h [o.sa, o.sb, o.sc] → checkUse k 1 (use .write n) = .ok → a.toNat % 16 = 0 →
      (sreg k o.sb).toNat % 16 = 0 → ∃ t, exec (.ld c h o) s = .next t ∧ flies t (.ld c h o) 1 [use .write n]) ∧
    (Dispatches s c (.st c h o) h [o.sa, o.sb, o.sc] → checkUse k 2 (use .read n) = .ok → a.toNat % 16 = 0 →
      (sreg k o.sb).toNat % 16 = 0 → ∃ t, exec (.st c h o) s = .next t ∧ flies t (.st c h o) 2 [use .read n]) ∧
    (Dispatches s c (.ldkv c h o) h [o.sa, o.sb, o.sc, o.sd] → checkUse k 1 (use .write 0) = .ok →
      ∃ t, exec (.ldkv c h o) s = .next t ∧ flies t (.ldkv c h o) 1 [use .write 0] ∧
        (o.sd ≠ 0 → tget 0 (getCore t c).regAt o.sd.toNat = never)) ∧
    (Dispatches s c (.ldsk c h o) h [o.sa, o.sb, o.sc, o.sd] → checkUse k 1 (use .write 0) = .ok →
      ∃ t, exec (.ldsk c h o) s = .next t ∧ flies t (.ldsk c h o) 1 [use .write 0] ∧
        (o.sd ≠ 0 → tget 0 (getCore t c).regAt o.sd.toNat = never)) ∧
    (Dispatches s c (.stkv c h o) h [o.sa, o.sb, o.sc, o.sd] → checkUse k 2 (use .read 0) = .ok →
      ∃ t, exec (.stkv c h o) s = .next t ∧ flies t (.stkv c h o) 2 [use .read 0] ∧
        (o.sd ≠ 0 → tget 0 (getCore t c).regAt o.sd.toNat = never)) ∧
    (Dispatches s c (.stsh c h o) h [o.sa, o.sb] → a.toNat % 4 = 0 →
      ∃ t, exec (.stsh c h o) s = .next t ∧ flies t (.stsh c h o) 2 [])

/-- The last access of an LD whose rows lie in memory of the core's partition without an error writes its rows to the slot,
each on a slot row boundary, from slot row ROW + s[SC] on, one row of each bank a cycle, and closes the slot with the last where CLOSE
is set (R66, R76, R95, R107, R108). -/
def Obligations.LoadWritesItsSlot : Prop :=
  ∀ (s : State) (c : Nat) (h : Hdr) (o : LdArgs) (f : Flight) (q : Queued) (x : CoreCtx),
    let k := getCore s c
    let pad := o.sref.pad.toNat
    let e := slotOf k pad o.sref.slot.toNat
    let r0 := o.row.toNat + q.sc.c.toNat
    let w := rowW pad
    let rpr := ceilDiv o.rbytes.toNat w
    let rd : Nat → MemRead := fun i => readPart s x.part x.pset (q.sc.a + BitVec.ofNat 64 i * q.sc.b).toNat o.rbytes.toNat
    c < 128 → k.run = .running → k.ctx = some x → k.flights = [f] → f.eng = 1 → f.evs = [] → f.mem = some q →
    q.ins = .ld c h o → k.qLd = [] → k.qSt = [] → k.qMx = [] → k.qVx = [] → pad < 3 → 0 < o.rbytes.toNat →
    r0 + (o.nrows.toNat + 1) * rpr ≤ slotRows e → e.firstRow.toNat + e.rowCount.toNat ≤ 128 → Reaches k 1 pad o.sref.slot.toNat →
    (∀ i, i ≤ o.nrows.toNat → (rd i).err = none ∧ (rd i).ue = none ∧ (rd i).ces = []) →
    ∃ t, exec (.instructionLastAccess c 1) s = .next t ∧ (getCore t c).flights = [] ∧
      (getCore t c).cyc = k.cyc + ((o.nrows.toNat + 1) * rpr - 1) / e.bankCount.toNat + 1 ∧
      (∀ i j, i ≤ o.nrows.toNat → j < rpr →
        (rowBytes (getPad (getCore t c) pad) pad (slotKey e (r0 + i * rpr + j))).take (Nat.min w (o.rbytes.toNat - j * w)) =
          ((rd i).bytes.drop (j * w)).take w) ∧
      (o.sref.flag = true → (slotOf (getCore t c) pad o.sref.slot.toNat).st = .full) ∧
      (∀ j, j ≠ c → getCore t j = getCore s j) ∧ t.mem = s.mem

/-- The last access of an STSH writes the low 4 bytes of its operand to a near working page of the partition that no exposure
holds, and the last access of an SHW writes its register with the 4 bytes it reads, zero-extended (R104, R112, R228). -/
def Obligations.ShapeWordsMove : Prop :=
  ∀ (s : State) (c : Nat) (f : Flight) (q : Queued) (x : CoreCtx) (fr : Nat),
    let k := getCore s c
    let a := q.sc.a.toNat
    let o := a % 65536
    c < 128 → k.run = .running → k.ctx = some x → k.flights = [f] → f.evs = [] → f.mem = some q → a < 2 ^ 46 → a % 4 = 0 →
    k.qLd = [] → k.qSt = [] → k.qMx = [] → k.qVx = [] →
    (getPart s x.part).nearPages[a / 65536]? = some fr → fr < 0x80000000 → (getFrame s fr).refcnt ≤ 1 →
    (∀ h p, f.eng = 2 → q.ins = .stsh c h p → ∃ t, exec (.instructionLastAccess c 2) s = .next t ∧
      (getCore t c).flights = [] ∧ readFrame t fr o 4 = natLE 4 q.sc.b.toNat ∧
      (∀ g i n, g ≠ fr → i + n ≤ 65536 → readFrame t g i n = readFrame s g i n) ∧
      (∀ i n, i + n ≤ o → readFrame t fr i n = readFrame s fr i n) ∧
      (∀ i n, o + 4 ≤ i → i + n ≤ 65536 → readFrame t fr i n = readFrame s fr i n)) ∧
    (∀ h p, f.eng = 0 → q.ins = .shw c h p → (∀ e ∈ s.mem.bad, e.1 / 1024 ≠ fr) →
      ∃ t, exec (.instructionLastAccess c 0) s = .next t ∧ (getCore t c).flights = [] ∧ t.mem = s.mem ∧
        sreg (getCore t c) p.sd = (if p.sd = 0 then 0 else BitVec.ofNat 64 (leNat (readFrame s fr o 4))) ∧
        (∀ r, r ≠ p.sd → sreg (getCore t c) r = sreg k r))

/-- An MX, MXSCAN, MXCMB or MXCVT whose slots pass their checks and are large enough issues at once, the latter three with the engine
free: it is in flight on the Matrix engine with its slot changes (R50, R53, R76, R113, R119, R121). MXCMB reads a row of each operand a
cycle for each bank, forms the combination of their entries and writes it 6 cycles after the read (R120). -/
def Obligations.MatrixInstructionsIssue : Prop :=
  ∀ (s : State) (c : Nat) (h : Hdr) (o : MxArgs),
    let k := getCore s c
    let r := sreg k o.sr
    let sA := mxSlot k o.sa r 0
    let sW := mxSlot k o.sw r 1
    let sO := mxSlot k o.so r 2
    let sC := mxSlot k o.sc r 3
    let m := o.mm.toNat + 1
    let n := o.nn.toNat + 1
    let fits : List (SlotView × Nat) → Prop := fun l => ∀ x ∈ l, x.2 ≤ slotRows x.1.e
    let ready : Instr → Prop := fun i => Dispatches s c i h [o.sr] ∧ k.busyMx ≤ k.cyc ∧ OffsetReached k h
    let issues : State → List SlotUse → Prop := fun t us => IssuedAtOnce s t c ∧
      ∃ f, (getCore t c).flights = [f] ∧ f.eng = 3 ∧ f.addr = k.pc ∧ f.mem = none ∧ (∀ e ∈ f.evs, isStop e.2 = false) ∧
        (∀ u ∈ us, ∀ e ∈ issueEv u k.cyc, e ∈ f.evs) ∧ (∀ u ∈ us, ∃ n, ∀ e ∈ endEv u n, e ∈ f.evs)
    (let fd := foldOf o
     let la : Lay := { fmt := o.fa.toNat, scaled := !o.pcs && fmtBlock o.fa.toNat, sp := false }
     let lw : Lay := { fmt := o.fw.toNat, scaled := !o.pcs && fmtBlock o.fw.toNat, sp := o.sp }
     let nA := if o.is then heldRows fd la else strmRows fd la
     let nW := if o.is then strmRows fd lw else heldRows fd lw
     let nO := outRows (outLay o fd.held) fd
     let us := [mxUse sA .read o.sa.flag nA, mxUse sW .read o.sw.flag nW, mxUse sO (if o.acc then .update else .write) o.so.flag nO] ++
       (if o.pcs then [mxUse sC .read o.sc.flag (scRows fd.m fd.n)] else [])
     ready (.mx c h o) → residueInjection s c = none → SlotsPass k 3 us →
     fits ([(sA, nA), (sW, nW), (sO, nO)] ++ (if o.pcs then [(sC, scRows fd.m fd.n)] else [])) →
     ∃ t, exec (.mx c h o) s = .next t ∧ issues t us) ∧
    (let rr := ceilDiv (ceilDiv ((o.kk.toNat + 1) * 16) 32) 128
     let nO := (if o.is then n else m) * ceilDiv (16 * (if o.is then m else n)) 256
     let us := [mxUse sA .read o.sa.flag (m * rr), mxUse sW .read o.sw.flag (n * rr), mxUse sO .write o.so.flag nO]
     ready (.mxscan c h o) → k.mxOut ≤ k.cyc → SlotsPass k 3 us → fits [(sA, m * rr), (sW, n * rr), (sO, nO)] →
     ∃ t, exec (.mxscan c h o) s = .next t ∧ issues t us) ∧
    (let e := m * n
     let rows := ceilDiv (16 * e) 256
     let us := [mxUse sA .read o.sa.flag rows, mxUse sO .update o.so.flag rows]
     let per := Nat.max 1 (Nat.min sA.e.bankCount.toNat sO.e.bankCount.toNat)
     let entry : Flight → Nat → Nat → Nat → Entry := fun f op i j => entryOf (leNat (((gotRow f 256 op i).drop (16 * j)).take 16))
     (ready (.mxcmb c h o) → k.mxOut ≤ k.cyc → SlotsPass k 3 us → fits [(sA, rows), (sO, rows)] →
       ∃ t, exec (.mxcmb c h o) s = .next t ∧ issues t us ∧ ∃ f, (getCore t c).flights = [f] ∧ ∀ i, i < rows →
         (k.cyc + i / per, FlightEv.read (opIx 0 i) 0 sA.pad sA.slot (slotKey sA.e (sA.r0 + i))) ∈ f.evs ∧
         (k.cyc + i / per, FlightEv.read (opIx 1 i) 0 sO.pad sO.slot (slotKey sO.e (sO.r0 + i))) ∈ f.evs ∧
         (k.cyc + 5 + i / per, FlightEv.form 2 0 i) ∈ f.evs ∧
         (k.cyc + 6 + i / per, FlightEv.put (opIx 0 i) 0 0 sO.pad sO.slot (slotKey sO.e (sO.r0 + i) * 256) (Nat.min 256 (16 * e - 256 * i)))
           ∈ f.evs) ∧
     (∀ f q i, k.flights = [f] → f.eng = 3 → f.job = some q → q.ins = .mxcmb c h o → f.evs = [(k.cyc, .form 2 0 i)] → k.cyc < f.due →
       ∃ g, (getCore (endCycle s c) c).flights = [g] ∧ tget [] g.out (opIx 0 i) =
         (List.range (Nat.min 16 (e - 16 * i))).flatMap (fun j => entryBytes (combine (entry f 1 i j) (entry f 0 i j))))) ∧
    (let ri := ceilDiv (16 * n) 256
     let ro := ceilDiv (outBytes o.fo.toNat n true) 128
     let us := [mxUse sA .read o.sa.flag (m * ri), mxUse sO .write o.so.flag (m * ro)] ++
       (if o.pcs then [mxUse sC .read o.sc.flag (scRows m n)] else [])
     ready (.mxcvt c h o) → k.mxOut ≤ k.cyc → SlotsPass k 3 us →
     fits ([(sA, m * ri), (sO, m * ro)] ++ (if o.pcs then [(sC, scRows m n)] else [])) →
     ∃ t, exec (.mxcvt c h o) s = .next t ∧ issues t us)

/-- The lane instructions of the Vector engine without a pad operand: lane i of vd takes the function of lane i of the
sources, FP32 with round to nearest, usable 4 cycles after issue (R123, R130).
VEXP2, VRCP and VRSQ take 6 cycles (R124, R130), VRNG 12 (R129, R394); VSPL copies IMM or s[SA] to every lane (R123);
VRED writes a scalar register with the sum, largest, smallest or index of the largest of the 128 lanes (R125). -/
def Obligations.VectorRegisterInstructions : Prop :=
  (∀ (s : State) (c : Nat) (h : Hdr) (o : VxArgs),
    let k := getCore s c
    let a := vregOf k o.va
    let b := vregOf k o.vb
    let m := vregOf k o.vc
    let writes : Instr → Lanes → Prop := fun i x =>
      VectorIssues s c i h [] → ∃ t, exec i s = .next t ∧ IssuedAtOnce s t c ∧ (getCore t c).flights = [] ∧ VectorWrite s t c o.vd x 4
    writes (.vadd c h o) (Vector.ofFn (fun i => fadd a[i] b[i])) ∧
    writes (.vsub c h o) (Vector.ofFn (fun i => fsub a[i] b[i])) ∧
    writes (.vmul c h o) (Vector.ofFn (fun i => fmul a[i] b[i])) ∧
    writes (.vfma c h o) (Vector.ofFn (fun i => ffma a[i] b[i] m[i])) ∧
    writes (.vmax c h o) (Vector.ofFn (fun i => fmax a[i] b[i])) ∧
    writes (.vmin c h o) (Vector.ofFn (fun i => fmin a[i] b[i])) ∧
    writes (.vcmp c h o) (Vector.ofFn (fun i => if vcmpCond o.fn.toNat a[i] b[i] then 0xFFFFFFFF else 0)) ∧
    writes (.vsel c h o) (Vector.ofFn (fun i => if m[i] = 0 then b[i] else a[i])) ∧
    writes (.vcvt c h o) (loadLanes o.fmt.toNat (bit o.fn 0) (storeLanes o.fmt.toNat (bit o.fn 0) (bit o.fn 1) a))) ∧
  (∀ (s : State) (c : Nat) (h : Hdr) (o : VxArgs),
    let k := getCore s c
    let a := vregOf k o.va
    let writes : Instr → List (BitVec 5) → Lanes → Nat → Prop := fun i rs x lat =>
      VectorIssues s c i h rs → ∃ t, exec i s = .next t ∧ IssuedAtOnce s t c ∧ (getCore t c).flights = [] ∧ VectorWrite s t c o.vd x lat
    writes (.vexp2 c h o) [] (Vector.ofFn (fun i => fexp2 a[i])) 6 ∧
    writes (.vrcp c h o) [] (Vector.ofFn (fun i => frcp a[i])) 6 ∧
    writes (.vrsq c h o) [] (Vector.ofFn (fun i => frsq a[i])) 6 ∧
    (bit o.fn 0 = true → writes (.vspl c h o) [] (Vector.replicate 128 o.imm) 4) ∧
    (bit o.fn 0 = false → writes (.vspl c h o) [o.sa] (Vector.replicate 128 (BitVec.ofNat 32 (sreg k o.sa).toNat)) 4) ∧
    writes (.vrng c h o) [o.sa, o.sb, o.sr, o.vc] (Vector.ofFn (fun i =>
      let x := gen (sreg k o.sa) (sreg k o.sb) (sreg k o.sr) (sreg k o.vc + BitVec.ofNat 64 i.val)
      if bit o.fn 0 then pack32 false (x.toNat >>> 8) (-24) else x)) 12 ∧
    (VectorIssues s c (.vred c h o) h [o.vd] → ∃ t, exec (.vred c h o) s = .next t ∧ OnlyCore s t c ∧ Retired k (getCore t c) ∧
      (getCore t c).vreg = k.vreg ∧ (∀ r, r ≠ o.vd → sreg (getCore t c) r = sreg k r) ∧
      (o.vd ≠ 0 → tget 0 (getCore t c).regAt o.vd.toNat = k.cyc + 10 ∧
        (o.fn = 0 → sreg (getCore t c) o.vd = BitVec.ofNat 64 (tree fadd a).toNat) ∧
        (o.fn = 1 → sreg (getCore t c) o.vd = BitVec.ofNat 64 (tree fmax a).toNat) ∧
        (o.fn = 2 → sreg (getCore t c) o.vd = BitVec.ofNat 64 (tree fmin a).toNat) ∧
        (o.fn = 3 → sreg (getCore t c) o.vd = BitVec.ofNat 64 (argmax a)))))

/-- The Vector engine instructions with a slot operand that passes its check issue at once (R122, R123, R126 to R128, R130), with rv the
cycles of their rows: VLD, VROT and VBIAS read their rows in cycles 0 to rv − 1, and vd is usable in cycle rv + 3, rv + 7 and rv + 5;
VMSK reads one row in cycle 0, and vd is usable in cycle 5; without a mask it reads nothing, and its lanes are usable in cycle 4. VST
writes the vector in cycles 1 to rv. VSMX reads and writes its entries, in row mode in cycles 0 and 19, in lane mode in cycles 0 to
rv − 1 and rv + 13 to 2rv + 12, and vd and vb are usable in the cycle after the last, or in lane mode after it.
Under way, each of them and LDS, by itself in a cycle (R59, R66, R104, R123, R126 to R128): a cycle
in which rows are read puts their bytes in its buffer; the cycle before its result is usable writes the register with the function of
the rows it has read and of the lanes it held, and VSMX writes vb with C after vd. Nothing else of the core's registers changes. -/
def Obligations.VectorSlotInstructions : Prop :=
  (∀ (s : State) (c : Nat) (h : Hdr) (o : VxArgs),
    let k := getCore s c
    let pad := o.sref.pad.toNat
    let slot := o.sref.slot.toNat
    let e := slotOf k pad slot
    let nb := Nat.max 1 e.bankCount.toNat
    let w := rowW pad
    let row := o.row.toNat + (sreg k o.sr).toNat
    let use : Access → Nat → Nat → SlotUse := fun acc r n => { pad := pad, slot := slot, acc := acc, flag := o.sref.flag, r0 := r, n := n }
    let ready : Instr → List (BitVec 5) → SlotUse → Prop := fun i rs u => VectorIssues s c i h rs ∧ checkUse k 4 u = .ok
    let usable : State → BitVec 5 → Nat → Prop := fun t v lat => tget 0 (getCore t c).vecAt v.toNat = k.cyc + lat
    let issues : State → SlotUse → Nat → Nat → List (Nat × FlightEv) → Prop := fun t u done busy evs =>
      IssuedAtOnce s t c ∧ (getCore t c).vreg = k.vreg ∧ (getCore t c).busyVx = k.cyc + busy ∧
      ∃ f, (getCore t c).flights = [f] ∧ f.eng = 4 ∧ f.addr = k.pc ∧ (∀ e ∈ f.evs, isStop e.2 = false) ∧
        (∀ e ∈ issueEv u k.cyc ++ endEv u (k.cyc + done) ++ evs, e ∈ f.evs) ∧
        (u.acc ≠ .write → ∀ j, j < u.n → (k.cyc + j / nb, .read j 0 pad slot (slotKey e (u.r0 + j))) ∈ f.evs)
    let rv : Nat → Nat := fun n => ceilDiv n nb
    (let n := ceilDiv (vecBytes o.fmt.toNat (bit o.fn 0)) w
     (ready (.vld c h o) [o.sr] (use .read row n) → ∃ t, exec (.vld c h o) s = .next t ∧ usable t o.vd (rv n + 3) ∧
       issues t (use .read row n) (rv n - 1) (rv n) [(k.cyc + rv n + 2, .form 0 n 0)]) ∧
     (ready (.vst c h o) [o.sr] (use .write row n) → ∃ t, exec (.vst c h o) s = .next t ∧
       (let d := storeLanes o.fmt.toNat (bit o.fn 0) (bit o.fn 1) (vregOf k o.va)
        issues t (use .write row n) (rv n) (rv n) ((List.range (ceilDiv d.length w)).map (fun j =>
          (k.cyc + 1 + j / nb, .write pad slot (slotKey e (row + j) * w) ((d.drop (j * w)).take w))))))) ∧
    (let n := ceilDiv 256 w
     ready (.vrot c h o) [o.sa, o.sr] (use .read row n) → ∃ t, exec (.vrot c h o) s = .next t ∧ usable t o.vd (rv n + 7) ∧
       issues t (use .read row n) (rv n - 1) (rv n) [(k.cyc + rv n + 6, .form 0 n 0)]) ∧
    (let n := ceilDiv 512 w
     ready (.vbias c h o) [o.sa, o.sb, o.sr] (use .read row n) → ∃ t, exec (.vbias c h o) s = .next t ∧ usable t o.vd (rv n + 5) ∧
       issues t (use .read row n) (rv n - 1) (rv n) [(k.cyc + rv n + 4, .form 0 n 0)]) ∧
    (let off := row * w + o.imm.toNat
     o.fn = 0 → ready (.vmsk c h o) [o.sr] (use .read (off / w) 1) → ∃ t, exec (.vmsk c h o) s = .next t ∧ usable t o.vd 5 ∧
       issues t (use .read (off / w) 1) 0 1 [(k.cyc + 4, .form 0 (off % w) 0)]) ∧
    (o.fn ≠ 0 → VectorIssues s c (.vmsk c h o) h [o.sa, o.sb] → ∃ t, exec (.vmsk c h o) s = .next t ∧ IssuedAtOnce s t c ∧
       VectorWrite s t c o.vd (Vector.ofFn (fun i =>
         if (BitVec.ofNat 32 (sreg k o.sa).toNat).toNat < (BitVec.ofNat 32 (sreg k o.sb).toNat).toNat + i.val then inf32 true
         else (vregOf k o.va)[i])) 4) ∧
    (let off := row * 256 + 16 * (sreg k o.sb).toNat
     o.fn = 0 → ready (.vsmx c h o) [o.sb, o.sr] (use .update (off / 256) 1) → ∃ t, exec (.vsmx c h o) s = .next t ∧
       usable t o.vd 20 ∧ usable t o.vb 20 ∧ issues t (use .update (off / 256) 1) 19 2 [(k.cyc + 18, .form 0 0 0),
         (k.cyc + 19, .put 0 0 0 2 slot (slotKey e (off / 256) * 256 + off % 256) 16), (k.cyc + 19, .form 1 0 0)]) ∧
    (o.fn ≠ 0 → ready (.vsmx c h o) [o.sb, o.sr] (use .update row 8) → ∃ t, exec (.vsmx c h o) s = .next t ∧
       usable t o.vd (2 * rv 8 + 13) ∧ usable t o.vb (2 * rv 8 + 13) ∧
       issues t (use .update row 8) (2 * rv 8 + 12) (rv 8) ([(k.cyc + rv 8 + 12, .form 0 0 0), (k.cyc + 2 * rv 8 + 12, .form 1 0 0)] ++
         (List.range 8).map (fun j => (k.cyc + rv 8 + 13 + j / nb, .put 0 (256 * j) 0 2 slot (slotKey e (row + j) * 256) 256))))) ∧
  (∀ (s : State) (c : Nat) (h : Hdr) (f : Flight) (q : Queued) (o : VxArgs),
    let k := getCore s c
    let t := getCore (endCycle s c) c
    let a := heldLanes f
    let w := rowW o.sref.pad.toNat
    c < 128 → k.flights = [f] →
    (∀ (l : List (Nat × Nat × Nat × Nat)) (later : List (Nat × FlightEv)), f.eng ≠ 3 → PadsSound k → (l.map (·.1)).Nodup →
      f.evs = l.map (fun x => (k.cyc, .read x.1 0 x.2.1 x.2.2.1 x.2.2.2)) ++ later → later ≠ [] → (∀ e ∈ later, k.cyc < e.1) →
      (∀ x ∈ l, bit (mapOf k (portOf f.eng x.2.1)) (x.2.2.2 / 128) = true) →
      ∃ g, t.flights = [g] ∧ g.evs = later ∧ g.job = f.job ∧ g.lanes = f.lanes ∧ t.vreg = k.vreg ∧ t.gpr = k.gpr ∧
        ∀ x ∈ l, tget [] g.got x.1 = rowBytes (getPad k x.2.1) x.2.1 x.2.2.2) ∧
    (∀ n, f.eng = 4 → f.job = some q → f.evs = [(k.cyc, .form 0 n 0)] →
      (q.ins = .vld c h o → t = { k with
        vreg := (setVreg k o.vd (loadLanes o.fmt.toNat (bit o.fn 0) (gotBytes f w n))).vreg, flights := t.flights, cyc := k.cyc + 1 }) ∧
      (q.ins = .vrot c h o → t = { k with
        vreg := (setVreg k o.vd (vrotLanes (bit o.fn 0) (bits q.sc.a 31 0) (gotBytes f w n) a)).vreg, flights := t.flights, cyc := k.cyc + 1 }) ∧
      (q.ins = .vbias c h o → t = { k with
        vreg := (setVreg k o.vd (vbiasLanes (BitVec.ofNat 32 q.sc.a.toNat) (BitVec.ofNat 32 q.sc.b.toNat) (gotBytes f w n) a)).vreg,
        flights := t.flights, cyc := k.cyc + 1 }) ∧
      (q.ins = .vmsk c h o → ∀ i, (hi : i < 128) → (vregOf t o.vd)[i] =
        if (leNat (((gotRow f w 0 0).drop n).take 16)).testBit i then a[i] else inf32 true)) ∧
    (∀ kind, f.eng = 4 → f.job = some q → q.ins = .vsmx c h o → f.evs = [(k.cyc, .form kind 0 0)] →
      (o.fn = 0 →
        let x := softmaxRow (if bit o.imm 0 then statInit else
          statOf (((gotRow f 256 0 0).drop (((o.row.toNat + q.sc.r.toNat) * 256 + 16 * q.sc.b.toNat) % 256)).take 16)) a
        (kind = 0 → k.cyc < f.due → ∃ g, t.flights = [g] ∧ tget [] g.out 0 = statBytes x.1 ∧ t.vreg = k.vreg) ∧
        (kind = 1 → vregOf t o.vb = Vector.replicate 128 x.1.c ∧ (o.vd ≠ o.vb → vregOf t o.vd = x.2) ∧
          ∀ v, v ≠ o.vd → v ≠ o.vb → vregOf t v = vregOf k v)) ∧
      (o.fn ≠ 0 → kind = 1 → ∀ i, (hi : i < 128) →
        let x := softmaxLane (if bit o.imm 0 then statInit else statOf (((gotBytes f 256 8).drop (16 * i)).take 16)) a[i]
        ((∀ j, j < 8 → (gotRow f 256 0 j).length = 256) →
          (vregOf t o.vb)[i] = x.1.c ∧ (o.vd ≠ o.vb → (vregOf t o.vd)[i] = x.2)))) ∧
    (∀ p off, f.eng = 0 → f.job = some q → q.ins = .lds c h p → f.evs = [(k.cyc, .form 0 off 0)] →
      (∀ r, r ≠ p.sd → sreg t r = sreg k r) ∧ t.vreg = k.vreg ∧
      sreg t p.sd = (if p.sd = 0 then 0 else
        let n := 2 ^ (p.fn.toNat % 4)
        let raw := leNat (((gotRow f 128 0 0).drop (off % 128)).take n)
        if bit p.fn 2 then ofInt 64 (signed (8 * n) raw) else BitVec.ofNat 64 raw)))

/-! ## Commands of the rings -/

/-- OPEN_SESSION on an Open or Timed ring opens the index the allocation gives, with the fields of its descriptor, and ends OK
with the session's handle; on a Fixed ring it asks the partner for a pairing and waits for the answer (R139, R141, R274,
R384). CLOSE_SESSION with its turn come frees the index at the next generation and ends OK (R142).
FORK on an Open or Timed ring, of a session whose pages up to N_TOKENS can be shared, opens a child at that position with
the parent's plate set and handle, and ends OK with the child's handle (R156, R275). -/
def Obligations.SessionsOpenForkAndClose : Prop :=
  (∀ (s : State) (r q i : Nat) (c : Cmd),
    let part := BitVec.ofNat 3 c.part
    (CanStart s r q 0x01 c → partnerBad c (dfield c 399 384) = false → nextIndex s c.part = some i →
      ∃ t, exec (.openSession r q) s = .next t ∧ OnlySession s t i ∧
        (let x := getSess t i
         x.st = .open_ ∧ x.gen = (getSess s i).gen ∧ x.seed = BitVec.ofNat 64 (dfield c 511 448) ∧ x.quota = dfield c 431 400 ∧
         x.plateset = c.set ∧ x.part = part ∧ x.cls = c.cls ∧ x.position = 0 ∧
         (c.cls ≠ clsFixed → Ended t r q stOk ((handleOf i x).toNat <<< 96)) ∧
         (c.cls = clsFixed → (findCmd t r q).map (·.wait) = some .pairing ∧ x.partner = BitVec.ofNat 16 (dfield c 399 384)))) ∧
    (CanStart s r q 0x02 c → openHandle s c.part (BitVec.ofNat 32 (dfield c 511 480)) = some i →
      sessionTurn s c (BitVec.ofNat 32 (dfield c 511 480)) = true → s.exps = [] → (getSess s i).gen.toNat < 16383 →
      ∃ t, exec (.closeSession r q) s = .next t ∧ OnlySession s t i ∧ Ended t r q stOk 0 ∧
        (getSess t i).st = .free ∧ (getSess t i).gen = (getSess s i).gen + 1 ∧ i ∈ t.freeIdx) ∧
    (CanStart s r q 0x02 c → openHandle s c.part (BitVec.ofNat 32 (dfield c 511 480)) = none →
      ∃ t, exec (.closeSession r q) s = .next t ∧ Faulted t r q ∧ t.sess = s.sess)) ∧
  (∀ (s u : State) (r q pa ch : Nat) (c : Cmd),
    let x := getSess s pa
    let n := dfield c 479 448
    let child := { newSess s c.part c.cls x.plateset (BitVec.ofNat 64 (dfield c 447 384)) (dfield c 383 352) with
                   parent := BitVec.ofNat 32 (dfield c 511 480), position := n }
    let s1 := openAt (startCmd (reclaim s c.part) r q) ch child
    CanStart s r q 0x05 c → openHandle s c.part (BitVec.ofNat 32 (dfield c 511 480)) = some pa → 0 < n → n ≤ x.position →
    (∀ y, findSet s c.part x.plateset = some y → y.st ≠ .broken) →
    partnerBad c (dfield c 351 336) = false → c.cls ≠ clsFixed → nextIndex s c.part = some ch → pa ≠ ch →
    (match sessGeo s pa with
     | none => u = s1
     | some g => forkPages s1 pa ch g (((mappedPages s pa g).map (·.1)).filter (fun k => decide (k.2.2 < ceilDiv n g.p))) = .done u) →
    ∃ t, exec (.fork r q) s = .next t ∧ t.sess = u.sess ∧ Ended t r q stOk ((handleOf ch (getSess t ch)).toNat <<< 96) ∧
      (getSess t ch).position = n ∧ (getSess t ch).plateset = x.plateset ∧
      (getSess t ch).parent = BitVec.ofNat 32 (dfield c 511 480))

/-- A PREFILL or DECODE whose turn has come and whose checks pass, with frames left for the pages its positions fall in and no line
in error on the way to them, becomes a step in the gather window of its partition: its pages are mapped, the tokens and the mask are
those checked, and the command is under way (R152, R179, R276). -/
def Obligations.StepsAreAccepted : Prop :=
  ∀ (s : State) (r q si : Nat) (c : Cmd) (ps : PlateSet) (g : Geo) (ts : List W32) (m : Option Mask) (prefill : Bool),
    let x := getSess s si
    let h := (handleIn c).getD 0
    let s1 := reclaim s c.part
    let pe := x.position + ts.length
    let need := unmappedPages s1 si g x.position pe
    CanStart s r q (if prefill then 0x03 else 0x04) c → openHandle s c.part h = some si → sessionTurn s c h = true →
    jobHeld s c.part = false → findSet s c.part x.plateset = some ps → ps.st ≠ .broken → checkStep s c x ps prefill = .ok (ts, m) →
    setGeo ps = some g → pe ≤ g.nleaf * 128 * g.p → (x.quota = 0 ∨ x.pages + need.length ≤ x.quota) →
    tablesErrors s1 x g (pagesFor g x.position pe) = ([], none) → Room s1 (4 * need.length) →
    ∃ t u, exec (if prefill then .prefill r q else .decode r q) s = .next t ∧ mapPages s1 si g need = some u ∧ t.sess = u.sess ∧
      UnderWay t r q ∧ (getPart t c.part).gatherAt ≠ 0 ∧
      ∃ st ∈ t.steps, st.ring = r ∧ st.seq = q ∧ st.part = c.part ∧ st.sess = some si ∧ st.prefill = prefill ∧ st.tokens = ts ∧
        st.mask = m ∧ st.pe = pe ∧ st.phase = .gather

/-- EVICT of pages to far memory, and to the session's host image, and RECALL of pages from both, in memory without errors and with
frames left, moves every page of the range that lies on the other side, and ends OK with the counts of the pages moved and of the
others (R161 to R163, R279). The session of a set without geometry has no page to move. -/
def Obligations.PagesMoveBetweenTiers : Prop :=
  ∀ (s : State) (r q i : Nat) (c : Cmd),
    let s1 := reclaim s c.part
    let x := getSess s i
    let named := openHandle s c.part (BitVec.ofNat 32 (dfield c 511 480)) = some i
    let moved : State → Nat → Nat → Prop := fun t n all => Ended t r q stOk (((n % 2 ^ 32) <<< 96) + (((all - n) % 2 ^ 32) <<< 64))
    (∀ (g : Geo), sessGeo s i = some g →
      let all := pagesNamed s1 c i g
      (let todo := all.filter (fun e => !e.2.host && !isFar e.2.pfn)
       CanStart s r q 0x06 c → named → dfield c 383 382 = 1 → (getKey s1 x.keySlot.toNat).st = .active → MemorySound s →
       Room s1 (4 * todo.length) → ∃ t, exec (.evict r q) s = .next t ∧ moved t todo.length all.length) ∧
      (let todo := all.filter (fun e => !e.2.host)
       CanStart s r q 0x06 c → named → dfield c 383 382 = 2 → (x.hostImage = 0 ∨ dfield c 319 256 = 0) → (getRing s r).mute = false →
       x.hostUsed.length + todo.length ≤ dfield c 255 224 → (getKey s1 x.keySlot.toNat).st = .active → MemorySound s →
       Room s1 (4 * todo.length) → ∃ t, exec (.evict r q) s = .next t ∧ moved t todo.length all.length) ∧
      (let todo := all.filter (fun e => e.2.host || isFar e.2.pfn)
       CanStart s r q 0x07 c → named → MemorySound s → Room s1 (4 * todo.length) → (∀ e ∈ todo, Recallable s1 i e.1 e.2) →
       ∃ t, exec (.recall r q) s = .next t ∧ moved t todo.length all.length)) ∧
    (sessGeo s i = none → named →
      (CanStart s r q 0x06 c → dfield c 383 382 = 1 → ∃ t, exec (.evict r q) s = .next t ∧ Ended t r q stOk 0) ∧
      (CanStart s r q 0x07 c → ∃ t, exec (.recall r q) s = .next t ∧ Ended t r q stOk 0))

/-- PLATESET_ACTIVATE of a set that is READY and passes its checks makes it CURRENT and gives the set that was CURRENT; of the
set that is CURRENT, it gives that set (R301). PLATESET_RETIRE frees a set that is LOADING or READY, leaves one that was CURRENT
RETIRED while a pin holds it, and ends FAULT where there is no such set (R303). PLATE_LOAD of a set that is resident ends OK with its count of plates, and of a new set begins the
first attempt of every plate of its range (R297 to R299). -/
def Obligations.PlateSetCommandsAct : Prop :=
  ∀ (s : State) (r q : Nat) (c : Cmd) (x y : PlateSet),
    let id : W16 := BitVec.ofNat 16 (dfield c 511 496)
    let found := findSet s c.part id = some x ∧ (∀ z ∈ s.psets, z.part = c.part → z.setId = id → z = x)
    let cur := (currentSet s c.part (bits id 11 0)).map (·.setId.toNat)
    (CanStart s r q 0x11 c → found → x.st = .ready → reloading s c.part id = false → (checkSet s x).out = .ok y →
      (checkSet s x).ces = [] →
      ∃ t, exec (.platesetActivate r q) s = .next t ∧ Ended t r q stOk (cur.getD 0 <<< 112) ∧
        (findSet t c.part id).map (·.st) = some .current) ∧
    (CanStart s r q 0x11 c → found → x.st = .current → s.cmds = [c] →
      ∃ t, exec (.platesetActivate r q) s = .next t ∧ Ended t r q stOk (id.toNat <<< 112) ∧
        (findSet t c.part id).map (·.st) = some .current) ∧
    (CanStart s r q 0x12 c → found → s.cmds = [c] →
      ∃ t, exec (.platesetRetire r q) s = .next t ∧ Ended t r q stOk 0 ∧
        (x.st = .ready ∨ x.st = .loading → findSet t c.part id = none) ∧
        (x.st = .current → ∀ z, findSet t c.part id = some z → z.st = .retired)) ∧
    (CanStart s r q 0x12 c → findSet s c.part id = none → ∃ t, exec (.platesetRetire r q) s = .next t ∧ Faulted t r q) ∧
    (∀ b h, CanStart s r q 0x10 c → hostRead s (dfield c 447 384) 64 = some b → h = BitVec.ofNat 512 (leNat b) →
      dfield c 495 476 + dfield c 475 456 < bits h 495 476 →
      (∀ i ∈ loadRange c, ∃ w, hostRead s (dfield c 447 384 + 64 + 64 * i) 64 = some w ∧
        entryBad h (BitVec.ofNat 512 (leNat w)) = false) →
      (found → x.header = h → x.st = .ready ∨ x.st = .current →
        ∃ t, exec (.plateLoad r q) s = .next t ∧ Ended t r q stOk (bits h 495 476 <<< 68)) ∧
      (findSet s c.part id = none → headerBad h id.toNat = false → (∃ w ∈ loadSources c, bits w 63 62 ≠ 0) → s.cmds = [c] →
        ∃ t z, exec (.plateLoad r q) s = .next t ∧ UnderWay t r q ∧ findSet t c.part id = some z ∧ z.st = .loading ∧ z.header = h ∧
          ∀ i ∈ loadRange c, (tget {} z.plates i).reading = some (r, q) ∧ (tget {} z.plates i).attempts = 1 ∧
            (tget {} z.plates i).resident = false))

/-- KERNEL_RUN whose launch block, image and shapes pass and whose cores are free starts the image at its first instruction on
every core of its mask, for its partition and session (R98, R280). -/
def Obligations.KernelRunStartsItsCores : Prop :=
  ∀ (s : State) (r q : Nat) (c : Cmd) (h : W32) (sess : Option Nat) (args : Tbl W64),
    let m := readKernel s c
    CanStart s r q 0x20 c → kernelReady s c = true → jobHeld s c.part = false →
    (handleIn c = none ∧ h = 0 ∧ sess = none ∨
      ∃ i, handleIn c = some h ∧ openHandle s c.part h = some i ∧ sess = some i ∧ sessionTurn s c h = true) →
    (∀ x, findSet s c.part c.set = some x → x.st ≠ .broken) → blockBad c = none → coresBad s c = false → stageBad s c = false →
    m.err = none → m.ue = none → m.ces = [] → imageBad (imageWords m.bytes) = none → readShapes s c (kernelArgs c) = .ok args [] →
    ∃ t, exec (.kernelRun r q) s = .next t ∧ UnderWay t r q ∧
      (∀ k ∈ kernelCores s c, (getCore t k).run = .running ∧ (getCore t k).pc = 0 ∧ (getCore t k).gpr = args ∧
        (getCore t k).ibuf = imageWords m.bytes ∧
        (getCore t k).ctx = some ⟨s.dev.launchNo, c.part, h, c.set, r, q⟩) ∧
      (∀ k, k ∉ kernelCores s c → getCore t k = getCore s k) ∧
      ∃ st ∈ t.steps, st.ring = r ∧ st.seq = q ∧ st.kernel = true ∧ st.sess = sess

/-- The window of a partition that is due closes: each of its groups of at most 4,096 steps becomes a launch (R179, R180). A
KERNEL_RUN outside a job whose cores have all ended, with no Separator stage and no Proof, ends OK with the cycles of its
longest core (R103, R280). -/
def Obligations.LaunchesFormAndEnd : Prop :=
  ∀ (s : State) (p r q n : Nat) (l : Launch) (c : Cmd) (st : StepRec),
    (p < 8 → gatherDue s p = true → (∀ k ∈ s.launches, k.id < s.dev.launchNo) →
      ∃ t, exec (.gatherWindowClose p) s = .next t ∧ (getPart t p).gatherAt = 0 ∧
        s.dev.launchNo + (windowLaunches s p).length ≤ t.dev.launchNo ∧
        ∀ g ∈ windowLaunches s p, ∃ k ∈ t.launches, k.steps = g ∧ k.part = p) ∧
    (s.launches = [l] → l.id = n → l.kernel = true → l.started = true → l.stage = .run → l.failed = none → l.job = none →
      l.steps = [(r, q)] → launchSettled s l = true → s.cmds = [c] → c.ring = r → c.seq = q → c.cls ≠ clsFixed → lateCmd s c = false →
      blkField c 0x0A 2 % 2 = 0 → s.steps = [st] → st.ring = r → st.seq = q → st.kernel = true → st.armed = false →
      st.adopted = false → s.err.armed = [] → s.sep.batches = [] → s.sep.dest = [] →
      ∃ t, exec (.launchEnd n) s = .next t ∧ Ended t r q stOk ((l.maxCyc % 2 ^ 64) <<< 64) ∧ t.launches = [] ∧ t.steps = [])

/-- EXPOSE of a session or of a state range begins an exposure that waits for its instant, its command not STARTED yet; MIGRATE_OUT
fences its session and begins one too (R263, R373, R374, R379, R391).
At its instant an exposure to host or far memory, none of whose pages lies in a host image, holds its pages and fixes its time
(R373). The copier then takes one page after another, and with the last of them and the header the command ends OK with the count of
records and that time (R374, R377, R379). -/
def Obligations.ExposuresRun : Prop :=
  (∀ (s : State) (r q i : Nat) (c : Cmd),
    let begun : State → Option Nat → Byte → Prop := fun t sess kind =>
      ∃ e, t.exps = s.exps ++ [e] ∧ e.ring = r ∧ e.seq = q ∧ e.part = c.part ∧ e.sess = sess ∧ e.kind = kind ∧ e.taken = false ∧
        e.target = expTarget c ∧ ∀ x ∈ s.exps, x.id < e.id
    (CanStart s r q 0x30 c → (∀ e ∈ s.exps, e.ring ≠ r ∨ e.seq ≠ q) → farRoom s c = true →
      (dfield c 511 480 ≠ 0 → openHandle s c.part (BitVec.ofNat 32 (dfield c 511 480)) = some i → expFull s i = false →
        ∃ t, exec (.expose r q) s = .next t ∧ begun t (some i) 0x01 ∧ t = { s with exps := t.exps }) ∧
      (dfield c 511 480 = 0 → (stateRange s c).isSome = true →
        ∃ t, exec (.expose r q) s = .next t ∧ begun t none 0x02 ∧ t = { s with exps := t.exps })) ∧
    (CanStart s r q 0x32 c → openHandle s c.part (BitVec.ofNat 32 (dfield c 511 480)) = some i →
      sessionTurn s c (BitVec.ofNat 32 (dfield c 511 480)) = true →
      ∃ t, exec (.migrateOut r q) s = .next t ∧ begun t (some i) 0x03 ∧ UnderWay t r q ∧ (getSess t i).st = .fenced ∧ OnlySession s t i)) ∧
  (∀ (s : State) (n : Nat) (e : Exposure) (c : Cmd),
    let s1 := reclaim s e.part
    let pages := expPages s1 e
    let gone : State → Prop := fun t =>
      Ended t e.ring e.seq stOk ((bits e.header 511 480 <<< 96) + ((e.ftime % 2 ^ 64) <<< 32)) ∧ ∀ x ∈ t.exps, x.id ≠ n
    s.exps.find? (fun x => x.id == n) = some e → findCmd s e.ring e.seq = some c → lateCmd s c = false → (∀ ep, e.target ≠ .peer ep) →
    (expReady s e = true → (∀ i g, e.sess = some i → sessGeo s1 i = some g → ∀ m ∈ mappedPages s1 i g, m.2.host = false) →
      pages.length ≤ dfield c 383 352 → MemorySound s → Room s1 (2 * pages.length) →
      ∃ t, exec (.exposureInstant n) s = .next t ∧
        ∃ x ∈ t.exps, x.id = n ∧ x.taken = true ∧ x.pages.map (·.2.2) = pages.map (·.2.2) ∧ x.ftime = s.time.ftime ∧ x.done = e.done) ∧
    (∀ pg rest, e.taken = true → e.pairing = false → e.pages = pg :: rest → (getKey s (expSlot s e)).st = .active →
      (isFar pg.1 = true → (getKey s (getFrame s pg.1).keySlot.toNat).st = .active) → pageErrors s pg.1 pg.2.1 = ([], none) →
      ∃ t, exec (.exposurePageTaken n) s = .next t ∧
        (rest ≠ [] → ∃ x ∈ t.exps, x.id = n ∧ x.pages = rest ∧ x.done = e.done + 1 ∧
          x.digests = e.digests ++ [(makeRec s (if e.sess.isSome then 1 else 2) pg.2.2 pg.1 pg.2.1).digest]) ∧
        (rest = [] → e.kind ≠ 0x03 → gone t)) ∧
    (e.taken = true → e.pairing = false → e.pages = [] → e.kind ≠ 0x03 → ∃ t, exec (.exposurePageTaken n) s = .next t ∧ gone t))

/-- RESTORE of a session image that verifies, whose plate set is resident and whose records lie in its geometry, opens an Open session
with the image's position, plate set and pages, and ends OK with its handle and the count of records; RESTORE of a state image writes
its pages (R381, R382). MIGRATE_IN on an Open or Timed ring opens the session with the class of its ring, and gives the handle at the
source (R393). A peer image is given up 60 s after its header arrived (R380). -/
def Obligations.ImagesAreRestored : Prop :=
  (∀ (s : State) (r q i : Nat) (c : Cmd) (h : W1024) (rs : List PageRec) (ps : List (List Byte)) (x : PlateSet),
    let s1 := reclaim s c.part
    let verified := imageCes s c = [] ∧ imageOf s c = .ok (h, rs) ∧ checkImage s c h rs = .ok ps
    let fits := findSet s c.part (BitVec.ofNat 16 (bits h 559 544)) = some x ∧ x.st ≠ .broken ∧ nextIndex s c.part = some i ∧
      (setGeo x = none ∧ rs = [] ∨
        ∃ g, setGeo x = some g ∧ (∀ rc ∈ rs, pteIn g (bits rc.id 63 48) (bits rc.id 47 40) (bits rc.id 39 8) = true) ∧
          Room s1 (4 * rs.length))
    let opened : State → BitVec 2 → Prop := fun t cls =>
      let y := getSess t i
      y.st = .open_ ∧ y.cls = cls ∧ y.position = bits h 591 560 ∧ y.plateset = x.setId ∧ y.seed = BitVec.ofNat 64 (bits h 655 592) ∧
        y.pages = rs.length
    (CanStart s r q 0x31 c → verified → bits h 479 472 ≠ 2 → fits →
      ∃ t, exec (.restore r q) s = .next t ∧ opened t clsOpen ∧
        Ended t r q stOk (((handleOf i (getSess t i)).toNat <<< 96) + (rs.length <<< 64))) ∧
    (∀ ts, CanStart s r q 0x31 c → verified → bits h 479 472 = 2 → stateTargets s c rs = some ts → Room s1 rs.length →
      ∃ t, exec (.restore r q) s = .next t ∧ Ended t r q stOk (rs.length <<< 64) ∧ t.sess = s.sess) ∧
    (CanStart s r q 0x33 c → partnerBad c (dfield c 383 368) = false → c.cls ≠ clsFixed → verified → bits h 479 472 ≠ 2 → fits →
      ∃ t, exec (.migrateIn r q) s = .next t ∧ opened t c.cls ∧
        Ended t r q stOk (((handleOf i (getSess t i)).toNat <<< 96) + (bits h 751 720 <<< 64)))) ∧
  (∀ (s : State) (p n : Nat) (m : PeerImage), p < 8 → (getPart s p).images[n]? = some m → m.final = true →
    m.at_ + 63000000000 ≤ s.time.ftime →
    ∃ t, exec (.peerImageExpiry p n) s = .next t ∧ (getPart t p).images = (getPart s p).images.eraseIdx n ∧ t.sess = s.sess)

/-- FENCE ends OK once no earlier command of its ring is outstanding (R281); SET_WAKE_TOLERANCE stores the tolerance, at most
one second (R284, R425); JOURNAL_QUERY writes the journal entries of its range to host memory and gives NEXT_SEQ and the count
of completions (R268, R269).
CANCEL ends a command of its range that has not started CANCELLED, and counts it; the other entries of the range it counts
as known (R282). DRAIN with MODE 3 lets the partition open sessions again; with another MODE and no session to move and none
of its commands outstanding it ends OK (R283). -/
def Obligations.OrderingAndStoppingCommandsAct : Prop :=
  (∀ (s : State) (r q : Nat) (c : Cmd),
    (CanStart s r q 0x40 c → (∀ x ∈ earlier s r q, x.ring ≠ r) → ∃ t, exec (.fence r q) s = .next t ∧ Ended t r q stOk 0) ∧
    (CanStart s r q 0x42 c → ∃ t, exec (.setWakeTolerance r q) s = .next t ∧
      (getPart t c.part).tol = Nat.min (dfield c 511 480) 1000000 ∧
      Ended t r q stOk (deepest (Nat.min (dfield c 511 480) 1000000) <<< 120)) ∧
    (let tr := dfield c 367 353
     let x := getRing (startCmd s r q) tr
     let y := getRing s r
     let a := dfield c 511 448
     let n := dfield c 383 368 + 1
     let cq := y.cqBase.toNat + 32 * (y.written % ringSize y)
     CanStart s r q 0x44 c → ownsRing s c tr = true → y.mute = false → cq + 32 ≤ a ∨ a + 64 * n ≤ cq →
      ∃ t, exec (.journalQuery r q) s = .next t ∧ Ended t r q stOk ((nextSeq x <<< 64) + x.written % 2 ^ 32) ∧
        ∀ k, k < n → mreadN t.hif.host (a + 64 * k) 64 = jShow x ((dfield c 447 384 + k) % 2 ^ 64))) ∧
  (∀ (s : State) (r q : Nat) (c x : Cmd),
    let tr := dfield c 435 421
    let known := ((getRing (startCmd s r q) tr).journal.filter (fun e => e.2.st != .empty && inRange c e.2.seq)).length
    (CanStart s r q 0x41 c → ownsRing s c tr = true → (∀ y ∈ s.cmds, y.ring ≠ tr ∨ inRange c y.seq = false) → s.launches = [] →
      ∃ t, exec (.cancel r q) s = .next t ∧ Ended t r q stOk ((known % 2 ^ 32) <<< 64)) ∧
    (CanStart s r q 0x41 c → ownsRing s c tr = true → s.cmds = [x, c] → (x.ring, x.seq) ≠ (r, q) → x.ring = tr →
      inRange c x.seq = true → (r ≠ tr ∨ inRange c q = false) → x.started = false → s.launches = [] → s.steps = [] →
      ∃ t, exec (.cancel r q) s = .next t ∧ findCmd t x.ring x.seq = none ∧
        Ended t r q stOk ((1 <<< 96) + (((known - 1) % 2 ^ 32) <<< 64))) ∧
    (CanStart s r q 0x43 c → dfield c 511 510 = 3 →
      ∃ t, exec (.drain r q) s = .next t ∧ (getPart t c.part).draining = false ∧ Ended t r q stOk 0) ∧
    (CanStart s r q 0x43 c → dfield c 511 510 ≠ 3 → c.adopted = none → s.cmds = [c] → s.launches = [] →
      (∀ e ∈ s.sess, leaving c.part e.2 = false) → ∃ t, exec (.drain r q) s = .next t ∧ Ended t r q stOk 0))

/-! ## Rings, interrupts and the ends of steps -/

/-- A descriptor whose read succeeds is numbered, counted and journalled with its digest, time and code (R252, R254, R262); on
an Open ring, with fields as R251 wants them, no fence and no plate set to pin, the command is accepted and waits for nothing.
A read that fails leaves the ring BROKEN (R255). A command whose predecessor has completed goes on, and one whose predecessor
has failed ends CANCELLED (R213). A session command whose turn has come may start (R273). -/
def Obligations.CommandsAreAcceptedInTurn : Prop :=
  ∀ (s : State) (r q fr fq : Nat) (c : Cmd) (b : List Byte) (h : W32),
    let x := getRing s r
    let n := nextSeq x
    let d : W512 := BitVec.ofNat 512 (leNat b)
    (r < 32768 → x.adoptQ = [] → fetchReady s r = true → hostRead s (x.sqBase.toNat + 64 * (x.fetched % ringSize x)) 64 = some b →
      findCmd s r n = none →
      ∃ t, exec (.descriptorFetch r) s = .next t ∧ (getRing t r).fetched = x.fetched + 1 ∧
        (let j := journalAt (getRing t r) n
         j.seq = n ∧ j.accept = s.time.ftime ∧ j.opcode.toNat = bits d 127 120 ∧
         j.digest = BitVec.ofNat 128 (leNat ((sha3 b).take 16))) ∧
        (x.cls = clsOpen → descBad x.cls d = none → bit d 118 = false → refusesWork s x.part.toNat = false →
          (getPart s x.part.toNat).st ≠ .fault → bits d 127 120 ≠ 0x01 → bits d 127 120 ≠ 0x20 →
          ∃ c', findCmd t r n = some c' ∧ c'.desc = d ∧ c'.started = false ∧ c'.wait = .none ∧ c'.part = x.part.toNat ∧
            (journalAt (getRing t r) n).st = .accepted)) ∧
    (r < 32768 → x.adoptQ = [] → fetchReady s r = true → hostRead s (x.sqBase.toNat + 64 * (x.fetched % ringSize x)) 64 = none →
      ∃ t, exec (.descriptorFetch r) s = .next t ∧ (getRing t r).st = .broken ∧ t.cmds = s.cmds ∧
        Recorded s t 0 0x0015 (some x.part.toNat)) ∧
    (findCmd s r q = some c → c.wait = .fence fr fq → fenceState s fr fq = .go → c.pinWait = false →
      ∃ t c', exec (.fencePredecessorDone r q) s = .next t ∧ findCmd t r q = some c' ∧ c'.wait = .none ∧ c'.desc = c.desc ∧
        c'.started = c.started) ∧
    (findCmd s r q = some c → c.wait = .fence fr fq → fenceState s fr fq = .cancel → opcodeOf c ≠ 0x11 ∨ s.cmds = [c] →
      ∃ t, exec (.fencePredecessorDone r q) s = .next t ∧ Ended t r q stCancelled 0) ∧
    (findCmd s r q = some c → c.ready = false → handleIn c = some h → c.wait = .none → sessionTurn s c h = true →
      ∃ t, exec (.sessionCommandStart r q) s = .next t ∧ findCmd t r q = some { c with ready := true } ∧ t.rings = s.rings ∧
        t.sess = s.sess ∧ t.parts = s.parts ∧ t.mem = s.mem)

/-- The step of a Fixed command that may be released ends its command with its result, and moves its session on (R152, R285,
R287). A Timed command that is not released 2 µs before its deadline ends with the status of R290. -/
def Obligations.StepsEndByTheirClass : Prop :=
  ∀ (s : State) (r q i : Nat) (c : Cmd) (st : StepRec),
    findCmd s r q = some c →
    (findStep s r q = some st → c.cls = clsFixed → lateCmd s c = false → st.sess = some i → releasable s st = true →
      ∃ t, exec (.fixedStepRelease r q) s = .next t ∧ Ended t r q (if st.adopted then stMigrated else stOk) st.result.toNat ∧
        findStep t r q = none ∧
        (st.kernel = false → (getSess t i).position = st.pe ∧ (getSess t i).lastToken = st.token ∧ (getSess t i).ltv = true ∧
          (getSess t i).fixedPos = st.pe ∧ (getSess t i).fixedSeq = q)) ∧
    (c.timed = true → dfield c 63 0 ≤ s.time.ftime + 2100 → s.launches = [] →
      ∃ t, exec (.timedDeadlineStop r q) s = .next t ∧ Ended t r q stDeadline 0 ∧ findStep t r q = none)

/-- A write of ENABLE 1 to a ring in OFF starts it with its counts at 0, or, where a condition of R246 fails, leaves it OFF
with a record (R245, R246, R265). A write of ENABLE 0 to a ring in RUNNING or BROKEN leaves it OFF once none of its commands is
outstanding, and QUIESCING before (R248).
When the timer of a ring's pending completions has run out, their count returns to 0 and the message of the ring's vector
is sent, or its pending bit set while it is masked; unmasking a vector sends the message that waits (R258). -/
def Obligations.RingsStartStopAndSignal : Prop :=
  (∀ (s : State) (w : Writer) (r : Nat) (wide : Bool) (v : W64),
    let x := getRing s r
    let n := committed s w (0x100000 + 32 * r) 256 0 wide v
    let y := ringFields x n
    r < 32768 → barUp s = true →
    (x.st = .off → nbits n 255 255 = 1 → ringBad s y r = none →
      ∃ t, exec (.ringEnable w r wide v) s = .next t ∧
        let z := getRing t r
        z.st = .running ∧ z.enable = true ∧ z.sqTail = 0 ∧ z.cqHead = 0 ∧ z.fetched = 0 ∧ z.written = 0 ∧ z.cls = y.cls ∧ z.part = y.part ∧
        z.func = y.func ∧ z.log2size = y.log2size ∧ z.sqBase = y.sqBase ∧ z.cqBase = y.cqBase ∧ z.seqBase = y.seqBase ∧
        z.journal = (if keepsJournal y then x.journal else []) ∧ t.cmds = s.cmds) ∧
    (∀ syn f, x.st = .off → nbits n 255 255 = 1 → ringBad s y r = some (syn, f) →
      ∃ t, exec (.ringEnable w r wide v) s = .next t ∧ getRing t r = { y with enable := false } ∧
        t.err.nextSeq = s.err.nextSeq + 1) ∧
    (x.st = .running ∨ x.st = .broken → nbits n 255 255 = 0 →
      ∃ t, exec (.ringDisable w r wide v) s = .next t ∧ (getRing t r).enable = false ∧
        (getRing t r).st = (if s.cmds.any (fun c => c.ring == r) then .quiescing else .off) ∧ t.cmds = s.cmds ∧
        ∀ k, k ≠ r → getRing t k = getRing s k)) ∧
  (∀ (s : State) (r fn vec : Nat),
    let x := getRing s r
    let e : MsixEntry := tget {} s.hif.msix (msixKey x.func.toNat x.vector.toNat)
    let k := msixKey fn vec
    let m : MsixEntry := tget {} s.hif.msix k
    (r < 32768 → timerDue s x = true →
      ∃ t, exec (.interruptTimer r) s = .next t ∧ getRing t r = { x with pendCnt := 0 } ∧ t.hif.msix = s.hif.msix ∧
        (e.mask = false → t.hif.msgs = s.hif.msgs ++ [⟨x.func.toNat, x.vector.toNat, e.addr, e.data⟩] ∧ t.hif.pba = s.hif.pba) ∧
        (e.mask = true → t.hif.msgs = s.hif.msgs ∧ msixKey x.func.toNat x.vector.toNat ∈ t.hif.pba)) ∧
    (fn < 64 → vec < msixSize s fn →
      ∃ t, exec (.msixUnmask fn vec) s = .next t ∧ tget {} t.hif.msix k = { m with mask := false } ∧ k ∉ t.hif.pba ∧
        (k ∈ s.hif.pba → t.hif.msgs = s.hif.msgs ++ [⟨fn, vec, m.addr, m.data⟩]) ∧ (k ∉ s.hif.pba → t.hif.msgs = s.hif.msgs)))

/-- A doorbell of the function that owns the ring's page is stored only if it keeps the counts consistent (R253): SQ_TAIL where
0 ≤ SQ_TAIL − FETCHED ≤ size, CQ_HEAD where 0 ≤ WRITTEN − CQ_HEAD ≤ size, both modulo 2³². Any other value is ignored: the ring stays
as it is, and the queue of its partition receives the record "doorbell out of range". Host memory holds what the driver stored before
the doorbell. -/
def Obligations.DoorbellsKeepTheCountsConsistent : Prop :=
  ∀ (s : State) (fn r : Nat) (v : W32) (stores : List HostStore) (fails : List HostFail),
    let x := getRing s r
    let ahead := (v.toNat + 2 ^ 32 - x.fetched % 2 ^ 32) % 2 ^ 32
    let behind := (x.written % 2 ^ 32 + 2 ^ 32 - v.toNat) % 2 ^ 32
    fn < 64 → r < 32768 → doorbellOk s fn r = true →
    (ahead ≤ 2 ^ x.log2size.toNat → ∃ t, exec (.sqTailWrite fn r v stores fails) s = .next t ∧
      getRing t r = { x with sqTail := x.fetched + ahead } ∧ (∀ k, k ≠ r → getRing t k = getRing s k) ∧
      t.hif.host = stores.foldl (fun m h => mwriteN m h.addr h.bytes) s.hif.host ∧ t.cmds = s.cmds) ∧
    (2 ^ x.log2size.toNat < ahead → ∃ t, exec (.sqTailWrite fn r v stores fails) s = .next t ∧ t.rings = s.rings ∧
      Recorded s t 0 0x0014 (some x.part.toNat)) ∧
    (behind ≤ 2 ^ x.log2size.toNat → ∃ t, exec (.cqHeadWrite fn r v) s = .next t ∧
      getRing t r = { x with cqHead := v.toNat } ∧ (∀ k, k ≠ r → getRing t k = getRing s k) ∧ t.hif.host = s.hif.host ∧
      t.cmds = s.cmds) ∧
    (2 ^ x.log2size.toNat < behind → ∃ t, exec (.cqHeadWrite fn r v) s = .next t ∧ t.rings = s.rings ∧
      Recorded s t 0 0x0014 (some x.part.toNat))

/-! ## Partitions and registers -/

/-- A write of ENABLE 1 to a partition entry in OFF begins its set-up, or leaves it in FAULT with a record where a check of R225
fails; set-up ends READY, its tiles reset and its error queue empty. A write of ENABLE 0 to a READY entry begins its tear-down
unless a ring of it is not OFF; tear-down ends OFF, its sessions free and its plate sets gone (R225 to R227). -/
def Obligations.PartitionsAreSetUpAndTornDown : Prop :=
  ∀ (s : State) (w : Writer) (p : Nat) (wide : Bool) (v : W64),
    let x := getPart s p
    let n := committed s w (0x400 + 16 * p) 128 0 wide v
    let y : Part := { partFields x n with enable := true, st := .settingUp, fromReady := false }
    p < 8 →
    (barUp s = true → x.st = .off → nbits n 127 127 = 1 → setupBad (setPart s p y) p = none →
      ∃ t, exec (.partitionSetup w p wide v) s = .next t ∧ getPart t p = y ∧ ∀ k, k ≠ p → getPart t k = getPart s k) ∧
    (∀ f, barUp s = true → x.st = .off → nbits n 127 127 = 1 → setupBad (setPart s p y) p = some f →
      ∃ t, exec (.partitionSetup w p wide v) s = .next t ∧ getPart t p = { y with st := .fault } ∧ Recorded s t 0 0x000D none) ∧
    (x.st = .settingUp → ∃ t, exec (.partitionSetupComplete p) s = .next t ∧ (getPart t p).st = .ready ∧
      (getPart t p).enable = x.enable ∧ (getPart t p).tileBase = x.tileBase ∧ (getPart t p).keySlot = x.keySlot ∧
      (getPart t p).running = [] ∧ (getPart t p).epoch = 0 ∧ (tget {} t.err.queues p).prod = 0 ∧ (tget {} t.err.queues p).cons = 0 ∧
      ∀ c ∈ partCores x, (getCore t c).run = .idle ∧ (getCore t c).ctx = none ∧ (getCore t c).maps = [] ∧
        (getCore t c).padA = clearPad (getCore s c).padA) ∧
    (barUp s = true → x.st = .ready → nbits n 127 127 = 0 → ringsBusy s p = false → (∀ e ∈ s.exps, e.part ≠ p) →
      ∃ t, exec (.partitionTeardown w p wide v) s = .next t ∧ getPart t p = { x with enable := false, st := .tearing }) ∧
    (barUp s = true → x.st = .ready → nbits n 127 127 = 0 → ringsBusy s p = true →
      ∃ t, exec (.partitionTeardown w p wide v) s = .next t ∧ t.parts = s.parts ∧ Recorded s t 0 0x000E none) ∧
    (x.st = .tearing → ∃ t, exec (.partitionTeardownComplete p) s = .next t ∧ (getPart t p).st = .off ∧
      (getPart t p).enable = false ∧ (getPart t p).nearPages = [] ∧ (∀ z ∈ t.psets, z.part ≠ p) ∧
      ∀ i, (getSess s i).part.toNat = p → (getSess t i).st = .free)

/-- PART_MODE changes only while every partition entry is OFF (R236). PWR_CAP keeps to 300 W to 700 W (R11, R426). PWR_TOL
stores a tolerance of at most one second, and a lowering wakes a partition that sleeps (R284, R424, R425). FAB_PORT stores
ENABLE, and a port disabled is DISABLED (R310).
A write at an offset of BAR0 (R9, R464 to R468): 64 bits to a 64-bit register store its value; the upper half of a 128-bit
register commits the whole of it, while its lower half changes the writer's staging copy alone; a read-only register, and a
register that is PF0's when the MGC writes, keeps its value; nothing is stored while BAR0 does not answer. -/
def Obligations.RegistersStoreTheirValues : Prop :=
  (∀ (s : State) (w : Writer) (p : Nat) (v : W32) (u : W64), barUp s = true →
    ((∀ n, n < 8 → (getPart s n).st = .off) → ∃ t, exec (.partModeWrite w v) s = .next t ∧
      t = { s with dev := { s.dev with isolate := bit v 0 } }) ∧
    (∀ n, n < 8 → (getPart s n).st ≠ .off → exec (.partModeWrite w v) s = .next s) ∧
    (∃ t, exec (.pwrCapWrite w v) s = .next t ∧ t.pwr.cap.toNat = Nat.max 300 (Nat.min 700 (bits v 9 0)) ∧
      t = { s with pwr := { s.pwr with cap := t.pwr.cap, announced := t.pwr.announced } }) ∧
    (p < 8 → ∃ t, exec (.pwrTolWrite .pf0 p u) s = .next t ∧ (getPart t p).tol = Nat.min (bits u 19 0) 1000000 ∧
      (getPart t p).st = (getPart s p).st ∧ (∀ k, k ≠ p → getPart t k = getPart s k) ∧
      ((getPart t p).tol < (getPart s p).tol → 2 ≤ (getPart s p).pstate → (getPart t p).waking = true)) ∧
    (p < 8 → exec (.pwrTolWrite .mgc p u) s = .next s) ∧
    (p < 6 → ∃ t, exec (.fabPortWrite w p u) s = .next t ∧ (getPort t p).enable = bit u 11 ∧
      (bit u 11 = (getPort s p).enable → t = s) ∧ (bit u 11 = false → (getPort s p).enable = true → (getPort t p).st = .disabled))) ∧
  (∀ (s : State) (n : Nat) (v : W64), n < 8 →
    (barUp s = false → ∀ w off width, exec (.registerWrite w off width v) s = .next s) ∧
    (barUp s = true →
      (∀ w, ∃ t, exec (.registerWrite w 0x340008 64 v) s = .next t ∧ t = { s with jnlFirst := v }) ∧
      (∃ t, exec (.registerWrite .pf0 0x350008 64 v) s = .next t ∧ t = { s with mgc := { s.mgc with arg := v } }) ∧
      exec (.registerWrite .mgc 0x350008 64 v) s = .next s ∧
      (∀ w, exec (.registerWrite w 0x8 64 v) s = .next s) ∧ (∀ w, exec (.registerWrite w 0x320100 64 v) s = .next s) ∧
      (∃ t, exec (.registerWrite .pf0 (0x800 + 16 * n + 8) 64 v) s = .next t ∧
        (getPart t n).gatherUs.toNat = Nat.min 1000 (bits v 63 54) ∧ (getPart t n).timedPct.toNat = Nat.min 100 (bits v 53 47) ∧
        (getPart t n).milkMin.toNat = Nat.min 1440 (bits v 46 36) ∧ (∀ k, k ≠ n → getPart t k = getPart s k)) ∧
      (∃ t, exec (.registerWrite .pf0 (0x800 + 16 * n) 64 v) s = .next t ∧ t = { s with stagePf0 := t.stagePf0 } ∧
        (tfind t.stagePf0 (0x800 + 16 * n)).map (fun x => bits x 63 0) = some v.toNat)))

/-- A write of VALID 1 to a job entry that is IDLE or STOPPED forms the job the write describes, from its member table; a write
of VALID 0 ends one that is FORMING or ACTIVE (R326, R327). SEC_RETIRE overwrites an ACTIVE slot's key: the slot is EMPTY at
once where no far frame is tagged with it, else RETIRED (R232, R415). -/
def Obligations.JobsAndKeysAreWritten : Prop :=
  ∀ (s : State) (w : Writer) (j : Nat) (wide : Bool) (v : W64) (u : W32),
    let x := getJob s j
    let n := committed s w (0x321000 + 16 * j) 128 (jobWord {}) wide v
    let y := jobFields n
    barUp s = true → j < 64 →
    (x.st = .idle ∨ x.st = .stopped → nbits n 127 127 = 1 →
      ∃ t, exec (.jobForm w j wide v) s = .next t ∧
        let z := getJob t j
        (z.st = .forming ∨ z.st = .active) ∧ z.valid = true ∧ z.part = y.part ∧ z.jobId = y.jobId ∧ z.nmemb = y.nmemb ∧ z.rank = y.rank ∧
        z.cmode = y.cmode ∧ z.check = y.check ∧ z.g = y.g ∧ z.run = y.run ∧ z.openTags = [] ∧
        (s.time.everLock = false → z.st = .forming)) ∧
    (x.st = .forming ∨ x.st = .active → nbits n 127 127 = 0 →
      ∃ t, exec (.jobEnd w j wide v) s = .next t ∧ getJob t j = { x with valid := false, st := .idle } ∧
        ∀ k, k ≠ j → getJob t k = getJob s k) ∧
    (bit u 31 = true → (getKey s (bits u 5 0)).st = .active →
      ∃ t, exec (.keyRetire w u) s = .next t ∧ (getKey t (bits u 5 0)).key = 0 ∧
        (getKey t (bits u 5 0)).st = (if (getKey s (bits u 5 0)).frames = 0 then .empty else .retired) ∧
        ∀ k, k ≠ bits u 5 0 → getKey t k = getKey s k)

/-- ERR_Q_CONS is stored where it is at most PROD and at most 256 records behind it, and ignored otherwise (R339). A write of
ERR_INJECT by PF0 outside isolation mode arms the injection of its kind (R357). -/
def Obligations.ErrorRegistersAct : Prop :=
  ∀ (s : State) (v : W32) (u : W64) (n : Nat), barUp s = true →
    let q := tget {} s.err.queues n
    let d := (q.prod % 2 ^ 32 + 2 ^ 32 - v.toNat) % 2 ^ 32
    let armed : Instr → Nat → Prop := fun i k => s.dev.isolate = false → bits u 63 60 = k →
      ∃ t, exec i s = .next t ∧ t = { s with err := { s.err with armed := t.err.armed } } ∧
        t.err.armed = s.err.armed ++ [⟨BitVec.ofNat 4 k, BitVec.ofNat 2 (bits u 59 58), BitVec.ofNat 8 (bits u 57 50),
          BitVec.ofNat 3 (bits u 49 47), BitVec.ofNat 47 (bits u 46 0)⟩]
    (s.err.qSel.toNat = n → n ≤ 8 → d ≤ 256 → d ≤ q.prod →
      ∃ t, exec (.errQConsWrite .pf0 v) s = .next t ∧ tget {} t.err.queues n = { q with cons := q.prod - d } ∧
        ∀ k, k ≠ n → tget {} t.err.queues k = tget {} s.err.queues k) ∧
    (s.err.qSel.toNat = n → 8 < n ∨ 256 < d ∨ q.prod < d → exec (.errQConsWrite .pf0 v) s = .next s) ∧
    armed (.injectPadSymbols .pf0 u) 1 ∧ armed (.injectResidue .pf0 u) 2 ∧ armed (.injectMemorySymbols .pf0 u) 3 ∧
    armed (.injectFlitCrc .pf0 u) 4 ∧ armed (.injectForceProof .pf0 u) 5 ∧ armed (.injectShareDigest .pf0 u) 6 ∧
    (s.dev.isolate = true → exec (.injectPadSymbols .pf0 u) s = .next s)

/-! ## Management and security -/

/-- The mailbox commands of PF0 end with the status R418 gives: STAGE_WRITE writes the window into the slot that does not run,
under the update lock, or answers 0x01 where another holds it; STAGE_VERIFY gives the lock back and answers whether the slot
passes; COMMIT_SVN raises the counter to the running image's SVN; ENROL_ANCHOR installs the first anchor only; READ_CPER
exports sections of a queue; SET_PREFERRED sets the slot; DEVICE_RESET begins a device reset, but not in isolation mode (R340,
R362, R401, R405, R417 to R419). -/
def Obligations.MailboxCommandsAct : Prop :=
  ∀ (s : State) (c : Component), mailboxOpen s .pf0 = true → argComp s = some c →
    let i := flashKey c (targetSlot s c)
    let unlocked : State := { s with mgc := { s.mgc with lock := none } }
    let free := s.mgc.lock = none ∨ s.mgc.lock = some .mailbox
    (free → ∃ t, exec (.stageWrite .pf0) s = .next t ∧ MailboxDone t 1 0x00 ∧ t.mgc.lock = some .mailbox ∧
      tget [] t.mgc.partial_ i = mwriteN (tget [] s.mgc.partial_ i) (bits s.mgc.arg 31 0) (mreadN s.mgc.data 0 32768) ∧
      slotImage t c (targetSlot s c) = none ∧ slotImage t c (!targetSlot s c) = slotImage s c (!targetSlot s c)) ∧
    (¬ free → ∃ t, exec (.stageWrite .pf0) s = .next t ∧ MailboxDone t 1 0x01 ∧ t.mgc.lock = s.mgc.lock ∧
      t.mgc.partial_ = s.mgc.partial_) ∧
    (free → s.dev.stage ≠ 15 → s.mgc.recovery = false → ∃ t, exec (.stageVerify .pf0) s = .next t ∧ t.mgc.lock = none ∧
      MailboxDone t 2 (if slotOk (settleStaged unlocked c) c (targetSlot s c) then 0x00 else 0x02)) ∧
    (free → s.dev.stage = 15 → underReset s .device = false → s.mgc.recovery = false →
      slotOk (settleStaged unlocked c) c (targetSlot s c) = true →
      ∃ t, exec (.stageVerify .pf0) s = .next t ∧ MailboxDone t 2 0x00 ∧ underReset t .device = true) ∧
    (∀ m, runningImage s c = some m → ∃ t, exec (.commitSvn .pf0) s = .next t ∧
      MailboxDone t 3 (if (svnOf s c).toNat < m.svn.toNat then 0x00 else 0x03) ∧
      svnOf t c = (if (svnOf s c).toNat < m.svn.toNat then m.svn else svnOf s c)) ∧
    (∃ t, exec (.enrolAnchor none) s = .next t ∧
      MailboxDone t 4 (if s.dev.isolate then 0x05 else if s.mgc.anchors = [] then 0x00 else 0x04) ∧
      t.mgc.anchors = (if s.dev.isolate = false ∧ s.mgc.anchors = [] then
        [(.administrator, mreadN s.mgc.data 0 (Nat.min 32768 (bits s.mgc.arg 31 0)))] else s.mgc.anchors)) ∧
    (∃ t, exec (.readCper .pf0) s = .next t ∧ MailboxDone t 5 0x00 ∧
      t.mgc.data = mwriteN [] 0 (cperBytes s (bits s.mgc.arg 47 32) (bits s.mgc.arg 31 0) 91)) ∧
    (∃ t, exec (.setPreferred .pf0) s = .next t ∧ MailboxDone t 7 0x00 ∧ preferred t c = bit s.mgc.arg 0) ∧
    (s.dev.isolate = true → ∃ t, exec (.deviceReset .pf0) s = .next t ∧ MailboxDone t 6 0x05 ∧ t.dev = s.dev) ∧
    (s.dev.isolate = false → underReset s .device = false → ∃ t, exec (.deviceReset .pf0) s = .next t ∧ MailboxDone t 6 0x00 ∧
      underReset t .device = true ∧ t.dev.hubTag = s.dev.hubTag + 1 ∧ t.mgc.tagStore = t.dev.hubTag)

/-- Redfish takes a request from a client whose role has its rank and an anchor, and refuses any other, changing nothing else
(R416). A module reset leaves what is in flash and in replay-protected storage (R362). Test mode opens only while PERST_N is
asserted and outside isolation mode (R460). PLDM stages an image into the slot that does not run, under the update lock (R418,
R419). The status bytes of Redfish and PLDM are the model's. -/
def Obligations.ManagersActByTheirRole : Prop :=
  ∀ (s : State) (role : Role) (q : RfReq) (c : Component) (m : FwImage),
    (mgcUp s = true → mayRole s role (reqRank q) = false →
      exec (.redfishRequest role q) s = .next { s with mgc := { s.mgc with redfish := [0x80] } }) ∧
    (∀ n, barUp s = true → mgcUp s = true → mayRole s role 2 = true →
      ∃ t, exec (.redfishRequest role (.setCap n)) s = .next t ∧ t.pwr.cap.toNat = Nat.max 300 (Nat.min 700 n)) ∧
    (∀ r cert, mgcUp s = true → mayRole s role 3 = true →
      ∃ t, exec (.redfishRequest role (.setAnchor r cert)) s = .next t ∧ t.mgc.anchors = s.mgc.anchors ++ [(r, cert)]) ∧
    (∀ cert, mgcUp s = true → ∃ t, exec (.enrolAnchor (some cert)) s = .next t ∧
      t.mgc.anchors = (if s.mgc.anchors = [] then [(.administrator, cert)] else s.mgc.anchors)) ∧
    (∀ b, mgcUp s = true → mayRole s role 3 = true →
      ∃ t, exec (.redfishRequest role (.setPreferred c b)) s = .next t ∧ preferred t c = b) ∧
    (mgcUp s = true → mayRole s role 3 = true →
      (∃ t, exec (.moduleResetCommand role) s = .next t ∧ ModuleReset s t s.hif.warm) ∧
      (∃ t, exec (.redfishRequest role .moduleReset) s = .next t ∧ ModuleReset s t s.hif.warm)) ∧
    (mgcUp s = true → mayRole s role 3 = true → s.pins.perstN = false → s.dev.isolate = false →
      ∃ t, exec (.testModeEnable role true) s = .next t ∧ t.tap.test = true ∧ t.mgc.testOn = true) ∧
    (mgcUp s = true → mayRole s role 3 = true → s.pins.perstN = true ∨ s.dev.isolate = true →
      ∃ t, exec (.testModeEnable role true) s = .next t ∧ t.tap = s.tap ∧ t.mgc.testOn = true) ∧
    (mgcUp s = true → mayRole s role 3 = true →
      ∃ t, exec (.testModeEnable role false) s = .next t ∧ t.tap.test = false ∧ t.mgc.testOn = false) ∧
    (s.pins.pwrGood = true → (s.mgc.booted = true ∨ s.mgc.recovery = true ∧ c = .mgc) →
      s.mgc.lock = none ∨ s.mgc.lock = some .pldm →
      ∃ t, exec (.pldmFirmwareUpdate (.stage c m)) s = .next t ∧ slotImage t c (targetSlot s c) = some m ∧
        slotImage t c (!targetSlot s c) = slotImage s c (!targetSlot s c) ∧ t.mgc.lock = some .pldm ∧ t.mgc.pldm = [0x00])

/-- The SPDM responder answers each request of version 1.4 (R413): the requests after the negotiation need it, GET_MEASUREMENTS
signs its answer (R412), a function has at most 8 sessions (R414), FINISH makes a session secure, and only a secure session
starts IDE or loads a key (R233, R415). The codes and the order of the requests are presumed from the SPDM standard. -/
def Obligations.SpdmRequestsAreAnswered : Prop :=
  ∀ (s : State) (p : SpdmPort) (sid n : Nat) (nonce : W256) (key : W512), spdmOpen s p = true →
    (∃ t, exec (.getVersion p) s = .next t ∧ Answered s t p [0x14, 0x04, 0x00, 0x14] ∧ p ∈ t.sec.versioned ∧ p ∉ t.sec.negotiated) ∧
    (p ∈ s.sec.versioned →
      (∃ t, exec (.getCapabilities p) s = .next t ∧ Answered s t p [0x14, 0x61]) ∧
      (∃ t, exec (.negotiateAlgorithms p) s = .next t ∧ Answered s t p [0x14, 0x63] ∧ p ∈ t.sec.negotiated)) ∧
    (p ∉ s.sec.negotiated → ∃ t, exec (.challenge p nonce) s = .next t ∧ Answered s t p [0x14, 0x7F, 0x04]) ∧
    (p ∈ s.sec.negotiated →
      (∃ t, exec (.getDigests p) s = .next t ∧ Answered s t p ([0x14, 0x01] ++ sha3 (aliasChain s))) ∧
      (∃ t, exec (.getCertificate p 0) s = .next t ∧ Answered s t p ([0x14, 0x02] ++ aliasChain s)) ∧
      (∃ t, exec (.challenge p nonce) s = .next t ∧ Answered s t p ([0x14, 0x03] ++ sha3 (aliasChain s) ++
        Config.mlDsaSign s.mgc.aliasSeed (natLE 32 nonce.toNat ++ sha3 (aliasChain s)))) ∧
      (∀ i, 1 ≤ i → i ≤ 5 → ∃ t, exec (.getMeasurements p n i) s = .next t ∧
        (let b := natLE 32 (nth 0 s.dev.meas (i - 1)).toNat
         Answered s t p ([0x14, 0x60] ++ b ++ Config.mlDsaSign s.mgc.aliasSeed b))) ∧
      ((sessionsOf s p).length < 8 → ∃ t k, exec (.keyExchange p) s = .next t ∧ sessOn t p s.sec.nextSid ≠ none ∧
        Answered s t p ([0x14, 0x64] ++ natLE 4 s.sec.nextSid ++ Config.mlKemShare k)) ∧
      (8 ≤ (sessionsOf s p).length → ∃ t, exec (.keyExchange p) s = .next t ∧ t.sec.sess = s.sec.sess ∧
        Answered s t p [0x14, 0x7F, 0x03])) ∧
    ((sessOn s p sid).isSome = true → ∃ t, exec (.finish p sid) s = .next t ∧ secure t p sid = true ∧ Answered s t p [0x14, 0x65]) ∧
    (secure s p sid = true →
      (∃ t, exec (.heartbeat p sid) s = .next t ∧ Answered s t p [0x14, 0x68]) ∧
      (∃ t, exec (.endSession p sid) s = .next t ∧ sessOn t p sid = none ∧ Answered s t p [0x14, 0x6C]) ∧
      (n < 8 → vfPart s p = none ∨ vfOf s p n = true →
        (∃ t, exec (.vendorDefinedRequest p sid n .keyGo) s = .next t ∧ tget false t.hif.ide n = true ∧ Answered s t p [0x14, 0x7E, 0x00]) ∧
        (∃ t, exec (.vendorDefinedRequest p sid n .keyStop) s = .next t ∧ tget false t.hif.ide n = false ∧
          Answered s t p [0x14, 0x7E, 0x00])) ∧
      (n < 64 → functionOf p = some 0 ∨ ((getKey s n).pv = true ∧ vfOf s p (getKey s n).part.toNat = true) →
        ((getKey s n).st = .empty → ∃ t, exec (.keyLoad p sid n key) s = .next t ∧
          getKey t n = { getKey s n with st := .active, key := key } ∧ Answered s t p [0x14, 0x7E, 0x00]) ∧
        ((getKey s n).st ≠ .empty → ∃ t, exec (.keyLoad p sid n key) s = .next t ∧ t.keys = s.keys ∧
          Answered s t p [0x14, 0x7E, 0x01]))) ∧
    (secure s p sid = false → ∃ t, exec (.keyLoad p sid n key) s = .next t ∧ t.keys = s.keys ∧ Answered s t p [0x14, 0x7E, 0x03])

/-! ## Power, pins and start-up -/

/-- The test port (R459, R460): IDCODE, BYPASS and every unsupported opcode load at any time; the instructions that act on
pins load in test mode, and outside it the port goes to BYPASS. Nothing else changes. -/
def Obligations.TestPortLoadsInstructions : Prop :=
  ∀ (s : State) (o : Byte),
    let loads : Instr → TapIr → Prop := fun i r => exec i s = .next { s with tap := { s.tap with ir := if s.tap.test then r else .bypass } }
    exec .idcode s = .next { s with tap := { s.tap with ir := .idcode } } ∧
    (o.toNat = 0 ∨ 7 < o.toNat → exec (.bypass o) s = .next { s with tap := { s.tap with ir := .bypass } }) ∧
    loads .samplePreload .sample ∧ loads .extest .extest ∧ loads .clamp .clamp ∧ loads .highz .highz ∧ loads .extestPulse .pulse ∧
    loads .extestTrain .train

/-- The power stage (R428, R434, R441, R443, R452, R458): it starts at PWR_EN once it has been off long enough, and PWR_GOOD
rises when it is ready; deassertion, a voltage fault and a thermal trip stop it and take everything volatile away; after a
trip it starts only once the module is cool and PWR_EN has been seen deasserted. -/
def Obligations.PowerStageStartsAndStops : Prop :=
  ∀ (s : State),
    (chattering s .pwrEn = false → s.pins.pwrEn = false → s.pins.stage = .off → s.pins.offOk = true →
      ∃ t, exec .pwrEnAssert s = .next t ∧ t = { s with pins := { s.pins with pwrEn := true, stage := .ramp, thermTripN := true, tripArmed := false } }) ∧
    (s.pins.stage = .ramp → exec .powerStageReady s = .next { s with pins := { s.pins with stage := .on, pwrGood := true } }) ∧
    (chattering s .pwrEn = false → s.pins.pwrEn = true → s.pins.stage = .on ∨ s.pins.stage = .ramp →
      ∃ t, exec .pwrEnDeassert s = .next t ∧ ModuleReset s t false ∧ t.pins.pwrEn = false ∧ t.pins.stage = .off ∧ t.pins.pwrGood = false ∧
        t.pins.offOk = false) ∧
    (s.pins.stage = .on ∨ s.pins.stage = .ramp →
      (∃ t, exec .inputVoltageFault s = .next t ∧ ModuleReset s t false ∧ t.pins.stage = .off ∧ t.pins.pwrGood = false) ∧
      (∃ t, exec .thermalTrip s = .next t ∧ ModuleReset s t false ∧ t.pins.stage = .tripped ∧ t.pins.pwrGood = false ∧
        t.pins.thermTripN = false ∧ t.pins.cool = false)) ∧
    (s.pins.pwrGood = false → s.pins.pwrEn = true → s.pins.stage = .off →
      ∃ t, exec .powerOffTimeElapsed s = .next t ∧ t.pins.stage = .ramp ∧ t.pins.offOk = true) ∧
    (s.pins.stage = .tripped → s.pins.pwrEn = true → s.pins.offOk = true →
      ∃ t, exec .restartPermitted s = .next t ∧ t.pins.cool = true ∧ t.pins.stage = (if s.pins.tripArmed then .ramp else .tripped))

/-- PERST_N asserted resets the module, and released it ends test mode (R362, R435, R460). While the brake holds, the cap in
force is at most 350 W (R426, R429). The loss of the PLL's lock resets the module until the lock has held again (R421).
An input that chatters is held in its safe state until it has been stable, with one record an episode (R430, R431); the
brake held for 10 s is stuck (R432); the straps are sampled once, and a later change is ignored with one record (R433). A tile
that is hot, or a draw above the cap in force, has the governor withhold a share of cycles and hold the input at the cap; in
isolation mode it slows the partitions above their own shares (R11, R237, R426, R427). -/
def Obligations.PinsAndInputsAct : Prop :=
  (∀ (s : State),
    (chattering s .perstN = false → s.pins.perstN = true → s.pins.pwrGood = true →
      ∃ t, exec .perstNAssert s = .next t ∧ ModuleReset s t s.hif.warm ∧ t.pins = { s.pins with perstN := false }) ∧
    (chattering s .perstN = false → s.pins.perstN = false → ∃ t, exec .perstNRelease s = .next t ∧
      t = { s with pins := { s.pins with perstN := true }, tap := if s.tap.test then {} else s.tap }) ∧
    (chattering s .pwrBrakeN = false → ∃ t, exec .pwrBrakeAssert s = .next t ∧ t.pins.brakeN = false ∧
      capInForce t = Nat.min s.pwr.cap.toNat 350 ∧ t = { s with pins := { s.pins with brakeN := false }, pwr := t.pwr } ∧
      t.pwr = { s.pwr with brake := true, stuck := t.pwr.stuck, announced := t.pwr.announced }) ∧
    (chattering s .pwrBrakeN = false → ∃ t, exec .pwrBrakeRelease s = .next t ∧ t.pins.brakeN = true ∧ t.pwr.stuck = false ∧
      capInForce t = s.pwr.cap.toNat) ∧
    (s.pins.pwrGood = true → s.pins.pllLock = true → ∃ t, exec .pllLockLoss s = .next t ∧ ModuleReset s t s.hif.warm ∧ t.pins.pllLock = false) ∧
    exec .pllLockHeld s = .next { s with pins := { s.pins with pllLock := true } }) ∧
  (∀ (s : State) (p : Pin) (level : Bool) (feed : BitVec 4) (slotId : BitVec 6) (tile : Nat) (draw : W16) (own : List W16),
    let at_ : State → Pin → Bool := fun t p => match p with | .pwrBrakeN => t.pins.brakeN | .perstN => t.pins.perstN | .pwrEn => t.pins.pwrEn
    (chattering s p = false → ∃ t, exec (.inputChatter p) s = .next t ∧ chattering t p = true ∧ at_ t p = false ∧
      (p = .pwrBrakeN → s.pins.pwrGood = true → Recorded s t 0x0702 0 none)) ∧
    (chattering s p = true → ∃ t, exec (.inputChatterEnd p level) s = .next t ∧ chattering t p = false ∧ at_ t p = level) ∧
    (s.pins.brakeN = false → s.pwr.stuck = false → s.pins.pwrGood = true →
      ∃ t, exec (.inputStuck .pwrBrakeN) s = .next t ∧ t.pwr.stuck = true ∧ Recorded s t 0x0701 0 none) ∧
    (s.pins.pwrGood = true → s.pwr.strapsOk = false →
      exec (.strapSample feed slotId) s = .next { s with pwr := { s.pwr with feedId := feed, slotId := slotId, strapsOk := true } }) ∧
    (s.pwr.strapsOk = true → s.pwr.strapErr = false → s.pins.pwrGood = true → ∃ t, exec .strapChange s = .next t ∧
      t.pwr = { s.pwr with strapErr := true } ∧ Recorded s t 0x0702 0 none) ∧
    (tile < 8 → mayDecide s tile = true → ∃ t, exec (.thermalThrottle tile level) s = .next t ∧ bit t.pwr.hotTiles tile = level ∧
      ∀ k, k < 8 → k ≠ tile → bit t.pwr.hotTiles k = bit s.pwr.hotTiles k) ∧
    (hubRuns s = true → s.dev.isolate = false → draw.toNat ≤ 10 * capInForce s → s.pwr.hotTiles = 0 →
      exec (.governorEvaluation ⟨draw, own⟩) s = .next { s with pwr := { s.pwr with input := draw, slow := 0, throttle := 0 } }) ∧
    (hubRuns s = true → ∃ t, exec (.governorEvaluation ⟨draw, own⟩) s = .next t ∧ t.pwr.input.toNat ≤ 10 * capInForce s ∧
      t.pwr.cap = s.pwr.cap ∧ t.cores = s.cores ∧ t.pwr.throttle.toNat ≤ 100 ∧
      (s.pwr.hotTiles ≠ 0 ∨ t.pwr.slow ≠ 0 → 1 ≤ t.pwr.throttle.toNat) ∧
      (s.dev.isolate = false → 10 * capInForce s < draw.toNat → t.pwr.input.toNat = 10 * capInForce s ∧ t.pwr.slow = 0xFF) ∧
      (s.dev.isolate = true → ∀ k, k < 8 → bit t.pwr.slow k = decide (powerOf s k < (nth 0 own k).toNat))))

/-- The MGC boots the slot its ROM accepts, or goes to recovery (R401, R403). The hub boots with its tag advanced, and enters
Safelight with the cause of R439 where the PUF fails, no image passes, or the newest device record is missing (R364, R402,
R407, R408). Self-test fences the cores that fail, and service begins unless a tile has none left (R437, R438). -/
def Obligations.StartUpGoesThroughItsStages : Prop :=
  ∀ (s : State) (b : Bool) (m : FwImage) (bad : W128) (other : Bool),
    (s.pins.pwrGood = true → s.pins.pllLock = true → s.mgc.booted = false → s.mgc.recovery = false →
      (bootSlot s .mgc = some b → ∃ t, exec .mgcBoot s = .next t ∧ t.mgc.booted = true ∧ t.mgc.mgcRun = some b) ∧
      (bootSlot s .mgc = none → ∃ t, exec .mgcBoot s = .next t ∧ t.mgc.booted = false ∧ t.mgc.recovery = true)) ∧
    (romReady s = true →
      (∃ t, exec (.hubRomBoot false) s = .next t ∧ t.dev.stage = 15 ∧ t.dev.slCause = 3) ∧
      (bootSlot s .hub = none → ∃ t, exec (.hubRomBoot true) s = .next t ∧ t.dev.stage = 15 ∧ t.dev.slCause = 1) ∧
      (bootSlot s .hub = some b → slotImage s .hub b = some m →
        ∃ t, exec (.hubRomBoot true) s = .next t ∧ t.dev.hubTag = s.mgc.tagStore + 1 ∧ t.mgc.hubRun = some b ∧ t.dev.fwVersion = m.version ∧
          (seqHeld s (validRecords s m.key) = true → t.dev.stage = 3 ∧ t.dev.cfgGyv = (masksOf (validRecords s m.key) 1).1 ∧
            t.dev.cfgDev = (masksOf (validRecords s m.key) 1).2) ∧
          (seqHeld s (validRecords s m.key) = false → t.dev.stage = 15 ∧ t.dev.slCause = 2))) ∧
    (s.dev.stage = 3 → underReset s .device = false →
      (other = false → (∀ t, t < 8 → ∃ c, c / 16 = t ∧ isFenced s c = false ∧ bit bad c = false) →
        ∃ t, exec (.selfTestComplete bad other) s = .next t ∧ t.dev.stage = 4 ∧
          ∀ c, c < 128 → isFenced t c = (isFenced s c || bit bad c)) ∧
      (other = true ∨ (∃ t, t < 8 ∧ ∀ c, c / 16 = t → isFenced s c = true ∨ bit bad c = true) →
        ∃ t, exec (.selfTestComplete bad other) s = .next t ∧ t.dev.stage = 15 ∧ t.dev.slCause = 4))

/-- An FLR of a VF, and VF Enable cleared, leave the VFs' rings without commands OFF (R260); a command that has not started on such
a ring ends CANCELLED. PF0's FLR begins a device reset (R261, R362). The loss of an IDE stream leaves its partition's rings OFF or
QUIESCING, writing nothing more to the host (R261). A link below the service point has its running rings quiesce (R241). -/
def Obligations.FunctionsAndLinkAreCutOff : Prop :=
  ∀ (s : State) (n r q p : Nat) (c : Cmd) (rate : BitVec 4) (width : BitVec 5) (flit : Bool),
    (0 < n → n < 64 → barUp s = true → s.hif.vfEnable = true → s.launches = [] →
      (∀ c ∈ s.cmds, c.ring ∉ ringsOf s n) →
      ∃ t, exec (.vfFlr n) s = .next t ∧ (∀ k, (getRing s k).func.toNat = n → (getRing t k).st = .off) ∧
        ∀ vec, vec < 32 → tget {} t.hif.msix (msixKey n vec) = {}) ∧
    (0 < n → n < 64 → barUp s = true → s.hif.vfEnable = true → s.launches = [] → s.steps = [] → s.cmds = [c] → c.ring = r → c.seq = q →
      c.started = false → opcodeOf c ≠ 0x11 → (getRing s r).func.toNat = n → (getRing s r).st = .running →
      ∃ t, exec (.vfFlr n) s = .next t ∧ Ended t r q stCancelled 0 ∧ (getRing t r).st = .off ∧ t.hif.host = s.hif.host) ∧
    (barUp s = true → s.hif.vfEnable = true → s.launches = [] → (∀ c ∈ s.cmds, ∀ m, 0 < m → c.ring ∉ ringsOf s m) →
      ∃ t, exec .vfEnableClear s = .next t ∧ t.hif.vfEnable = false ∧ ∀ k, (getRing s k).func ≠ 0 → (getRing t k).st = .off) ∧
    (barUp s = true → exec .vfEnableSet s = .next { s with hif := { s.hif with vfEnable := true } }) ∧
    (barUp s = true → underReset s .device = false → ∃ t, exec .pf0Flr s = .next t ∧ underReset t .device = true ∧
      t.dev.hubTag = s.dev.hubTag + 1 ∧ t.mgc.tagStore = s.dev.hubTag + 1) ∧
    (p < 8 → tget false s.hif.ide p = true → ∃ t, exec (.ideStreamLoss p) s = .next t ∧ tget false t.hif.ide p = false ∧ t.cmds = s.cmds ∧
      ∀ k, (getRing s k).part.toNat = p → (getRing s k).st ≠ .off → (getRing t k).mute = true ∧
        (getRing t k).st = (if s.cmds.any (fun c => c.ring == k) then .quiescing else .off)) ∧
    (s.pins.pwrGood = true → 5 ≤ rate.toNat → 4 ≤ width.toNat → exec (.pcieLinkTrained rate width flit) s =
      .next { s with hif := { s.hif with rate := rate, width := width, flit := flit } }) ∧
    (s.pins.pwrGood = true → rate.toNat < 5 ∨ width.toNat < 4 →
      let cut : State → Prop := fun t => t.hif.rate = rate ∧ t.hif.width = width ∧ t.cmds = s.cmds ∧
        ∀ k, (getRing s k).st = .running ∨ (getRing s k).st = .broken →
          (getRing t k).enable = false ∧ (getRing t k).st = (if s.cmds.any (fun c => c.ring == k) then .quiescing else .off)
      (∃ t, exec (.linkBelowServicePoint rate width) s = .next t ∧ cut t) ∧
      ∃ t, exec (.pcieLinkTrained rate width flit) s = .next t ∧ t.hif.flit = flit ∧ cut t)

/-- A partition goes to P2, P3 and P4 where its tolerance permits it and the condition of R422 has held; in P4 the link is in
L1.2. Once its exit is complete it is in P0, its cores reset, and the others of a device that was in P4 are in P3 (R423,
R424). -/
def Obligations.PartitionsSleepAndWake : Prop :=
  ∀ (s : State) (p : Nat),
    let x := getPart s p
    p < 8 →
    (x.pstate < 2 → 200 ≤ x.tol → p2Cond s p 105000 = true →
      ∃ t, exec (.p2Entry p) s = .next t ∧ t = setPart s p { x with pstate := 2 }) ∧
    (x.pstate = 2 → 5000 ≤ x.tol → p3Cond s p = true →
      ∃ t, exec (.p3Entry p) s = .next t ∧ t = setPart s p { x with pstate := 3 }) ∧
    (s.hif.inL12 = false → x.enable = true →
      (∀ k, k < 8 → (getPart s k).enable = true → (getPart s k).pstate = 3 ∧ 50000 ≤ (getPart s k).tol ∧ p3Cond s k = true) →
      ∃ t, exec .p4Entry s = .next t ∧ t.hif.inL12 = true ∧ ∀ k, k < 8 → (getPart s k).enable = true → (getPart t k).pstate = 4) ∧
    (x.waking = true → s.launches = [] → ∃ t, exec (.powerStateExitComplete p) s = .next t ∧ (getPart t p).pstate = 0 ∧
      (getPart t p).waking = false ∧ t.hif.inL12 = false ∧
      (∀ c ∈ partCores x, (getCore t c).run = .idle ∧ (getCore t c).maps = []) ∧
      (s.hif.inL12 = true → ∀ k, k < 8 → k ≠ p → (getPart s k).enable = true → (getPart s k).pstate = 4 → (getPart t k).pstate = 3))

/-- A Zhevlink port trains through DETECT, EQUALIZE, ALIGN and NEGOTIATE to ACTIVE at the widest lane group both ends
report good, with a credit for each buffer of the peer; a mismatch or a third failed attempt ends in DOWN with E_LINK_DOWN, and DOWN
is left after one second (R310, R311, R313). From ACTIVE a lane with more than 2,048 corrected symbols in 1 ms, or a request, goes to
RETRAIN (R309, R312); ACTIVE again, the port announces its buffers and holds its data flits (R314). -/
def Obligations.PortsTrain : Prop :=
  ∀ (s : State) (p port lane n : Nat) (lanes mask : Byte) (plane : BitVec 2) (peer : W16) (g : Byte × BitVec 2)
    (bufs : List Nat),
    let x := getPort s p
    let groups := laneGroups.find? (fun g => x.lanesOk &&& mask &&& g.1 == g.1)
    p < 6 →
    (x.st = .detect → 2 ≤ laneCount lanes → ∃ t, exec (.portSignalDetect p lanes) s = .next t ∧
      (getPort t p).st = .equalize ∧ (getPort t p).seen = lanes ∧ (getPort t p).since = s.time.ftime ∧ ∀ q, q ≠ p → getPort t q = getPort s q) ∧
    (x.st = .detect → laneCount lanes < 2 → exec (.portSignalDetect p lanes) s = .next s) ∧
    (x.st = .equalize → ∃ t, exec (.equalizeConverged p) s = .next t ∧ (getPort t p).st = .align ∧ (getPort t p).since = s.time.ftime) ∧
    (x.st = .align ∨ x.st = .retrain → ∃ t, exec (.alignDone p mask) s = .next t ∧ (getPort t p).st = .negotiate ∧
      (getPort t p).lanesOk = mask &&& ~~~ fencedLanes s p &&& ~~~ x.failing) ∧
    (x.st = .negotiate → plane.toNat = p / 2 → groups = some g → ∃ t, exec (.negotiateDone p mask plane p ⟨peer, bufs⟩) s = .next t ∧
      (getPort t p).st = .active ∧ (getPort t p).width = g.2 ∧ (getPort t p).peer = peer ∧ (getPort t p).attempts = 0 ∧
      (g.2.toNat < x.prev.toNat → Recorded s t 0x0502 0 none) ∧
      (x.again = false → x.txq = [] → s.fab.txCh = [] → (getPort t p).credits = [0, 1, 2, 3].map (fun v => (v, nth 0 bufs v))) ∧
      (x.again = true → (getPort t p).hold = true ∧ (getPort t p).replay = x.replay ∧ .creditInit p [16, 256, 256, 256] ∈ t.fab.txLink)) ∧
    (x.st = .negotiate → plane.toNat ≠ p / 2 ∨ port ≠ p ∨ groups = none → ∃ t, exec (.negotiateDone p mask plane port ⟨peer, bufs⟩) s = .next t ∧
      (getPort t p).st = .down ∧ (getPort t p).peer = peer ∧ Recorded s t 0x0501 0 none) ∧
    (stateLimit x.st = some n → x.since + n < s.time.ftime → ∃ t, exec (.linkStateTimeout p) s = .next t ∧
      (getPort t p).attempts = x.attempts + 1 ∧
      (x.attempts + 1 < 3 → (getPort t p).st = .detect) ∧
      (3 ≤ x.attempts + 1 → (getPort t p).st = .down ∧ Recorded s t 0x0501 0 none)) ∧
    (x.st = .down → x.since + 1050000000 ≤ s.time.ftime → ∃ t, exec (.portDownTimer p) s = .next t ∧
      (getPort t p).st = .detect ∧ (getPort t p).attempts = 0) ∧
    (lane < 8 → x.st = .active →
      let w := corrected x s.time.ftime lane ++ [(s.time.ftime, n)]
      ∃ t, exec (.laneFailing p ⟨lane, n⟩) s = .next t ∧ (getPort t p).replay = x.replay ∧ tget [] (getPort t p).corr lane = w ∧
        (2048 < (w.map (·.2)).sum → (getPort t p).st = .retrain ∧ bit (getPort t p).failing lane = true) ∧
        ((w.map (·.2)).sum ≤ 2048 → (getPort t p).st = .active ∧ (getPort t p).failing = x.failing)) ∧
    (x.st = .active → ∃ t, exec (.retrainReq p) s = .next t ∧ (getPort t p).st = .retrain ∧
      (getPort t p).retrains = (if x.retrains = 0xFFFF then x.retrains else x.retrains + 1)) ∧
    (x.st ≠ .active → exec (.retrainReq p) s = .next s)

/-- An ACTIVE port takes the flit with the expected SEQ whose CRC holds, returning its credit and acknowledgement; it answers a
lost one with a single NAK (R309, R312 to R314). At a NAK it sends the replay buffer again from the SEQ after the one named, as far as
it has been sent, and at the eighth NAK in a row for one SEQ it retrains; after a retrain it replays in order, each flit for a credit of
the peer, before any new flit (R314). -/
def Obligations.PortsCarryFlits : Prop :=
  ∀ (s : State) (p : Nat) (f : Flit) (q : BitVec 12) (free : List Nat) (i : Inject),
    let x := getPort s p
    p < 6 → x.st = .active →
    (x.discard = false → ∃ t, exec (.uncorrectableCodeword p) s = .next t ∧ (getPort t p).discard = true ∧
      t.fab.txLink = s.fab.txLink ++ [.nak p (x.rxSeq - 1)] ∧ (getPort t p).rxSeq = x.rxSeq) ∧
    (x.discard = true → exec (.uncorrectableCodeword p) s = .next s) ∧
    (flitInjection s p = none → crcHolds f = true → f.seq = x.rxSeq → ∃ t, exec (.dataFlit p f) s = .next t ∧
      (getPort t p).rxSeq = x.rxSeq + 1 ∧ (getPort t p).discard = false ∧
      t.fab.txLink = s.fab.txLink ++ [.idle p f.seq f.vc.toNat 1] ∧
      (getPort t p).rx = (if f.eop then
        x.rx ++ [(if f.sop then [] else tget [] x.asm f.vc.toNat) ++ f.payload.take (f.nb.toNat + 1)] else x.rx) ∧
      (f.ackv = true → x.replay.any (fun y => y.seq == f.ack) = true → (getPort t p).acked = f.ack)) ∧
    (flitInjection s p = none → x.discard = false → crcHolds f = false ∨ f.seq ≠ x.rxSeq → ∃ t, exec (.dataFlit p f) s = .next t ∧
      (getPort t p).discard = true ∧ (getPort t p).rx = x.rx ∧ t.fab.txLink = s.fab.txLink ++ [.nak p (x.rxSeq - 1)]) ∧
    (flitInjection s p = some i → ∃ t, exec (.dataFlit p f) s = .next t ∧ (getPort t p).discard = true ∧
      t.err.armed = s.err.armed.erase i ∧ (getPort t p).rx = x.rx) ∧
    (x.nakSame < 7 ∨ x.nakSeq ≠ q → (x.nakMs.filter (fun u => decide (s.time.ftime < u + 1050000))).length < 1000 →
      ∃ t, exec (.nak p q) s = .next t ∧ (getPort t p).st = .active ∧
        (let y := ackReplay x q
         let fs := y.replay.take (y.replay.length - y.due)
         t.fab.wire = s.fab.wire ++ fs.map (fun f => (p, f)) ∧ (getPort t p).retry = (x.retry + fs.length) % 2 ^ 64)) ∧
    (x.nakSame = 7 → x.nakSeq = q → ∃ t, exec (.nak p q) s = .next t ∧ (getPort t p).st = .retrain) ∧
    (∃ t n l, exec (.creditInit p free) s = .next t ∧ (getPort t p).hold = false ∧ n ≤ x.replay.length ∧
      t.fab.wire = s.fab.wire ++ (x.replay.take n).map (fun y => (p, y)) ++ l ∧ (getPort t p).due = x.replay.length - n ∧
      (getPort t p).retry % 2 ^ 64 = (x.retry + n) % 2 ^ 64 ∧ (n < x.replay.length → l = []) ∧
      ((∀ v, (x.replay.filter (fun y => y.vc.toNat == v)).length ≤ nth 0 free v) → n = x.replay.length))

/-- Fabric time (R323, R324). An ACTIVE port answers TIME_REQ with its times, state and bound; the 1 ms exchange asks the source
port, and without one a device in ACQUIRING is FREE. A response within 100 microseconds whose delay is at most 5,000 ticks disciplines
the clock by its offset: the first time by a step where it exceeds 64 ticks, later by slewing; eight offsets in a row of at most
8 ticks give LOCKED, from HOLDOVER too, and one above 1,024 ticks ACQUIRING again. Any other response, and none within 100 microseconds,
is a failed exchange; 10 ms without a valid one give HOLDOVER. -/
def Obligations.FabricTimeIsDisciplined : Prop :=
  ∀ (s : State) (p t1 : Nat) (t2 t3 : W64) (st : BitVec 2) (b : W16),
    let d := (((s.time.ftime : Int) - t1) - ((t3.toNat : Int) - t2.toNat)) / 2
    let th := (((t1 : Int) - t2.toNat) + ((s.time.ftime : Int) - t3.toNat)) / 2
    let acq := s.time.tstate = tsFree ∨ s.time.tstate = tsAcquiring
    let good := if th.natAbs ≤ 8 then s.time.good + 1 else 0
    p < 6 →
    ((getPort s p).st = .active → ∃ t, exec (.timeReq p) s = .next t ∧ t.time = s.time ∧
      t.fab.txLink = s.fab.txLink ++ [.timeRsp p s.time.ftime s.time.ftime s.time.tstate s.time.bound]) ∧
    (lowPowerIdle s = false → timeSource s = some p → ∃ t, exec .timeExchange s = .next t ∧ t.time.src = p ∧
      t.time.req = some (p, s.time.ftime) ∧ t.fab.txLink = s.fab.txLink ++ [.timeReq p]) ∧
    (lowPowerIdle s = false → timeSource s = none → ∃ t, exec .timeExchange s = .next t ∧ t.time.src = 15 ∧ t.time.req = none ∧
      t.time.tstate = (if s.time.tstate = tsAcquiring then tsFree else s.time.tstate)) ∧
    (s.time.req = some (p, t1) → s.time.ftime ≤ t1 + 105000 → d ≤ 5000 → ∃ t, exec (.timeRsp p t2 t3 st b) s = .next t ∧
      t.time.req = none ∧ t.time.fails = 0 ∧ t.time.theta = th ∧ t.time.bound = b.toNat + 4 ∧
      (acq → t.time.tstate = if 8 ≤ good then tsLocked else tsAcquiring) ∧
      (¬ acq → t.time.tstate = if 1024 < th.natAbs then tsAcquiring
        else if s.time.tstate = tsHoldover ∧ good < 8 then tsHoldover else tsLocked) ∧
      (acq → s.time.everLock = false → 64 < th.natAbs →
        t.time.ftime = ((s.time.ftime : Int) - th).toNat % 2 ^ 64 ∧ t.time.slew = s.time.slew) ∧
      (th.natAbs ≤ 64 → t.time.ftime = s.time.ftime ∧ t.time.slew = s.time.slew - th)) ∧
    (s.time.req = some (p, t1) → t1 + 105000 < s.time.ftime ∨ 5000 < d → ∃ t, exec (.timeRsp p t2 t3 st b) s = .next t ∧
      t.time.req = none ∧ t.time.fails = s.time.fails + 1 ∧ t.time.ftime = s.time.ftime ∧ t.time.tstate = s.time.tstate) ∧
    (s.time.req = some (p, t1) → t1 + 105000 < s.time.ftime → exec .timeRspTimeout s = .next { s with
      time := { s.time with req := none, fails := s.time.fails + 1, good := 0 } }) ∧
    (s.time.tstate = tsLocked → s.time.lastOk + 10500000 ≤ s.time.ftime → exec .timeHoldover s = .next { s with
      time := { s.time with tstate := tsHoldover, holdMs := 0 } })

/-- Fabric writes and reads (R320): a job member's packet to a working region has its effect, any other is refused and counted. An
ACK releases packets up to its CSEQ; acknowledgements are sent after 16 packets or 2 microseconds; a channel without progress for
50 microseconds is sent again (R317). A newer generation opens channels anew, an older one is dropped (R318). -/
def Obligations.PacketsAreDelivered : Prop :=
  ∀ (s : State) (p len : Nat) (k : Pkt) (body : List Byte) (dst ch : W16) (c : TxChan) (r : RxChan) (d : W64),
    let m := readPart s p 0 k.addr.toNat len
    let met := workErrors s p k.addr.toNat body.length
    p < 8 →
    (Delivered s p k → jobMember s p k = true → workAddr k.addr = true → writeErr s p 0 k.addr.toNat body.length = none →
      met.2 = none → Room s (body.length + 1) → ∃ t u, storePart (met.1.foldl raise' s) p k.addr.toNat body = some u ∧
        exec (.write k body) s = .next t ∧ t.mem = u.mem ∧ AcceptedPkt t p k) ∧
    (Delivered s p k → jobMember s p k = false ∨ workAddr k.addr = false → ∃ t, exec (.write k body) s = .next t ∧ t.mem = s.mem ∧
      t.fab.refused = s.fab.refused + 1 ∧ Recorded s t 0 0x0021 (some p) ∧
      t.fab.tx = s.fab.tx ++ [ackPkt s p k.src k.chan k.cseq.toNat 0x01] ∧ AcceptedPkt t p k) ∧
    (Delivered s p k → jobMember s p k = true → workAddr k.addr = true → m.err = none → m.ue = none → m.ces = [] →
      ∃ t, exec (.readReq k len) s = .next t ∧ Queued t p k.src k.chan (.bytes m.bytes) ∧ t.mem = s.mem ∧ AcceptedPkt t p k) ∧
    (Delivered s p k → jobMember s p k = false ∨ workAddr k.addr = false → ∃ t, exec (.readReq k len) s = .next t ∧
      Queued t p k.src k.chan (.bytes []) ∧ t.fab.refused = s.fab.refused + 1 ∧ AcceptedPkt t p k) ∧
    (Delivered s p k → ∃ t, exec (.readRsp k body) s = .next t ∧ t.fab.reads = s.fab.reads ++ [(k.src, k.status.toNat, body)] ∧
      AcceptedPkt t p k) ∧
    (Heard s p k → tfind s.fab.peers k.src.toNat = none ∨ genAge s k.src k.gen = .same →
      s.fab.txCh.find? (isTx p k.src k.chan) = some c → ∃ t x, exec (.ack k) s = .next t ∧
      t.fab.txCh.find? (isTx p k.src k.chan) = some x ∧ x.unack = c.unack.filter (fun y => !cseqLe y.cseq k.cseq.toNat)) ∧
    (s.fab.rxCh.find? (isRx p dst ch) = some r → 16 ≤ r.since ∨ (r.since ≠ 0 ∧ r.firstAt + 2100 ≤ s.time.ftime) →
      ∃ t, exec (.ackSend p dst ch) s = .next t ∧ (rxOf t p dst ch) = { r with since := 0 } ∧
        t.fab.tx = s.fab.tx ++ [ackPkt s p dst ch ((r.expect + 2 ^ 32 - 1) % 2 ^ 32) 0x00]) ∧
    (s.fab.txCh.find? (isTx p dst ch) = some c → c.unack ≠ [] → Nat.max c.moved c.resent + 52500 ≤ s.time.ftime →
      ∃ t, exec (.channelResend p dst ch) s = .next t ∧ t.fab.tx = s.fab.tx ++ c.unack.take 1024) ∧
    (Heard s p k → tfind s.fab.peers k.src.toNat = none → k.job = 0 → s.launches = [] →
      ∃ t, exec (.channelOpen k d) s = .next t ∧ tfind t.fab.peers k.src.toNat = some k.gen ∧ (rxOf t p k.src k.chan).expect = 1) ∧
    (Heard s p k → tfind s.fab.peers k.src.toNat = none → k.job ≠ 0 → (∀ j, (getJob s j).st ≠ .forming) → s.launches = [] →
      ∃ t, exec (.channelOpen k d) s = .next t ∧ (p, k.src, k.job, d) ∈ t.fab.opens) ∧
    (Heard s p k → genAge s k.src k.gen = .newer → k.job = 0 → s.fab.jobs = [] → s.exps = [] → s.sess = [] → s.launches = [] →
      s.fab.txCh = [c] → c.dst = k.src → c.unack = [] → (tfind s.fab.peers k.src.toNat).isSome = true →
      ∃ t x y, exec (.channelOpen k d) s = .next t ∧ t.fab.txCh = [x] ∧ x.unack = [y] ∧ y.kind = pkOpen ∧ y.cseq = 0 ∧ x.next = 1) ∧
    (partsOfEp s k.dst = [p] → (getPart s p).pstate < 2 → k.ecrcOk = true → genAge s k.src k.gen = .older → s.launches = [] →
      exec (.channelOpen k d) s = .next (dropStale s))

/-- What a packet of the transport passes before it is taken (R317, R318): one whose ECRC fails is discarded with a corrected record,
one of another generation is dropped and counted, one out of CSEQ order is discarded and its channel goes on expecting the same. -/
def Obligations.PacketsAreChecked : Prop :=
  ∀ (s : State) (p n : Nat) (k : Pkt) (body : List Byte) (h : CollHdr) (m : SepHdr) (counts : List W16) (rows : List (List Byte))
    (ep set : W16) (d : W256) (hd : W32) (q ft : W64),
    p < 8 → partsOfEp s k.dst = [p] → (getPart s p).pstate < 2 →
    ∀ i ∈ ([.write k body, .readReq k n, .readRsp k body, .collective k h body, .memberMove k n ep, .plateReq k set n,
        .plateRsp k set n body, .dispatch k m counts rows, .return_ k m rows, .tagRetire k m, .herdDigest k n n d,
        .keepalive k hd, .keepaliveReply k hd, .exposureAck k hd q ft, .takeover k hd] : List Instr),
      (k.ecrcOk = false → ∃ t, exec i s = .next t ∧ Recorded s t 0 0x0010 (some p) ∧ t.fab = s.fab ∧ t.mem = s.mem) ∧
      (k.ecrcOk = true → genAge s k.src k.gen ≠ .same → exec i s = .next { s with fab := { s.fab with stale := (s.fab.stale + 1) % 2 ^ 64 } }) ∧
      (k.ecrcOk = true → genAge s k.src k.gen = .same → k.cseq.toNat ≠ (rxOf s p k.src k.chan).expect →
        ∃ t, exec i s = .next t ∧ rxOf t p k.src k.chan = { rxOf s p k.src k.chan with drops := (rxOf s p k.src k.chan).drops + 1 } ∧
          t.mem = s.mem ∧ t.sess = s.sess ∧ t.sep = s.sep ∧ t.cmds = s.cmds)

/-- Job messages (R296, R327, R330 to R332). A part of a collective this member has not joined is held. A Stop bath stops an ACTIVE
job: its tags are retired, its collectives abandoned, E_STOP_BATH recorded; one for an unknown job, or a second for a stopped one,
is only counted. A member move replaces the rank's endpoint and opens channels to it. A plate request is answered with the resident
plate, or with nothing; what arrives of a plate joins what came before. -/
def Obligations.JobMessagesAct : Prop :=
  ∀ (s : State) (p ji n : Nat) (k : Pkt) (h : CollHdr) (body : List Byte) (b : StopBody) (ep set : W16) (y : Plate) (w : W64),
    let j := getJob s ji
    let piece : CollPiece := { rank := h.rank.toNat, phase := h.phase.toNat, base := h.base.toNat, total := h.total.toNat,
                               elems := bytesElems h.dtype h.nelem.toNat body }
    p < 8 →
    (Delivered s p k → jobById s p k.job = some ji → j.st = .active → j.abandoned.contains h.seq = false → s.launches = [] →
      s.fab.colls.any (isColl ji h.seq) = false → ∃ t, exec (.collective k h body) s = .next t ∧ AcceptedPkt t p k ∧
        t.fab.colls = s.fab.colls ++ [{ job := ji, seq := h.seq, op := h.op, dtype := h.dtype, got := [piece] }]) ∧
    (Delivered s p k → jobById s p k.job = some ji → j.abandoned.contains h.seq = true → s.launches = [] →
      ∃ t, exec (.collective k h body) s = .next t ∧ t.fab.colls = s.fab.colls ∧ AcceptedPkt t p k) ∧
    (Heard s p k → genAge s k.src k.gen = .same → shadowsOf s p b.origin = [] → jobById s p k.job = none → exec (.stopBath k b) s = .next { s with
      fab := { s.fab with unknownStops := s.fab.unknownStops + 1 } }) ∧
    (Heard s p k → genAge s k.src k.gen = .same → shadowsOf s p b.origin = [] → jobById s p k.job = some ji → j.st = .active → s.cmds = [] → s.steps = [] →
      s.launches = [] → ∃ t, exec (.stopBath k b) s = .next t ∧ (getJob t ji).st = .stopped ∧
        (getJob t ji).stop = some (b.origin, b.stopNum) ∧ (getJob t ji).openTags = [] ∧ (∀ c ∈ t.fab.colls, c.job ≠ ji) ∧
        (∀ c ∈ s.fab.colls, c.job = ji → c.seq ∈ (getJob t ji).abandoned) ∧ Recorded s t 0x0503 0 (some p)) ∧
    (Heard s p k → genAge s k.src k.gen = .same → shadowsOf s p b.origin = [] → jobById s p k.job = some ji → j.st = .stopped →
      exec (.stopBath k b) s = .next (if j.stop = some (b.origin, b.stopNum) then s
        else { s with fab := { s.fab with dupes := s.fab.dupes + 1 } })) ∧
    (Delivered s p k → jobById s p k.job = some ji → ∃ t, exec (.memberMove k n ep) s = .next t ∧
      (getJob t ji).members = j.members.set n ep ∧ AcceptedPkt t p k ∧
      ∀ ch ∈ [chSep, chColl, chJob], t.fab.txCh.any (isTx p ep ch) = true) ∧
    (Delivered s p k → heldPlate s p set n = none → ∃ t, exec (.plateReq k set n) s = .next t ∧
      Queued t p k.src k.chan (.plateRsp set n []) ∧ AcceptedPkt t p k) ∧
    (Delivered s p k → heldPlate s p set n = some y → (∀ f ∈ y.frames, lineErrors s f 0 1023 = ([], none)) →
      ∃ t, exec (.plateReq k set n) s = .next t ∧ AcceptedPkt t p k ∧
      ∀ d ∈ chunks 65536 (plateBytes s y), Queued t p k.src k.chan (.plateRsp set n d)) ∧
    (Delivered s p k → (findSet s p set).isSome = true → getPlate s p set n = y → underWay y = true → attemptSource y = some w →
      bits w 63 62 = 2 → bits w 61 46 = k.src.toNat → body ≠ [] → y.buf.length + body.length < y.length → s.launches = [] →
      ∃ t, exec (.plateRsp k set n body) s = .next t ∧ (getPlate t p set n).buf = y.buf ++ body ∧ AcceptedPkt t p k)

/-- Separator messages (R200, R202, R204, R207 to R211). A dispatch of a retired tag, or one that names experts the endpoint does not
hold, is answered with no rows and its status; another is held until a message of every member is here. A return joins the results
of its batch and gives its credits back; one that names wrong experts stops the job; one for no open batch is counted as stale. A tag-retire message retires its tag. A message
header older than its sender's generation is dropped. -/
def Obligations.SeparatorMessagesAct : Prop :=
  ∀ (s : State) (p ji n : Nat) (k : Pkt) (h : SepHdr) (counts : List W16) (rows : List (List Byte)) (m : W16) (b : Batch) (q : SepMsg),
    let j := getJob s ji
    let d : DestMsg := { src := k.src, job := k.job, tag := h.tag, layer := h.layer.toNat, index := h.msgIndex.toNat,
                         count := h.msgCount.toNat, counts := counts, rows := rows, base := h.rowBase.toNat,
                         credits := h.credits.toNat, part := p }
    p < 8 → Delivered s p k →
    (sepStale k h = true → ∀ i ∈ ([.dispatch k h counts rows, .return_ k h rows, .tagRetire k h] : List Instr),
      ∃ t, exec i s = .next t ∧ t.fab.stale = (s.fab.stale + 1) % 2 ^ 64 ∧ t.sep = s.sep ∧ t.fab.jobs = s.fab.jobs ∧ AcceptedPkt t p k) ∧
    (sepStale k h = false → jobById s p k.job = some ji → s.launches = [] → s.sep.batches = [] → s.sep.dest = [] →
      (k.src ≠ epOf s p → j.retired.contains h.tag = true → ∃ t x, exec (.dispatch k h counts rows) s = .next t ∧
        Queued t p k.src chSep (.sep 0x02 x [] []) ∧ x.status = 0x02 ∧ x.tag = h.tag ∧ x.msgIndex = h.msgIndex ∧
        x.credits = h.credits ∧ t.sep.dest = []) ∧
      (k.src ≠ epOf s p → j.retired.contains h.tag = false → wrongExperts s p ji d = true →
        ∃ t x, exec (.dispatch k h counts rows) s = .next t ∧ Queued t p k.src chSep (.sep 0x02 x [] []) ∧ x.status = 0x07 ∧
          x.tag = h.tag ∧ t.sep.dest = []) ∧
      (j.retired.contains h.tag = false → wrongExperts s p ji d = false → MemorySound s → rows ≠ [] → m ∈ j.members →
        m ≠ k.src → ∃ t, exec (.dispatch k h counts rows) s = .next t ∧ t.sep.dest = [d] ∧ AcceptedPkt t p k) ∧
      (∃ t, exec (.return_ k h rows) s = .next t ∧ (getPart t p).stale = (getPart s p).stale + 1 ∧ AcceptedPkt t p k) ∧
      (∃ t, exec (.tagRetire k h) s = .next t ∧ h.tag ∉ (getJob t ji).openTags ∧ h.tag ∈ (getJob t ji).retired ∧ AcceptedPkt t p k)) ∧
    (sepStale k h = false → jobById s p k.job = some ji → s.launches = [] → s.sep.dest = [] → s.sep.batches = [b] → b.failed = false →
      b.job = ji → b.tag = h.tag → b.layer = h.layer.toNat → (∀ y ∈ b.msgs, y.sent = true) →
      b.msgs.find? (fun y => y.dst == k.src && y.index == h.msgIndex.toNat && y.sent && !y.back) = some q →
      s.sep.credits = [((ji, k.src.toNat), n)] →
      (h.status = 0 → (∃ y ∈ b.msgs, y.back = false ∧ ¬ (y.dst = k.src ∧ y.index = h.msgIndex.toNat)) →
        ∃ t x, exec (.return_ k h rows) s = .next t ∧ t.sep.batches = [x] ∧ x.results = b.results ++ q.rows.zip rows ∧
          (∀ y ∈ x.msgs, y.dst = k.src → y.index = h.msgIndex.toNat → y.back = true) ∧
          getCredits t ji k.src.toNat 0 = n + h.credits.toNat) ∧
      (h.status = 0x02 → ∃ t x, exec (.return_ k h rows) s = .next t ∧ t.sep.batches = [x] ∧ x.failed = true ∧
        getCredits t ji k.src.toNat 0 = n + h.credits.toNat) ∧
      (h.status = 0x07 → ji < 64 → j.st = .active → s.cmds = [] → s.steps = [] → ∃ t, exec (.return_ k h rows) s = .next t ∧
        (getJob t ji).st = .stopped ∧ Recorded s t 0 0x0009 (some b.part)))

/-- A unit that makes no progress for longer than its window raises E_PROGRESS_STALL (R358 to R360): a core is reset, the oldest
command of a ring ends FAULT, a port retrains, and a channel or a batch that waits stops the jobs it belongs to. A heartbeat that
does not advance for 100 ms raises E_HEARTBEAT (R361): in service it resets its tile or the hub, before that, and in a device
recovery, the device enters Safelight. -/
def Obligations.StalledUnitsAreStopped : Prop :=
  ∀ (s : State) (n v j r q a : Nat) (c : Cmd) (dst ch tag layer : W16) (x : TxChan) (b : Batch) (rc : Recovery),
    let k := getCore s n
    let part := k.ctx.map (·.part)
    let pt := getPart s (corePart k)
    let free := isLatched s uHub 0 = false ∧ underReset s .hub = false
    let rec_ := if v = 0 then none else partOfTile s (v - 1)
    (∀ i ∈ ([.sequencerStall n, .loaderStall n, .storerStall n] : List Instr), n < 128 → coreWatched s n = true → s.fab.jobs = [] →
      (i = .sequencerStall n → k.sqAt + winTicks pt.seqWin < k.cyc) →
      (i = .loaderStall n → headAddr k 1 = some a ∧ k.ldMove + winTicks pt.ldstWin < k.cyc) →
      (i = .storerStall n → headAddr k 2 = some a ∧ k.stMove + winTicks pt.ldstWin < k.cyc) →
      ∃ t, exec i s = .next t ∧ (getCore t n).run = .stopped ∧ (getCore t n).flights = [] ∧ (getCore t n).tag = k.tag + 1 ∧
        underReset t (.core n) = true ∧ Recorded s t 0x0301 0 part) ∧
    (r < 32768 → s.cmds = [c] → c.ring = r → c.seq = q → c.started = true → c.wait ≠ .pairing → c.cls ≠ clsFixed → exemptWait s c = false →
      free → s.steps = [] → s.launches = [] → s.exps = [] →
      (getRing s r).moved + winTicks (getPart s (getRing s r).part.toNat).ringWin < s.time.ftime →
      ∃ t, exec (.ringConsumerStall r) s = .next t ∧ Faulted t r q ∧ Recorded s t 0x0301 0 (some c.part)) ∧
    (n < 6 → v < 4 → (getPort s n).st = .active → v ∈ waitingVcs (getPort s n) → isLatched s uPort n = false →
      tget 0 (getPort s n).crAt v + portWin s < s.time.ftime →
      ∃ t, exec (.portCreditStall n v) s = .next t ∧ (getPort t n).st = .retrain ∧ Recorded s t 0x0301 0 none) ∧
    (n < 8 → s.fab.txCh.find? (isTx n dst ch) = some x → x.unack ≠ [] → free →
      x.moved + winTicks (getPart s n).fabricWin < s.time.ftime → s.exps = [] → s.cmds = [] →
      ((∀ i, (getJob s i).st = .active → (getJob s i).members.contains dst = false) →
        ∃ t y, exec (.channelStall n dst ch) s = .next t ∧ Recorded s t 0x0301 0x0011 (some n) ∧
          t.fab.txCh.find? (isTx n dst ch) = some y ∧ y.moved = s.time.ftime ∧ y.unack = x.unack) ∧
      (j < 64 → (getJob s j).st = .active → (getJob s j).members.contains dst = true →
        s.steps = [] → s.launches = [] →
        ∃ t, exec (.channelStall n dst ch) s = .next t ∧ (getJob t j).st = .stopped)) ∧
    (j < 64 → s.sep.batches.find? (fun b => b.job == j && b.tag == tag && b.layer == layer.toNat && !b.failed) = some b →
      sepArmed b = true → isLatched s uSep 0 = false → underReset s .hub = false → b.lastMove + winTicks (getPart s b.part).fabricWin < s.time.ftime →
      (getJob s j).st = .active → s.cmds = [] → s.steps = [] → s.launches = [] →
      ∃ t, exec (.separatorStall j tag layer) s = .next t ∧ (getJob t j).st = .stopped ∧ tag ∉ (getJob t j).openTags ∧
        Recorded s t 0x0301 0 (some b.part)) ∧
    (v < 9 → hbWatched s v = true → ∃ t, exec (.heartbeatAdvance v) s = .next t ∧
      tget 0 t.err.hbCount v = (tget 0 s.err.hbCount v + 1) % 2 ^ 32 ∧ tget 0 t.err.hbLast v = s.time.ftime) ∧
    (v < 9 → hbWatched s v = true → tget 0 s.err.hbLast v + 105000000 ≤ s.time.ftime →
      (s.dev.recovery = [] → s.dev.stage.toNat < 4 → ∃ t, exec (.heartbeatLost v) s = .next t ∧ t.dev.stage = 15 ∧ t.dev.slCause = 5 ∧
        Recorded s t 0x0302 0 rec_) ∧
      (s.dev.recovery = [] → s.dev.stage = 4 → v = 0 → isLatched s uMgc 0 = false → ∃ t, exec (.heartbeatLost v) s = .next t ∧
        underReset t .hub = true ∧ t.dev.hubTag = s.dev.hubTag + 1 ∧ Recorded s t 0x0302 0 rec_) ∧
      (s.dev.recovery = [] → s.dev.stage = 4 → 0 < v → s.fab.jobs = [] → isLatched s uHub 0 = false → ∃ t, exec (.heartbeatLost v) s = .next t ∧
        underReset t (.tile (v - 1)) = true ∧ (∀ i, i / 16 = v - 1 → (getCore t i).run = .stopped) ∧
        tget 0 t.dev.tileTags (v - 1) = tget 0 s.dev.tileTags (v - 1) + 1 ∧ Recorded s t 0x0302 0 rec_) ∧
      (s.dev.recovery = [rc] → rc.dom = .device → ∃ t, exec (.heartbeatLost v) s = .next t ∧ t.dev.stage = 15 ∧ t.dev.slCause = 6))

/-- The steps of a reset (R345, R362, R365): at the end of the quiesce the domain's logic is reset, a quiesce of over 1 ms is reset
with its enclosing domain, the device going to Safelight, and at release the domain's units are available again. -/
def Obligations.ResetsGoThroughTheirSteps : Prop :=
  ∀ (s : State) (d : Domain) (r : Recovery) (c n : Nat),
    let cleared := fun (t : State) => (getCore t c).padW = clearPad (getCore s c).padW ∧ (getCore t c).padA = clearPad (getCore s c).padA ∧
      (getCore t c).padP = clearPad (getCore s c).padP
    recoveryOf s d = some r →
    (r.inReset = false → ∃ t, exec (.resetQuiesceDone d) s = .next t ∧ recoveryOf t d = some { r with inReset := true } ∧
      (d = .core c ∨ (d = .tile n ∧ c / 16 = n) → (getCore t c).run = .stopped ∧ (getCore t c).maps = [] ∧ cleared t) ∧
      (d = .hub → t.sep = {} ∧ t.fab.colls = [] ∧ t.fab.rxCh = [] ∧ (∀ p, (getPort t p).st = .disabled) ∧ t.rings = s.rings ∧ t.sess = s.sess) ∧
      (d = .device → (getCore t c).run = .idle ∧ cleared t ∧ t.sess = [] ∧ t.parts = [] ∧ t.keys = [] ∧ t.psets = [] ∧ t.cmds = [] ∧ t.dev.hubTag = s.dev.hubTag ∧
        (s.hif.warm = false → t.rings = []) ∧
        (s.hif.warm = true → ∀ k, (getRing t k).st = .off ∧ (getRing t k).cls = (getRing s k).cls ∧ (getRing t k).sqBase = (getRing s k).sqBase))) ∧
    (r.inReset = false → r.since + 1050000 ≤ s.time.ftime → ∃ t, exec (.resetQuiesceTimeout d) s = .next t ∧
      (d = .core c → underReset t (.tile (c / 16)) = true ∧ (s.fab.jobs = [] → Recorded s t 0x0303 0 (partOfTile s (c / 16)))) ∧
      (d = .tile n ∨ d = .hub → underReset t .device = true ∧ t.dev.hubTag = s.dev.hubTag + 1 ∧ Recorded s t 0x0303 0 none) ∧
      (d = .device → t.dev.stage = 15 ∧ t.dev.slCause = 6 ∧ Recorded s t 0x0303 0 none)) ∧
    (r.inReset = true → s.launches = [] → (∀ x ∈ s.cmds, x.started = false) → ∃ t, exec (.resetRelease d) s = .next t ∧ recoveryOf t d = none ∧
      (d = .core c → (getCore t c).run = .idle ∧ (getCore t c).ctx = none) ∧
      (d = .tile n → c / 16 = n → (getCore t c).run = .idle ∧ (getCore t c).ctx = none) ∧
      (d = .hub → ∀ j, (getJob t j).st ≠ .active ∧ (getJob t j).st ≠ .forming))

/-- Frames whose epoch has drained are FREE again (R154). A plate whose data matches its digest becomes resident in strong frames;
one that does not, or that does not come within 100 ms, is read from the next source, and fails with its record after four attempts
(R296 to R298). The milk run verifies the resident plates and reloads one that does not match; a reload that is done lets launches
go on, one that fails leaves the set BROKEN (R304, R305). -/
def Obligations.PlatesAreLoadedAndChecked : Prop :=
  ∀ (s : State) (p i : Nat) (set : W16) (d : List Byte) (x : PlateSet),
    let y := getPlate s p set i
    let after := fun (t : State) => getPlate t p set i
    let next := (sourceAt y.sources y.attempts).isSome = true
    p < 8 →
    (waitingPlates (reclaim s p) p = [] → s.launches = [] → s.sep.batches = [] → ∃ t, exec (.frameReclaim p) s = .next t ∧
      (getPart t p).retiring = (getPart s p).retiring.filter (fun e => !drained (getPart s p) e.epoch) ∧
      ∀ e ∈ (getPart s p).retiring, drained (getPart s p) e.epoch = true → e.block = none → (getFrame t e.frame).st = 0) ∧
    ((findSet s p set).isSome = true → underWay y = true → s.cmds = [] → attemptErrs s p y = s →
      (attemptData s p y = some d → sha3w d = y.digest → Room (reclaim s p) (9 * ceilDiv (platePages y) 8) →
        ∃ t u fs cs, placePlate s p y d = some (u, fs, cs) ∧ exec (.plateAttemptDone p set i) s = .next t ∧ (after t).resident = true ∧
          (after t).frames = fs ∧ (after t).checks = cs ∧ t.mem.near = u.mem.near) ∧
      (attemptData s p y = some d → sha3w d ≠ y.digest → y.attempts < 4 → next → ∃ t, exec (.plateAttemptDone p set i) s = .next t ∧
        (after t).attempts = y.attempts + 1 ∧ (after t).corrupt = true ∧ (after t).resident = false ∧ (after t).since = s.time.ftime) ∧
      (attemptData s p y = some d → sha3w d ≠ y.digest → 4 ≤ y.attempts → ∃ t, exec (.plateAttemptDone p set i) s = .next t ∧
        (after t).failed = true ∧ Recorded s t 0x0401 0 (some p)) ∧
      (y.got = false → y.since + 105000000 ≤ s.time.ftime → y.attempts < 4 → next → ∃ t, exec (.plateAttemptTimeout p set i) s = .next t ∧
        (after t).attempts = y.attempts + 1 ∧ (after t).corrupt = false ∧ (after t).since = s.time.ftime) ∧
      (y.got = false → y.since + 105000000 ≤ s.time.ftime → 4 ≤ y.attempts → ∃ t, exec (.plateAttemptTimeout p set i) s = .next t ∧
        (after t).failed = true ∧ Recorded s t 0x0402 0 (some p))) ∧
    (milkDue s p = true → s.psets = [x] → x.part = p → x.setId = set → x.plates = [(i, y)] → y.resident = true →
      (∀ f ∈ y.frames, lineErrors s f 0 1023 = ([], none)) →
      (sha3w (plateBytes s y) = y.digest → ∃ t, exec (.milkRunPass p) s = .next t ∧ (after t).lastGood = s.time.ftime ∧
        (getPart t p).milkLast = s.time.ftime ∧ (after t).resident = true) ∧
      (sha3w (plateBytes s y) ≠ y.digest → y.reload = false → s.steps = [] → ∃ t, exec (.milkRunPass p) s = .next t ∧
        (after t).reload = true ∧ (after t).resident = false ∧ (getPart t p).milkLast = s.time.ftime ∧ Recorded s t 0x0401 0 (some p))) ∧
    (y.reload = true → s.cmds = [] →
      (y.resident = true → ∃ t, exec (.plateReloadDone p set i) s = .next t ∧ (after t).reload = false ∧ (after t).resident = true) ∧
      (y.resident = false → y.failed = true → (∃ k z, (k, z) ∈ s.sess ∧ z.st = .open_ ∧ z.part.toNat = p ∧ z.plateset = set) →
        ∃ t, exec (.plateReloadDone p set i) s = .next t ∧ (findSet t p set).map (·.st) = some .broken))

/-- Proof (R348 to R352): a rotated run whose shares equal the original's proves the step, which is released with PROOF; one that
differs starts a third run, and of three runs the majority's result is released and the core of the odd share quarantined with
E_PROOF_MISMATCH; no majority ends the step FAULT. Herd (R353, R354): a member's check sends its window digest to every other, and
a check whose digests all agree is over. -/
def Obligations.ChecksOfStepsAndReplicas : Prop :=
  ∀ (s : State) (r q ji p check window rank : Nat) (run a : RunDigest) (st : StepRec) (c : Cmd) (x : PlateSet) (h : Herd) (k : Pkt) (d : W256),
    let o := originalRun s st
    let ok := if st.adopted then stMigrated else stOk
    let proof := fun (t : State) => (journalAt (getRing t r) q).proof
    let ran := fun (k : Nat) => (nth (0, 0) st.shares k).2
    let j := getJob s ji
    let w := j.checkNo % herdWindows x
    (findStep s r q = some st → s.cmds = [c] → findCmd s r q = some c → nextReplay s st.part = some st → st.scratch.length = st.changed.length →
      st.partnerDig = none → partInjection s 6 st.part = none → c.cls ≠ clsFixed → lateCmd s c = false → isLatched s uHub 0 = false →
      s.dev.recovery = [] →
      (st.runs = [] → o.shares = run.shares → ∃ t, exec (.proofReplayDone r q run) s = .next t ∧ Ended t r q ok st.result.toNat ∧ proof t = true) ∧
      (st.runs = [] → o.shares ≠ run.shares → ∃ t, exec (.proofReplayDone r q run) s = .next t ∧ t.cmds = s.cmds ∧
        (findStep t r q).map (·.runs) = some [run]) ∧
      (st.runs = [a] → run.shares = a.shares → ran (firstShare o run) < 128 →
        ∃ t, exec (.proofReplayDone r q run) s = .next t ∧ isFenced t (ran (firstShare o run)) = true ∧
          Recorded s t 0x0601 0 (some st.part) ∧ Ended t r q ok run.result.toNat ∧ proof t = true) ∧
      (st.runs = [a] → run.shares ≠ a.shares → o.shares = run.shares → rotatedCore s st.part 1 (ran (firstShare a o)) < 128 →
        ∃ t, exec (.proofReplayDone r q run) s = .next t ∧ isFenced t (rotatedCore s st.part 1 (ran (firstShare a o))) = true ∧
          Recorded s t 0x0601 0 (some st.part) ∧ Ended t r q ok st.result.toNat ∧ proof t = true) ∧
      (st.runs = [a] → run.shares ≠ a.shares → o.shares ≠ run.shares → o.shares = a.shares → rotatedCore s st.part 2 (ran (firstShare run o)) < 128 →
        ∃ t, exec (.proofReplayDone r q run) s = .next t ∧ isFenced t (rotatedCore s st.part 2 (ran (firstShare run o))) = true ∧
          Recorded s t 0x0601 0 (some st.part) ∧ Ended t r q ok st.result.toNat ∧ proof t = true) ∧
      (st.runs = [a] → run.shares ≠ a.shares → o.shares ≠ run.shares → o.shares ≠ a.shares → s.fab.jobs = [] →
        ∃ t, exec (.proofReplayDone r q run) s = .next t ∧ Faulted t r q ∧
          (stepTiles st ≠ [] → Recorded s t 0x0601 0x0022 (some st.part)))) ∧
    (ji < 64 → j.st = .active → j.check = 2 → (j.checkNo + 1) * herdN s ji ≤ j.steps → herdSet s j.part.toNat = some x →
      (windowPlates x w).any (fun i => (getPlate s x.part x.setId i).reload) = false → MemorySound s →
      herdOf s ji j.checkNo = none → 1 < j.members.length → ∃ t y, exec (.herdCheck ji) s = .next t ∧
        (getJob t ji).checkNo = j.checkNo + 1 ∧ herdOf t ji j.checkNo = some y ∧ y.digests = [(j.rank.toNat, windowDigest s x w)] ∧
        ∀ e ∈ others j, Queued t j.part.toNat e chJob (.herd j.checkNo w (windowDigest s x w))) ∧
    (p < 8 → Delivered s p k → jobById s p k.job = some ji → j.members.zipIdx.find? (fun e => e.1 == k.src) = some (k.src, rank) →
      (herdOf s ji check = none → 1 < j.members.length → ∃ t y, exec (.herdDigest k check window d) s = .next t ∧
        herdOf t ji check = some y ∧ y.digests = [(rank, d)] ∧ AcceptedPkt t p k) ∧
      (herdOf s ji check = some h → (tset h.digests rank d).length = j.members.length → (∀ e ∈ tset h.digests rank d, e.2 = d) →
        (tfind (tset h.digests rank d) j.rank.toNat).isSome = true → ∃ t, exec (.herdDigest k check window d) s = .next t ∧
          herdOf t ji check = none ∧ t.err = s.err ∧ AcceptedPkt t p k))

/-- The partner protocol (R383 to R386). A partner that can take a session opens a shadow and says so; otherwise it refuses, and the
opening command ends REJECTED; a shared feed that is not allowed raises E_SHARED_FEED. The shadow keeps step notices and input logs, asks again for
a page whose digest fails, and with every page in place takes the step's position and token and acknowledges. An acknowledgement
grants a lease; a page that fails a third time loses the partner. -/
def Obligations.PartnersPairAndExpose : Prop :=
  ∀ (s u : State) (p i f sm : Nat) (k : Pkt) (pr : PairReq) (h shadow : W32) (feed : BitVec 4) (c : Cmd) (r : PageRec) (g : Geo)
    (desc : W512) (ring : BitVec 15) (seq ft id : W64) (tokens : List W32) (mask : List Byte) (res : W128) (n : Nat) (st : StepRec) (d : W256)
    (fs : List Nat) (log : List StepInput),
    let x := getSess s i
    let named := msgSess s p k.src h = some i
    p < 8 → Delivered s p k →
    (canPair (reclaim s p) p pr = false → ∃ t, exec (.pairingRequest k pr) s = .next t ∧ t.sess = s.sess ∧ AcceptedPkt t p k ∧
      Queued t p k.src chExp (.pairRsp pr.handle false 0 s.pwr.feedId)) ∧
    (canPair (reclaim s p) p pr = true → nextIndex (reclaim s p) p = some i → ∃ t, exec (.pairingRequest k pr) s = .next t ∧
      OnlySession s t i ∧ (getSess t i).st = .open_ ∧ (getSess t i).shadow = true ∧ (getSess t i).pstate = 1 ∧
      (getSess t i).partner = k.src ∧ (getSess t i).partnerHandle = pr.handle ∧ (getSess t i).plateset = pr.pin ∧
      (getSess t i).position = pr.position.toNat ∧ (getSess t i).seed = pr.seed ∧ AcceptedPkt t p k ∧
      Queued t p k.src chExp (.pairRsp pr.handle true (handleOf i (getSess t i)) s.pwr.feedId)) ∧
    (named → pairingCmd s h = some c → findCmd s c.ring c.seq = some c → x.pstate = 0 →
      (s.exps = [] → x.gen.toNat < 16383 → ∃ t, exec (.pairingResponse k h false shadow feed) s = .next t ∧
        Ended t c.ring c.seq stRejected 0 ∧ (getSess t i).st = .free) ∧
      (sameFeed s.pwr.feedId feed = true → allowsFeed c = false → s.exps = [] → x.gen.toNat < 16383 →
        ∃ t, exec (.pairingResponse k h true shadow feed) s = .next t ∧ Ended t c.ring c.seq stRejected 0 ∧
          (getSess t i).st = .free ∧ Recorded s t 0x0801 0 (some c.part)) ∧
      (sameFeed s.pwr.feedId feed = false ∨ allowsFeed c = true → opcodeOf c = 0x01 →
        ∃ t, exec (.pairingResponse k h true shadow feed) s = .next t ∧ Ended t c.ring c.seq stOk c.res ∧
          (getSess t i).pstate = 1 ∧ (getSess t i).partnerHandle = shadow) ∧
      (sameFeed s.pwr.feedId feed = false ∨ allowsFeed c = true → opcodeOf c ≠ 0x01 →
        ∃ t, exec (.pairingResponse k h true shadow feed) s = .next t ∧ (getSess t i).pstate = 1 ∧
          ∃ e ∈ t.exps, e.pairing = true ∧ e.sess = some i ∧ e.taken = false ∧ e.target = .peer x.partner)) ∧
    (named → x.shadow = true → ∃ t, exec (.stepNotice k h desc ring seq tokens mask) s = .next t ∧ OnlySession s t i ∧
      (getSess t i).notices = x.notices.filter (fun m => decide (x.fixedSeq < m.seq)) ++ [⟨desc, ring.toNat, seq.toNat, tokens, mask⟩]) ∧
    (named → x.shadow = true → s.exps = [] → x.gen.toNat < 16383 → ∃ t, exec (.exposurePage k h .close) s = .next t ∧
      (getSess t i).st = .free ∧ OnlySession s t i) ∧
    (named → x.shadow = true → x.badPages = [] → seq.toNat ≠ fullSeq → ∃ t, exec (.exposurePage k h (.stepEnd seq res n)) s = .next t ∧
      (getSess t i).position = bits res 95 64 ∧ (getSess t i).fixedPos = bits res 95 64 ∧ (getSess t i).fixedSeq = seq.toNat ∧
      (getSess t i).lastToken = BitVec.ofNat 32 (bits res 127 96) ∧ (getSess t i).ltv = true ∧ (getSess t i).pendStep = none ∧
      Queued t p k.src chExp (.expAck x.partnerHandle seq.toNat s.time.ftime)) ∧
    (named → x.shadow = true → ∃ t, exec (.exposurePage k h (.inputs seq log)) s = .next t ∧ OnlySession s t i ∧
      getSess t i = { x with inputs := x.inputs.filter (fun e => decide (x.fixedSeq < e.1)) ++ [(seq.toNat, log)] }) ∧
    (named → x.shadow = true → ∃ t, exec (.exposurePage k h (.odd seq)) s = .next t ∧ OnlySession s t i ∧
      getSess t i = { x with oddSeq := some seq.toNat }) ∧
    (named → x.shadow = true → recOk r r.payload = false → ∃ t, exec (.exposurePage k h (.shadow r)) s = .next t ∧
      tget 0 (getSess t i).badPages r.id.toNat = tget 0 x.badPages r.id.toNat + 1 ∧ t.mem = s.mem ∧
      Queued t p k.src chExp (.again x.partnerHandle r.id)) ∧
    (named → x.shadow = true → recOk r r.payload = true → sessGeo s i = some g → placeShadow (reclaim s p) i g r = some u →
      (getSess u i).pendStep = none → ∃ t, exec (.exposurePage k h (.shadow r)) s = .next t ∧ t.mem = u.mem ∧ AcceptedPkt t p k) ∧
    (imageFrom s p k.src = true → (getPart s p).images = [] → growImage (reclaim s p) p [] (imageFrames 1) = some (u, fs) →
      ∃ t m, exec (.exposurePage k h (.image r)) s = .next t ∧ (getPart t p).images = [m] ∧ m.src = k.src ∧ m.recs = [r] ∧
        m.frames = fs ∧ m.final = false ∧ AcceptedPkt t p k) ∧
    (named → x.shadow = false → seq.toNat ≠ fullSeq → sendingStep s i seq.toNat = some st →
      ∃ t, exec (.exposureAck k h seq ft) s = .next t ∧ (findStep t st.ring st.seq).map (·.acked) = some true ∧
        (getSess t i).lease = ft.toNat + fabricTicks s x ∧ (getSess t i).heard = s.time.ftime) ∧
    (named → x.shadow = false → seq.toNat = fullSeq → s.exps = [] → pairingCmd s (handleOf i x) = some c →
      findCmd s c.ring c.seq = some c → opcodeOf c ≠ 0x33 → ∃ t, exec (.exposureAck k h seq ft) s = .next t ∧
        Ended t c.ring c.seq stOk c.res ∧ (getSess t i).lease = ft.toNat + fabricTicks s x) ∧
    (named → s.steps.find? (fun y => y.sess == some i && y.seq == seq.toNat && (y.phase == .exposing || y.phase == .proving)) = some st →
      st.suspect = true → st.proven = false →
      (d = stepDigest s st → ∃ t, exec (.partnerStepDigest k h seq d) s = .next t ∧
        (findStep t st.ring st.seq).map (fun y => (y.proven, y.phase)) = some (true, .exposing)) ∧
      (d ≠ stepDigest s st → ∃ t, exec (.partnerStepDigest k h seq d) s = .next t ∧
        (findStep t st.ring st.seq).map (·.partnerDig) = some (some d))) ∧
    (named → tget 0 x.badPages id.toNat < 2 → askedPage s i id.toNat = some (f, sm) → ∃ t, exec (.pageAskedAgain k h id) s = .next t ∧
      tget 0 (getSess t i).badPages id.toNat = tget 0 x.badPages id.toNat + 1 ∧
      Queued t p k.src chExp (.exp x.partnerHandle (.shadow (makeRec s 1 id f sm)))) ∧
    (named → 2 ≤ tget 0 x.badPages id.toNat → isLatched s uHub 0 = false → underReset s .hub = false → s.steps = [] → s.exps = [] → s.cmds = [] → ∃ t, exec (.pageAskedAgain k h id) s = .next t ∧
      (getSess t i).pstate = 2 ∧ (getSess t i).degraded = true ∧ Recorded s t 0x0301 0x0011 (some p))

/-- Keepalives, the loss of a partner and takeovers (R387 to R389). Each paired session sends a keepalive every millisecond, and its
partner answers. Silence of the partner beyond FABRIC_WIN leaves the session degraded, its opening command ending OK. Silence of the
primary for twice that, or for 1 ms after it has reopened its channels, makes the shadow the session: its commands are adopted in
PARTNER_RING, MIGRATED first, and the old member is replaced. The primary told of it ends its commands MIGRATED and its record is
MOVED. -/
def Obligations.KeepalivesAndTakeover : Prop :=
  ∀ (s : State) (p i u ji m : Nat) (k : Pkt) (h : W32) (c : Cmd),
    let x := getSess s i
    let named := msgSess s p k.src h = some i
    let part := x.part.toNat
    let ring := x.partnerRing.toNat
    let y := getRing s ring
    let q := nextSeq y
    let w := fabricTicks s x * (if x.yield_ then 3 else 1)
    let taken := fun (t : State) =>
      (getSess t i).shadow = false ∧ (getSess t i).pstate = 2 ∧ (getSess t i).degraded = true ∧
      (slotFree y = false → (getRing t ring).adoptQ = y.adoptQ ++ adoptions x i) ∧
      (slotFree y = true → y.adoptQ = [] → x.notices = [] → findCmd s ring q = none →
        (getRing t ring).adoptQ = [] ∧ (journalAt (getRing t ring) q).status = stMigrated ∧ (journalAt (getRing t ring) q).opcode = 0x33 ∧
        (journalAt (getRing t ring) q).result = BitVec.ofNat 128 (((handleOf i x).toNat <<< 96) + (x.partnerHandle.toNat <<< 64))) ∧
      (ji < 64 → (getJob s ji).st ≠ .idle → (getJob s ji).part.toNat = part → (getJob s ji).members.findIdx? (· == x.partner) = some m →
        (getJob t ji).members = (getJob s ji).members.set m (epOf s part))
    (paired x = true → x.st = .open_ ∨ x.st = .fenced → x.yield_ = false → setBroken s x = false → x.sentAt + 1050000 ≤ s.time.ftime →
      ∃ t, exec (.keepaliveSend i) s = .next t ∧ Queued t part x.partner chExp (.keep x.partnerHandle) ∧
        (getSess t i).sentAt = s.time.ftime ∧ OnlySession s t i) ∧
    (p < 8 → Delivered s p k → named → x.shadow = true → ∃ t, exec (.keepalive k h) s = .next t ∧ (getSess t i).heard = s.time.ftime ∧
      (getSess t i).reopenAt = none ∧ Queued t p k.src chExp (.keepRsp x.partnerHandle) ∧ OnlySession s t i) ∧
    (p < 8 → Delivered s p k → named → ∃ t, exec (.keepaliveReply k h) s = .next t ∧ getSess t i = { x with heard := s.time.ftime } ∧
      OnlySession s t i) ∧
    (paired x = true → x.st = .open_ → x.heard + w < s.time.ftime → isLatched s uHub 0 = false → underReset s .hub = false → s.steps = [] → s.exps = [] →
      (s.cmds = [] → ∃ t, exec (.partnerLost i) s = .next t ∧ (getSess t i).pstate = 2 ∧ (getSess t i).degraded = true ∧
        Recorded s t 0x0301 0x0011 (some part)) ∧
      (s.cmds = [c] → c.wait = .pairing → c.handle = handleOf i x → opcodeOf c ≠ 0x33 → ∃ t, exec (.partnerLost i) s = .next t ∧
        (getSess t i).pstate = 2 ∧ Ended t c.ring c.seq stOk c.res)) ∧
    (x.shadow = true → x.st = .open_ → x.heard + 2 * fabricTicks s x ≤ s.time.ftime → ∃ t, exec (.takeoverSilence i) s = .next t ∧
      taken t ∧ Queued t part x.partner chExp (.takeover x.partnerHandle)) ∧
    (x.shadow = true → x.st = .open_ → x.reopenAt = some u → u + 1050000 ≤ s.time.ftime →
      ∃ t, exec (.takeoverAfterReopen i) s = .next t ∧ taken t) ∧
    (p < 8 → Delivered s p k → named → x.shadow = false → s.exps = [] → s.launches = [] → x.gen.toNat < 16383 →
      (s.cmds = [] → ∃ t, exec (.takeover k h) s = .next t ∧ (getSess t i).st = .moved ∧ (getSess t i).gen = x.gen + 1) ∧
      (s.cmds = [c] → handleIn c = some h → s.steps = [] → ∃ t, exec (.takeover k h) s = .next t ∧ (getSess t i).st = .moved ∧
        Ended t c.ring c.seq stMigrated 0)) ∧
    (p < 8 → Delivered s p k → msgSess s p k.src h = none →
      ∀ z ∈ ([.keepalive k h, .keepaliveReply k h, .takeover k h] : List Instr), ∃ t, exec z s = .next t ∧ t.sess = s.sess ∧
        t.fab.stale = (s.fab.stale + 1) % 2 ^ 64)

/-! ## The whole machine -/

/-- A step takes the command at the front of the queue and is its effect on the state with the rest of the queue; with no command
the block ticks, and without power or clock it stays as it is (logs 2 and 3). -/
def Obligations.StepTakesTheFrontCommand : Prop :=
  ∀ (s : State) (i : Instr) (rest : List Instr),
    step { s with pending := i :: rest } = exec i { s with pending := rest } ∧
    step { s with pending := [] } = .next (tickWith exec { s with pending := [] }) ∧
    (s.pins.pwrGood = false ∨ s.pins.pllLock = false → step { s with pending := [] } = .next { s with pending := [] })

/-- After reset every slot is EMPTY with no owner and every bank map zero, every ring and partition is OFF, the registers of a
partition hold their stated reset values, every frame is FREE, no job is held, the device has not started, the power cap is
700 W, and memory lists nothing (R71, R91, R149, R224, R245, R292, R326, R346, R359, R427, R438). -/
def Obligations.ResetHoldsTheStatedValues : Prop :=
  let s := State.reset
  (∀ c pad slot, (slotOf (getCore s c) pad slot).st = .empty ∧ (slotOf (getCore s c) pad slot).owner = 7 ∧
    (slotOf (getCore s c) pad slot).rowCount = 0 ∧ (slotOf (getCore s c) pad slot).retain = false) ∧
  (∀ c port, mapOf (getCore s c) port = 0) ∧
  (∀ r, (getRing s r).st = .off ∧ (getRing s r).enable = false ∧ (getRing s r).cls = 0 ∧ (getRing s r).sqTail = 0 ∧ (getRing s r).fetched = 0 ∧
    (getRing s r).written = 0) ∧
  (∀ p, (getPart s p).st = .off ∧ (getPart s p).enable = false ∧ (getPart s p).gatherUs = 20 ∧ (getPart s p).timedPct = 0 ∧
    (getPart s p).milkMin = 10 ∧ (getPart s p).proofN = 0 ∧ (getPart s p).herdN = 1000 ∧ (getPart s p).seqWin = 10000) ∧
  (∀ f, (getFrame s f).st = 0 ∧ (getFrame s f).refcnt = 0) ∧
  (∀ j, (getJob s j).valid = false ∧ (getJob s j).st = .idle) ∧
  (∀ i, (getSess s i).st = .free) ∧
  s.dev.stage = 0 ∧ s.dev.slCause = 0 ∧ s.pwr.cap = 700 ∧ s.pwr.throttle = 0 ∧ s.time.ftime = 0 ∧ s.mem = {} ∧ s.pending = [] ∧
  MemoriesCanonical s

/-- Every step keeps near, far and host memory in their canonical form: addresses strictly rising and no zero byte listed, so that
equal memories are equal data. This is the model's own invariant, not a rule of the manual. -/
def Obligations.EveryStepKeepsMemoriesCanonical : Prop :=
  ∀ (s t : State), MemoriesCanonical s → step s = .next t → MemoriesCanonical t

/-- An instruction that the manual calls illegal by itself does not run: its core stops and is reset, and the record
"illegal instruction" is raised about it (R87, R96, R97). -/
def Obligations.IllegalInstructionsStopTheCore : Prop :=
  ∀ (s : State) (i : Instr) (c b : Nat),
    coreOfInstr i = some c → illegalField i = some b → Calm s c → s.fab.jobs = [] → isLatched s uCore c = false →
    underReset s (.core c) = false →
    ∃ t, exec i s = .next t ∧ (getCore t c).run = .stopped ∧ (getCore t c).flights = [] ∧ (getCore t c).gpr = (getCore s c).gpr ∧
      (getCore t c).padW = (getCore s c).padW ∧ underReset t (.core c) = true ∧
      Recorded s t 0 0x0001 ((getCore s c).ctx.map (·.part))

/-- The rows of a link, of fabric time, of acknowledgements, of the SPDM responder's exchanges and of the test access port, and the
register, mailbox and power rows listed, leave memory, sessions, rings, accepted commands, cores, key slots, plate sets, exposures and
the queue as they were. -/
def Obligations.ControlRowsLeaveWorkAndMemory : Prop :=
  ∀ (s t : State) (p n m : Nat) (b1 b2 : Byte) (pl : BitVec 2) (ep ch : W16) (f : Flit) (q : BitVec 12) (l : List Nat) (x y : W64) (k : Pkt)
    (pt : SpdmPort) (nonce : W256) (w : Writer) (v : W32) (cert : Option (List Byte)) (hot : Bool),
    ∀ i ∈ ([.portSignalDetect p b1, .equalizeConverged p, .alignDone p b1, .negotiateDone p b1 pl n ⟨ep, l⟩, .linkStateTimeout p,
        .portDownTimer p, .laneFailing p ⟨n, m⟩, .uncorrectableCodeword p, .dataFlit p f, .nak p q, .retrainReq p, .creditInit p l, .timeReq p,
        .timeRsp p x y pl ep, .timeExchange, .timeRspTimeout, .timeHoldover, .ack k, .ackSend p ep ch, .channelResend p ep ch,
        .getVersion pt, .getCapabilities pt, .negotiateAlgorithms pt, .getDigests pt, .getCertificate pt n, .challenge pt nonce,
        .getMeasurements pt p n, .keyExchange pt, .finish pt n, .endSession pt n, .heartbeat pt n,
        .idcode, .bypass b2, .samplePreload, .extest, .clamp, .highz, .extestPulse, .extestTrain,
        .partModeWrite w v, .pwrCapWrite w v, .pwrTolWrite w p x, .errQConsWrite w v, .fabPortWrite w p x, .injectPadSymbols w x,
        .injectResidue w x, .injectMemorySymbols w x, .injectFlitCrc w x, .injectForceProof w x, .injectShareDigest w x, .msixUnmask p n,
        .stageWrite w, .commitSvn w, .readCper w, .setPreferred w, .enrolAnchor cert, .thermalThrottle p hot, .p2Entry p] : List Instr),
      exec i s = .next t →
      t.mem = s.mem ∧ t.sess = s.sess ∧ t.rings = s.rings ∧ t.cmds = s.cmds ∧ t.cores = s.cores ∧ t.keys = s.keys ∧ t.psets = s.psets ∧
      t.exps = s.exps ∧ t.pending = s.pending ∧ t.hif.host = s.hif.host

/-- A core instruction acts on its own core: memory, sessions, rings, steps, plate sets, keys, partitions, exposures, the fabric, fabric
time, host memory, the queue and every other core stay as they were, and of an accepted command at most its ERR_REF changes. (Memory is
reached at the last access of an instruction, a row of its own. A core whose step belongs to a job is not meant: its stop stops the
job, R370.) -/
def Obligations.CoreInstructionsActOnTheirCore : Prop :=
  ∀ (s t : State) (i : Instr) (c : Nat) (w : W128), encodeWord i = some w → coreOfInstr i = some c →
    (∀ x, (getCore s c).ctx = some x → stepJob s x.ring x.seq = none) → exec i s = .next t →
    t.mem = s.mem ∧ t.sess = s.sess ∧ t.rings = s.rings ∧ t.steps = s.steps ∧ t.psets = s.psets ∧ t.keys = s.keys ∧ t.parts = s.parts ∧
    t.exps = s.exps ∧ t.fab = s.fab ∧ t.time = s.time ∧ t.pins = s.pins ∧ t.hif.host = s.hif.host ∧ t.pending = s.pending ∧
    (∀ j, j ≠ c → getCore t j = getCore s j) ∧
    t.cmds.map (fun x => { x with errRef := 0 }) = s.cmds.map (fun x => { x with errRef := 0 })

/-- The word of every core instruction, whatever its fields, decodes to that instruction, and holds no reserved bit (R94, R95, R104,
R107, R113, R122, R131 to R135). -/
def Obligations.KernelWordsDecodeToTheirInstruction : Prop :=
  ∀ (i : Instr) (c : Nat) (w : W128), encodeWord i = some w → coreOfInstr i = some c →
    decodeWord c w = some i ∧ ∀ e ∈ reservedBad w, e.1 = false

end Statements
end

