-- ==== Sys2Proof/Laws/State.lean ====
section
/-! SUPPORT. What each update of one unit leaves as it was: one lemma for each update and field of State, and the units
that an update reads back. -/

namespace Sys2Proof.Machine

open Sys2Proof

/-! ## Tables -/

/-- A table reads back what was put at an index. -/
@[simp] theorem tget_tset_same {α : Type} (d : α) (t : Tbl α) (k : Nat) (v : α) : tget d (tset t k v) k = v := by
  induction t with
  | nil => simp [tset, tget]
  | cons e t ih =>
    obtain ⟨a, x⟩ := e
    unfold tset
    split
    · simp [tget]
    · split
      · simp [tget]
      · rename_i h _
        simp [tget, h, ih]

/-- Putting a value at an index leaves every other index as it was. -/
theorem tget_tset_other {α : Type} (d : α) (t : Tbl α) (k j : Nat) (v : α) (h : j ≠ k) :
    tget d (tset t k v) j = tget d t j := by
  induction t with
  | nil => simp [tset, tget, Ne.symm h]
  | cons e t ih =>
    obtain ⟨a, x⟩ := e
    unfold tset
    split
    · rename_i hak
      subst hak
      simp [tget, Ne.symm h]
    · split
      · simp [tget, Ne.symm h]
      · by_cases hj : a = j
        · simp [tget, hj]
        · simp [tget, hj, ih]

/-! ## Fields -/

@[simp] theorem setCore_pending (s : State) (c : Nat) (k : Core) : (setCore s c k).pending = s.pending := rfl
@[simp] theorem setCore_fresh (s : State) (c : Nat) (k : Core) : (setCore s c k).fresh = s.fresh := rfl
@[simp] theorem setCore_dev (s : State) (c : Nat) (k : Core) : (setCore s c k).dev = s.dev := rfl
@[simp] theorem setCore_time (s : State) (c : Nat) (k : Core) : (setCore s c k).time = s.time := rfl
@[simp] theorem setCore_hif (s : State) (c : Nat) (k : Core) : (setCore s c k).hif = s.hif := rfl
@[simp] theorem setCore_rings (s : State) (c : Nat) (k : Core) : (setCore s c k).rings = s.rings := rfl
@[simp] theorem setCore_cmds (s : State) (c : Nat) (k : Core) : (setCore s c k).cmds = s.cmds := rfl
@[simp] theorem setCore_parts (s : State) (c : Nat) (k : Core) : (setCore s c k).parts = s.parts := rfl
@[simp] theorem setCore_mem (s : State) (c : Nat) (k : Core) : (setCore s c k).mem = s.mem := rfl
@[simp] theorem setCore_sess (s : State) (c : Nat) (k : Core) : (setCore s c k).sess = s.sess := rfl
@[simp] theorem setCore_freeIdx (s : State) (c : Nat) (k : Core) : (setCore s c k).freeIdx = s.freeIdx := rfl
@[simp] theorem setCore_keys (s : State) (c : Nat) (k : Core) : (setCore s c k).keys = s.keys := rfl
@[simp] theorem setCore_psets (s : State) (c : Nat) (k : Core) : (setCore s c k).psets = s.psets := rfl
@[simp] theorem setCore_launches (s : State) (c : Nat) (k : Core) : (setCore s c k).launches = s.launches := rfl
@[simp] theorem setCore_steps (s : State) (c : Nat) (k : Core) : (setCore s c k).steps = s.steps := rfl
@[simp] theorem setCore_sep (s : State) (c : Nat) (k : Core) : (setCore s c k).sep = s.sep := rfl
@[simp] theorem setCore_exps (s : State) (c : Nat) (k : Core) : (setCore s c k).exps = s.exps := rfl
@[simp] theorem setCore_herds (s : State) (c : Nat) (k : Core) : (setCore s c k).herds = s.herds := rfl
@[simp] theorem setCore_err (s : State) (c : Nat) (k : Core) : (setCore s c k).err = s.err := rfl
@[simp] theorem setCore_fab (s : State) (c : Nat) (k : Core) : (setCore s c k).fab = s.fab := rfl
@[simp] theorem setCore_sec (s : State) (c : Nat) (k : Core) : (setCore s c k).sec = s.sec := rfl
@[simp] theorem setCore_mgc (s : State) (c : Nat) (k : Core) : (setCore s c k).mgc = s.mgc := rfl
@[simp] theorem setCore_pwr (s : State) (c : Nat) (k : Core) : (setCore s c k).pwr = s.pwr := rfl
@[simp] theorem setCore_pins (s : State) (c : Nat) (k : Core) : (setCore s c k).pins = s.pins := rfl
@[simp] theorem setCore_tap (s : State) (c : Nat) (k : Core) : (setCore s c k).tap = s.tap := rfl
@[simp] theorem setCore_jnlSel (s : State) (c : Nat) (k : Core) : (setCore s c k).jnlSel = s.jnlSel := rfl
@[simp] theorem setCore_jnlFirst (s : State) (c : Nat) (k : Core) : (setCore s c k).jnlFirst = s.jnlFirst := rfl
@[simp] theorem setCore_stagePf0 (s : State) (c : Nat) (k : Core) : (setCore s c k).stagePf0 = s.stagePf0 := rfl
@[simp] theorem setCore_stageMgc (s : State) (c : Nat) (k : Core) : (setCore s c k).stageMgc = s.stageMgc := rfl

@[simp] theorem setRing_pending (s : State) (r : Nat) (x : Ring) : (setRing s r x).pending = s.pending := rfl
@[simp] theorem setRing_fresh (s : State) (r : Nat) (x : Ring) : (setRing s r x).fresh = s.fresh := rfl
@[simp] theorem setRing_cores (s : State) (r : Nat) (x : Ring) : (setRing s r x).cores = s.cores := rfl
@[simp] theorem setRing_dev (s : State) (r : Nat) (x : Ring) : (setRing s r x).dev = s.dev := rfl
@[simp] theorem setRing_time (s : State) (r : Nat) (x : Ring) : (setRing s r x).time = s.time := rfl
@[simp] theorem setRing_hif (s : State) (r : Nat) (x : Ring) : (setRing s r x).hif = s.hif := rfl
@[simp] theorem setRing_cmds (s : State) (r : Nat) (x : Ring) : (setRing s r x).cmds = s.cmds := rfl
@[simp] theorem setRing_parts (s : State) (r : Nat) (x : Ring) : (setRing s r x).parts = s.parts := rfl
@[simp] theorem setRing_mem (s : State) (r : Nat) (x : Ring) : (setRing s r x).mem = s.mem := rfl
@[simp] theorem setRing_sess (s : State) (r : Nat) (x : Ring) : (setRing s r x).sess = s.sess := rfl
@[simp] theorem setRing_freeIdx (s : State) (r : Nat) (x : Ring) : (setRing s r x).freeIdx = s.freeIdx := rfl
@[simp] theorem setRing_keys (s : State) (r : Nat) (x : Ring) : (setRing s r x).keys = s.keys := rfl
@[simp] theorem setRing_psets (s : State) (r : Nat) (x : Ring) : (setRing s r x).psets = s.psets := rfl
@[simp] theorem setRing_launches (s : State) (r : Nat) (x : Ring) : (setRing s r x).launches = s.launches := rfl
@[simp] theorem setRing_steps (s : State) (r : Nat) (x : Ring) : (setRing s r x).steps = s.steps := rfl
@[simp] theorem setRing_sep (s : State) (r : Nat) (x : Ring) : (setRing s r x).sep = s.sep := rfl
@[simp] theorem setRing_exps (s : State) (r : Nat) (x : Ring) : (setRing s r x).exps = s.exps := rfl
@[simp] theorem setRing_herds (s : State) (r : Nat) (x : Ring) : (setRing s r x).herds = s.herds := rfl
@[simp] theorem setRing_err (s : State) (r : Nat) (x : Ring) : (setRing s r x).err = s.err := rfl
@[simp] theorem setRing_fab (s : State) (r : Nat) (x : Ring) : (setRing s r x).fab = s.fab := rfl
@[simp] theorem setRing_sec (s : State) (r : Nat) (x : Ring) : (setRing s r x).sec = s.sec := rfl
@[simp] theorem setRing_mgc (s : State) (r : Nat) (x : Ring) : (setRing s r x).mgc = s.mgc := rfl
@[simp] theorem setRing_pwr (s : State) (r : Nat) (x : Ring) : (setRing s r x).pwr = s.pwr := rfl
@[simp] theorem setRing_pins (s : State) (r : Nat) (x : Ring) : (setRing s r x).pins = s.pins := rfl
@[simp] theorem setRing_tap (s : State) (r : Nat) (x : Ring) : (setRing s r x).tap = s.tap := rfl
@[simp] theorem setRing_jnlSel (s : State) (r : Nat) (x : Ring) : (setRing s r x).jnlSel = s.jnlSel := rfl
@[simp] theorem setRing_jnlFirst (s : State) (r : Nat) (x : Ring) : (setRing s r x).jnlFirst = s.jnlFirst := rfl
@[simp] theorem setRing_stagePf0 (s : State) (r : Nat) (x : Ring) : (setRing s r x).stagePf0 = s.stagePf0 := rfl
@[simp] theorem setRing_stageMgc (s : State) (r : Nat) (x : Ring) : (setRing s r x).stageMgc = s.stageMgc := rfl

@[simp] theorem setPart_pending (s : State) (p : Nat) (x : Part) : (setPart s p x).pending = s.pending := rfl
@[simp] theorem setPart_fresh (s : State) (p : Nat) (x : Part) : (setPart s p x).fresh = s.fresh := rfl
@[simp] theorem setPart_cores (s : State) (p : Nat) (x : Part) : (setPart s p x).cores = s.cores := rfl
@[simp] theorem setPart_dev (s : State) (p : Nat) (x : Part) : (setPart s p x).dev = s.dev := rfl
@[simp] theorem setPart_time (s : State) (p : Nat) (x : Part) : (setPart s p x).time = s.time := rfl
@[simp] theorem setPart_hif (s : State) (p : Nat) (x : Part) : (setPart s p x).hif = s.hif := rfl
@[simp] theorem setPart_rings (s : State) (p : Nat) (x : Part) : (setPart s p x).rings = s.rings := rfl
@[simp] theorem setPart_cmds (s : State) (p : Nat) (x : Part) : (setPart s p x).cmds = s.cmds := rfl
@[simp] theorem setPart_mem (s : State) (p : Nat) (x : Part) : (setPart s p x).mem = s.mem := rfl
@[simp] theorem setPart_sess (s : State) (p : Nat) (x : Part) : (setPart s p x).sess = s.sess := rfl
@[simp] theorem setPart_freeIdx (s : State) (p : Nat) (x : Part) : (setPart s p x).freeIdx = s.freeIdx := rfl
@[simp] theorem setPart_keys (s : State) (p : Nat) (x : Part) : (setPart s p x).keys = s.keys := rfl
@[simp] theorem setPart_psets (s : State) (p : Nat) (x : Part) : (setPart s p x).psets = s.psets := rfl
@[simp] theorem setPart_launches (s : State) (p : Nat) (x : Part) : (setPart s p x).launches = s.launches := rfl
@[simp] theorem setPart_steps (s : State) (p : Nat) (x : Part) : (setPart s p x).steps = s.steps := rfl
@[simp] theorem setPart_sep (s : State) (p : Nat) (x : Part) : (setPart s p x).sep = s.sep := rfl
@[simp] theorem setPart_exps (s : State) (p : Nat) (x : Part) : (setPart s p x).exps = s.exps := rfl
@[simp] theorem setPart_herds (s : State) (p : Nat) (x : Part) : (setPart s p x).herds = s.herds := rfl
@[simp] theorem setPart_err (s : State) (p : Nat) (x : Part) : (setPart s p x).err = s.err := rfl
@[simp] theorem setPart_fab (s : State) (p : Nat) (x : Part) : (setPart s p x).fab = s.fab := rfl
@[simp] theorem setPart_sec (s : State) (p : Nat) (x : Part) : (setPart s p x).sec = s.sec := rfl
@[simp] theorem setPart_mgc (s : State) (p : Nat) (x : Part) : (setPart s p x).mgc = s.mgc := rfl
@[simp] theorem setPart_pwr (s : State) (p : Nat) (x : Part) : (setPart s p x).pwr = s.pwr := rfl
@[simp] theorem setPart_pins (s : State) (p : Nat) (x : Part) : (setPart s p x).pins = s.pins := rfl
@[simp] theorem setPart_tap (s : State) (p : Nat) (x : Part) : (setPart s p x).tap = s.tap := rfl
@[simp] theorem setPart_jnlSel (s : State) (p : Nat) (x : Part) : (setPart s p x).jnlSel = s.jnlSel := rfl
@[simp] theorem setPart_jnlFirst (s : State) (p : Nat) (x : Part) : (setPart s p x).jnlFirst = s.jnlFirst := rfl
@[simp] theorem setPart_stagePf0 (s : State) (p : Nat) (x : Part) : (setPart s p x).stagePf0 = s.stagePf0 := rfl
@[simp] theorem setPart_stageMgc (s : State) (p : Nat) (x : Part) : (setPart s p x).stageMgc = s.stageMgc := rfl

@[simp] theorem setSess_pending (s : State) (i : Nat) (x : Sess) : (setSess s i x).pending = s.pending := rfl
@[simp] theorem setSess_fresh (s : State) (i : Nat) (x : Sess) : (setSess s i x).fresh = s.fresh := rfl
@[simp] theorem setSess_cores (s : State) (i : Nat) (x : Sess) : (setSess s i x).cores = s.cores := rfl
@[simp] theorem setSess_dev (s : State) (i : Nat) (x : Sess) : (setSess s i x).dev = s.dev := rfl
@[simp] theorem setSess_time (s : State) (i : Nat) (x : Sess) : (setSess s i x).time = s.time := rfl
@[simp] theorem setSess_hif (s : State) (i : Nat) (x : Sess) : (setSess s i x).hif = s.hif := rfl
@[simp] theorem setSess_rings (s : State) (i : Nat) (x : Sess) : (setSess s i x).rings = s.rings := rfl
@[simp] theorem setSess_cmds (s : State) (i : Nat) (x : Sess) : (setSess s i x).cmds = s.cmds := rfl
@[simp] theorem setSess_parts (s : State) (i : Nat) (x : Sess) : (setSess s i x).parts = s.parts := rfl
@[simp] theorem setSess_mem (s : State) (i : Nat) (x : Sess) : (setSess s i x).mem = s.mem := rfl
@[simp] theorem setSess_freeIdx (s : State) (i : Nat) (x : Sess) : (setSess s i x).freeIdx = s.freeIdx := rfl
@[simp] theorem setSess_keys (s : State) (i : Nat) (x : Sess) : (setSess s i x).keys = s.keys := rfl
@[simp] theorem setSess_psets (s : State) (i : Nat) (x : Sess) : (setSess s i x).psets = s.psets := rfl
@[simp] theorem setSess_launches (s : State) (i : Nat) (x : Sess) : (setSess s i x).launches = s.launches := rfl
@[simp] theorem setSess_steps (s : State) (i : Nat) (x : Sess) : (setSess s i x).steps = s.steps := rfl
@[simp] theorem setSess_sep (s : State) (i : Nat) (x : Sess) : (setSess s i x).sep = s.sep := rfl
@[simp] theorem setSess_exps (s : State) (i : Nat) (x : Sess) : (setSess s i x).exps = s.exps := rfl
@[simp] theorem setSess_herds (s : State) (i : Nat) (x : Sess) : (setSess s i x).herds = s.herds := rfl
@[simp] theorem setSess_err (s : State) (i : Nat) (x : Sess) : (setSess s i x).err = s.err := rfl
@[simp] theorem setSess_fab (s : State) (i : Nat) (x : Sess) : (setSess s i x).fab = s.fab := rfl
@[simp] theorem setSess_sec (s : State) (i : Nat) (x : Sess) : (setSess s i x).sec = s.sec := rfl
@[simp] theorem setSess_mgc (s : State) (i : Nat) (x : Sess) : (setSess s i x).mgc = s.mgc := rfl
@[simp] theorem setSess_pwr (s : State) (i : Nat) (x : Sess) : (setSess s i x).pwr = s.pwr := rfl
@[simp] theorem setSess_pins (s : State) (i : Nat) (x : Sess) : (setSess s i x).pins = s.pins := rfl
@[simp] theorem setSess_tap (s : State) (i : Nat) (x : Sess) : (setSess s i x).tap = s.tap := rfl
@[simp] theorem setSess_jnlSel (s : State) (i : Nat) (x : Sess) : (setSess s i x).jnlSel = s.jnlSel := rfl
@[simp] theorem setSess_jnlFirst (s : State) (i : Nat) (x : Sess) : (setSess s i x).jnlFirst = s.jnlFirst := rfl
@[simp] theorem setSess_stagePf0 (s : State) (i : Nat) (x : Sess) : (setSess s i x).stagePf0 = s.stagePf0 := rfl
@[simp] theorem setSess_stageMgc (s : State) (i : Nat) (x : Sess) : (setSess s i x).stageMgc = s.stageMgc := rfl

@[simp] theorem setKey_pending (s : State) (k : Nat) (x : KeySlot) : (setKey s k x).pending = s.pending := rfl
@[simp] theorem setKey_fresh (s : State) (k : Nat) (x : KeySlot) : (setKey s k x).fresh = s.fresh := rfl
@[simp] theorem setKey_cores (s : State) (k : Nat) (x : KeySlot) : (setKey s k x).cores = s.cores := rfl
@[simp] theorem setKey_dev (s : State) (k : Nat) (x : KeySlot) : (setKey s k x).dev = s.dev := rfl
@[simp] theorem setKey_time (s : State) (k : Nat) (x : KeySlot) : (setKey s k x).time = s.time := rfl
@[simp] theorem setKey_hif (s : State) (k : Nat) (x : KeySlot) : (setKey s k x).hif = s.hif := rfl
@[simp] theorem setKey_rings (s : State) (k : Nat) (x : KeySlot) : (setKey s k x).rings = s.rings := rfl
@[simp] theorem setKey_cmds (s : State) (k : Nat) (x : KeySlot) : (setKey s k x).cmds = s.cmds := rfl
@[simp] theorem setKey_parts (s : State) (k : Nat) (x : KeySlot) : (setKey s k x).parts = s.parts := rfl
@[simp] theorem setKey_mem (s : State) (k : Nat) (x : KeySlot) : (setKey s k x).mem = s.mem := rfl
@[simp] theorem setKey_sess (s : State) (k : Nat) (x : KeySlot) : (setKey s k x).sess = s.sess := rfl
@[simp] theorem setKey_freeIdx (s : State) (k : Nat) (x : KeySlot) : (setKey s k x).freeIdx = s.freeIdx := rfl
@[simp] theorem setKey_psets (s : State) (k : Nat) (x : KeySlot) : (setKey s k x).psets = s.psets := rfl
@[simp] theorem setKey_launches (s : State) (k : Nat) (x : KeySlot) : (setKey s k x).launches = s.launches := rfl
@[simp] theorem setKey_steps (s : State) (k : Nat) (x : KeySlot) : (setKey s k x).steps = s.steps := rfl
@[simp] theorem setKey_sep (s : State) (k : Nat) (x : KeySlot) : (setKey s k x).sep = s.sep := rfl
@[simp] theorem setKey_exps (s : State) (k : Nat) (x : KeySlot) : (setKey s k x).exps = s.exps := rfl
@[simp] theorem setKey_herds (s : State) (k : Nat) (x : KeySlot) : (setKey s k x).herds = s.herds := rfl
@[simp] theorem setKey_err (s : State) (k : Nat) (x : KeySlot) : (setKey s k x).err = s.err := rfl
@[simp] theorem setKey_fab (s : State) (k : Nat) (x : KeySlot) : (setKey s k x).fab = s.fab := rfl
@[simp] theorem setKey_sec (s : State) (k : Nat) (x : KeySlot) : (setKey s k x).sec = s.sec := rfl
@[simp] theorem setKey_mgc (s : State) (k : Nat) (x : KeySlot) : (setKey s k x).mgc = s.mgc := rfl
@[simp] theorem setKey_pwr (s : State) (k : Nat) (x : KeySlot) : (setKey s k x).pwr = s.pwr := rfl
@[simp] theorem setKey_pins (s : State) (k : Nat) (x : KeySlot) : (setKey s k x).pins = s.pins := rfl
@[simp] theorem setKey_tap (s : State) (k : Nat) (x : KeySlot) : (setKey s k x).tap = s.tap := rfl
@[simp] theorem setKey_jnlSel (s : State) (k : Nat) (x : KeySlot) : (setKey s k x).jnlSel = s.jnlSel := rfl
@[simp] theorem setKey_jnlFirst (s : State) (k : Nat) (x : KeySlot) : (setKey s k x).jnlFirst = s.jnlFirst := rfl
@[simp] theorem setKey_stagePf0 (s : State) (k : Nat) (x : KeySlot) : (setKey s k x).stagePf0 = s.stagePf0 := rfl
@[simp] theorem setKey_stageMgc (s : State) (k : Nat) (x : KeySlot) : (setKey s k x).stageMgc = s.stageMgc := rfl

@[simp] theorem setPort_pending (s : State) (p : Nat) (x : Port) : (setPort s p x).pending = s.pending := rfl
@[simp] theorem setPort_fresh (s : State) (p : Nat) (x : Port) : (setPort s p x).fresh = s.fresh := rfl
@[simp] theorem setPort_cores (s : State) (p : Nat) (x : Port) : (setPort s p x).cores = s.cores := rfl
@[simp] theorem setPort_dev (s : State) (p : Nat) (x : Port) : (setPort s p x).dev = s.dev := rfl
@[simp] theorem setPort_time (s : State) (p : Nat) (x : Port) : (setPort s p x).time = s.time := rfl
@[simp] theorem setPort_hif (s : State) (p : Nat) (x : Port) : (setPort s p x).hif = s.hif := rfl
@[simp] theorem setPort_rings (s : State) (p : Nat) (x : Port) : (setPort s p x).rings = s.rings := rfl
@[simp] theorem setPort_cmds (s : State) (p : Nat) (x : Port) : (setPort s p x).cmds = s.cmds := rfl
@[simp] theorem setPort_parts (s : State) (p : Nat) (x : Port) : (setPort s p x).parts = s.parts := rfl
@[simp] theorem setPort_mem (s : State) (p : Nat) (x : Port) : (setPort s p x).mem = s.mem := rfl
@[simp] theorem setPort_sess (s : State) (p : Nat) (x : Port) : (setPort s p x).sess = s.sess := rfl
@[simp] theorem setPort_freeIdx (s : State) (p : Nat) (x : Port) : (setPort s p x).freeIdx = s.freeIdx := rfl
@[simp] theorem setPort_keys (s : State) (p : Nat) (x : Port) : (setPort s p x).keys = s.keys := rfl
@[simp] theorem setPort_psets (s : State) (p : Nat) (x : Port) : (setPort s p x).psets = s.psets := rfl
@[simp] theorem setPort_launches (s : State) (p : Nat) (x : Port) : (setPort s p x).launches = s.launches := rfl
@[simp] theorem setPort_steps (s : State) (p : Nat) (x : Port) : (setPort s p x).steps = s.steps := rfl
@[simp] theorem setPort_sep (s : State) (p : Nat) (x : Port) : (setPort s p x).sep = s.sep := rfl
@[simp] theorem setPort_exps (s : State) (p : Nat) (x : Port) : (setPort s p x).exps = s.exps := rfl
@[simp] theorem setPort_herds (s : State) (p : Nat) (x : Port) : (setPort s p x).herds = s.herds := rfl
@[simp] theorem setPort_err (s : State) (p : Nat) (x : Port) : (setPort s p x).err = s.err := rfl
@[simp] theorem setPort_sec (s : State) (p : Nat) (x : Port) : (setPort s p x).sec = s.sec := rfl
@[simp] theorem setPort_mgc (s : State) (p : Nat) (x : Port) : (setPort s p x).mgc = s.mgc := rfl
@[simp] theorem setPort_pwr (s : State) (p : Nat) (x : Port) : (setPort s p x).pwr = s.pwr := rfl
@[simp] theorem setPort_pins (s : State) (p : Nat) (x : Port) : (setPort s p x).pins = s.pins := rfl
@[simp] theorem setPort_tap (s : State) (p : Nat) (x : Port) : (setPort s p x).tap = s.tap := rfl
@[simp] theorem setPort_jnlSel (s : State) (p : Nat) (x : Port) : (setPort s p x).jnlSel = s.jnlSel := rfl
@[simp] theorem setPort_jnlFirst (s : State) (p : Nat) (x : Port) : (setPort s p x).jnlFirst = s.jnlFirst := rfl
@[simp] theorem setPort_stagePf0 (s : State) (p : Nat) (x : Port) : (setPort s p x).stagePf0 = s.stagePf0 := rfl
@[simp] theorem setPort_stageMgc (s : State) (p : Nat) (x : Port) : (setPort s p x).stageMgc = s.stageMgc := rfl

@[simp] theorem setJob_pending (s : State) (j : Nat) (x : Job) : (setJob s j x).pending = s.pending := rfl
@[simp] theorem setJob_fresh (s : State) (j : Nat) (x : Job) : (setJob s j x).fresh = s.fresh := rfl
@[simp] theorem setJob_cores (s : State) (j : Nat) (x : Job) : (setJob s j x).cores = s.cores := rfl
@[simp] theorem setJob_dev (s : State) (j : Nat) (x : Job) : (setJob s j x).dev = s.dev := rfl
@[simp] theorem setJob_time (s : State) (j : Nat) (x : Job) : (setJob s j x).time = s.time := rfl
@[simp] theorem setJob_hif (s : State) (j : Nat) (x : Job) : (setJob s j x).hif = s.hif := rfl
@[simp] theorem setJob_rings (s : State) (j : Nat) (x : Job) : (setJob s j x).rings = s.rings := rfl
@[simp] theorem setJob_cmds (s : State) (j : Nat) (x : Job) : (setJob s j x).cmds = s.cmds := rfl
@[simp] theorem setJob_parts (s : State) (j : Nat) (x : Job) : (setJob s j x).parts = s.parts := rfl
@[simp] theorem setJob_mem (s : State) (j : Nat) (x : Job) : (setJob s j x).mem = s.mem := rfl
@[simp] theorem setJob_sess (s : State) (j : Nat) (x : Job) : (setJob s j x).sess = s.sess := rfl
@[simp] theorem setJob_freeIdx (s : State) (j : Nat) (x : Job) : (setJob s j x).freeIdx = s.freeIdx := rfl
@[simp] theorem setJob_keys (s : State) (j : Nat) (x : Job) : (setJob s j x).keys = s.keys := rfl
@[simp] theorem setJob_psets (s : State) (j : Nat) (x : Job) : (setJob s j x).psets = s.psets := rfl
@[simp] theorem setJob_launches (s : State) (j : Nat) (x : Job) : (setJob s j x).launches = s.launches := rfl
@[simp] theorem setJob_steps (s : State) (j : Nat) (x : Job) : (setJob s j x).steps = s.steps := rfl
@[simp] theorem setJob_sep (s : State) (j : Nat) (x : Job) : (setJob s j x).sep = s.sep := rfl
@[simp] theorem setJob_exps (s : State) (j : Nat) (x : Job) : (setJob s j x).exps = s.exps := rfl
@[simp] theorem setJob_herds (s : State) (j : Nat) (x : Job) : (setJob s j x).herds = s.herds := rfl
@[simp] theorem setJob_err (s : State) (j : Nat) (x : Job) : (setJob s j x).err = s.err := rfl
@[simp] theorem setJob_sec (s : State) (j : Nat) (x : Job) : (setJob s j x).sec = s.sec := rfl
@[simp] theorem setJob_mgc (s : State) (j : Nat) (x : Job) : (setJob s j x).mgc = s.mgc := rfl
@[simp] theorem setJob_pwr (s : State) (j : Nat) (x : Job) : (setJob s j x).pwr = s.pwr := rfl
@[simp] theorem setJob_pins (s : State) (j : Nat) (x : Job) : (setJob s j x).pins = s.pins := rfl
@[simp] theorem setJob_tap (s : State) (j : Nat) (x : Job) : (setJob s j x).tap = s.tap := rfl
@[simp] theorem setJob_jnlSel (s : State) (j : Nat) (x : Job) : (setJob s j x).jnlSel = s.jnlSel := rfl
@[simp] theorem setJob_jnlFirst (s : State) (j : Nat) (x : Job) : (setJob s j x).jnlFirst = s.jnlFirst := rfl
@[simp] theorem setJob_stagePf0 (s : State) (j : Nat) (x : Job) : (setJob s j x).stagePf0 = s.stagePf0 := rfl
@[simp] theorem setJob_stageMgc (s : State) (j : Nat) (x : Job) : (setJob s j x).stageMgc = s.stageMgc := rfl

@[simp] theorem setFrame_pending (s : State) (f : Nat) (x : Frame) : (setFrame s f x).pending = s.pending := rfl
@[simp] theorem setFrame_fresh (s : State) (f : Nat) (x : Frame) : (setFrame s f x).fresh = s.fresh := rfl
@[simp] theorem setFrame_cores (s : State) (f : Nat) (x : Frame) : (setFrame s f x).cores = s.cores := rfl
@[simp] theorem setFrame_dev (s : State) (f : Nat) (x : Frame) : (setFrame s f x).dev = s.dev := rfl
@[simp] theorem setFrame_time (s : State) (f : Nat) (x : Frame) : (setFrame s f x).time = s.time := rfl
@[simp] theorem setFrame_hif (s : State) (f : Nat) (x : Frame) : (setFrame s f x).hif = s.hif := rfl
@[simp] theorem setFrame_rings (s : State) (f : Nat) (x : Frame) : (setFrame s f x).rings = s.rings := rfl
@[simp] theorem setFrame_cmds (s : State) (f : Nat) (x : Frame) : (setFrame s f x).cmds = s.cmds := rfl
@[simp] theorem setFrame_parts (s : State) (f : Nat) (x : Frame) : (setFrame s f x).parts = s.parts := rfl
@[simp] theorem setFrame_sess (s : State) (f : Nat) (x : Frame) : (setFrame s f x).sess = s.sess := rfl
@[simp] theorem setFrame_freeIdx (s : State) (f : Nat) (x : Frame) : (setFrame s f x).freeIdx = s.freeIdx := rfl
@[simp] theorem setFrame_keys (s : State) (f : Nat) (x : Frame) : (setFrame s f x).keys = s.keys := rfl
@[simp] theorem setFrame_psets (s : State) (f : Nat) (x : Frame) : (setFrame s f x).psets = s.psets := rfl
@[simp] theorem setFrame_launches (s : State) (f : Nat) (x : Frame) : (setFrame s f x).launches = s.launches := rfl
@[simp] theorem setFrame_steps (s : State) (f : Nat) (x : Frame) : (setFrame s f x).steps = s.steps := rfl
@[simp] theorem setFrame_sep (s : State) (f : Nat) (x : Frame) : (setFrame s f x).sep = s.sep := rfl
@[simp] theorem setFrame_exps (s : State) (f : Nat) (x : Frame) : (setFrame s f x).exps = s.exps := rfl
@[simp] theorem setFrame_herds (s : State) (f : Nat) (x : Frame) : (setFrame s f x).herds = s.herds := rfl
@[simp] theorem setFrame_err (s : State) (f : Nat) (x : Frame) : (setFrame s f x).err = s.err := rfl
@[simp] theorem setFrame_fab (s : State) (f : Nat) (x : Frame) : (setFrame s f x).fab = s.fab := rfl
@[simp] theorem setFrame_sec (s : State) (f : Nat) (x : Frame) : (setFrame s f x).sec = s.sec := rfl
@[simp] theorem setFrame_mgc (s : State) (f : Nat) (x : Frame) : (setFrame s f x).mgc = s.mgc := rfl
@[simp] theorem setFrame_pwr (s : State) (f : Nat) (x : Frame) : (setFrame s f x).pwr = s.pwr := rfl
@[simp] theorem setFrame_pins (s : State) (f : Nat) (x : Frame) : (setFrame s f x).pins = s.pins := rfl
@[simp] theorem setFrame_tap (s : State) (f : Nat) (x : Frame) : (setFrame s f x).tap = s.tap := rfl
@[simp] theorem setFrame_jnlSel (s : State) (f : Nat) (x : Frame) : (setFrame s f x).jnlSel = s.jnlSel := rfl
@[simp] theorem setFrame_jnlFirst (s : State) (f : Nat) (x : Frame) : (setFrame s f x).jnlFirst = s.jnlFirst := rfl
@[simp] theorem setFrame_stagePf0 (s : State) (f : Nat) (x : Frame) : (setFrame s f x).stagePf0 = s.stagePf0 := rfl
@[simp] theorem setFrame_stageMgc (s : State) (f : Nat) (x : Frame) : (setFrame s f x).stageMgc = s.stageMgc := rfl

/-! ## Units read back -/

@[simp] theorem getCore_setCore (s : State) (i : Nat) (x : Core) : getCore (setCore s i x) i = x := tget_tset_same _ _ _ _
theorem getCore_setCore_other (s : State) (i j : Nat) (x : Core) (h : j ≠ i) : getCore (setCore s i x) j = getCore s j := tget_tset_other _ _ _ _ _ h
@[simp] theorem getRing_setRing (s : State) (i : Nat) (x : Ring) : getRing (setRing s i x) i = x := tget_tset_same _ _ _ _
theorem getRing_setRing_other (s : State) (i j : Nat) (x : Ring) (h : j ≠ i) : getRing (setRing s i x) j = getRing s j := tget_tset_other _ _ _ _ _ h
@[simp] theorem getPart_setPart (s : State) (i : Nat) (x : Part) : getPart (setPart s i x) i = x := tget_tset_same _ _ _ _
theorem getPart_setPart_other (s : State) (i j : Nat) (x : Part) (h : j ≠ i) : getPart (setPart s i x) j = getPart s j := tget_tset_other _ _ _ _ _ h
@[simp] theorem getSess_setSess (s : State) (i : Nat) (x : Sess) : getSess (setSess s i x) i = x := tget_tset_same _ _ _ _
theorem getSess_setSess_other (s : State) (i j : Nat) (x : Sess) (h : j ≠ i) : getSess (setSess s i x) j = getSess s j := tget_tset_other _ _ _ _ _ h
@[simp] theorem getKey_setKey (s : State) (i : Nat) (x : KeySlot) : getKey (setKey s i x) i = x := tget_tset_same _ _ _ _
theorem getKey_setKey_other (s : State) (i j : Nat) (x : KeySlot) (h : j ≠ i) : getKey (setKey s i x) j = getKey s j := tget_tset_other _ _ _ _ _ h
@[simp] theorem getPort_setPort (s : State) (i : Nat) (x : Port) : getPort (setPort s i x) i = x := tget_tset_same _ _ _ _
theorem getPort_setPort_other (s : State) (i j : Nat) (x : Port) (h : j ≠ i) : getPort (setPort s i x) j = getPort s j := tget_tset_other _ _ _ _ _ h
@[simp] theorem getJob_setJob (s : State) (i : Nat) (x : Job) : getJob (setJob s i x) i = x := tget_tset_same _ _ _ _
theorem getJob_setJob_other (s : State) (i j : Nat) (x : Job) (h : j ≠ i) : getJob (setJob s i x) j = getJob s j := tget_tset_other _ _ _ _ _ h

@[simp] theorem getCore_setRing (s : State) (r : Nat) (x : Ring) (n : Nat) : getCore (setRing s r x) n = getCore s n := rfl
@[simp] theorem getCore_setPart (s : State) (p : Nat) (x : Part) (n : Nat) : getCore (setPart s p x) n = getCore s n := rfl
@[simp] theorem getCore_setSess (s : State) (i : Nat) (x : Sess) (n : Nat) : getCore (setSess s i x) n = getCore s n := rfl
@[simp] theorem getCore_setKey (s : State) (k : Nat) (x : KeySlot) (n : Nat) : getCore (setKey s k x) n = getCore s n := rfl
@[simp] theorem getCore_setPort (s : State) (p : Nat) (x : Port) (n : Nat) : getCore (setPort s p x) n = getCore s n := rfl
@[simp] theorem getCore_setJob (s : State) (j : Nat) (x : Job) (n : Nat) : getCore (setJob s j x) n = getCore s n := rfl
@[simp] theorem getCore_setFrame (s : State) (f : Nat) (x : Frame) (n : Nat) : getCore (setFrame s f x) n = getCore s n := rfl
@[simp] theorem getRing_setCore (s : State) (c : Nat) (k : Core) (n : Nat) : getRing (setCore s c k) n = getRing s n := rfl
@[simp] theorem getRing_setPart (s : State) (p : Nat) (x : Part) (n : Nat) : getRing (setPart s p x) n = getRing s n := rfl
@[simp] theorem getRing_setSess (s : State) (i : Nat) (x : Sess) (n : Nat) : getRing (setSess s i x) n = getRing s n := rfl
@[simp] theorem getRing_setKey (s : State) (k : Nat) (x : KeySlot) (n : Nat) : getRing (setKey s k x) n = getRing s n := rfl
@[simp] theorem getRing_setPort (s : State) (p : Nat) (x : Port) (n : Nat) : getRing (setPort s p x) n = getRing s n := rfl
@[simp] theorem getRing_setJob (s : State) (j : Nat) (x : Job) (n : Nat) : getRing (setJob s j x) n = getRing s n := rfl
@[simp] theorem getRing_setFrame (s : State) (f : Nat) (x : Frame) (n : Nat) : getRing (setFrame s f x) n = getRing s n := rfl
@[simp] theorem getPart_setCore (s : State) (c : Nat) (k : Core) (n : Nat) : getPart (setCore s c k) n = getPart s n := rfl
@[simp] theorem getPart_setRing (s : State) (r : Nat) (x : Ring) (n : Nat) : getPart (setRing s r x) n = getPart s n := rfl
@[simp] theorem getPart_setSess (s : State) (i : Nat) (x : Sess) (n : Nat) : getPart (setSess s i x) n = getPart s n := rfl
@[simp] theorem getPart_setKey (s : State) (k : Nat) (x : KeySlot) (n : Nat) : getPart (setKey s k x) n = getPart s n := rfl
@[simp] theorem getPart_setPort (s : State) (p : Nat) (x : Port) (n : Nat) : getPart (setPort s p x) n = getPart s n := rfl
@[simp] theorem getPart_setJob (s : State) (j : Nat) (x : Job) (n : Nat) : getPart (setJob s j x) n = getPart s n := rfl
@[simp] theorem getPart_setFrame (s : State) (f : Nat) (x : Frame) (n : Nat) : getPart (setFrame s f x) n = getPart s n := rfl
@[simp] theorem getSess_setCore (s : State) (c : Nat) (k : Core) (n : Nat) : getSess (setCore s c k) n = getSess s n := rfl
@[simp] theorem getSess_setRing (s : State) (r : Nat) (x : Ring) (n : Nat) : getSess (setRing s r x) n = getSess s n := rfl
@[simp] theorem getSess_setPart (s : State) (p : Nat) (x : Part) (n : Nat) : getSess (setPart s p x) n = getSess s n := rfl
@[simp] theorem getSess_setKey (s : State) (k : Nat) (x : KeySlot) (n : Nat) : getSess (setKey s k x) n = getSess s n := rfl
@[simp] theorem getSess_setPort (s : State) (p : Nat) (x : Port) (n : Nat) : getSess (setPort s p x) n = getSess s n := rfl
@[simp] theorem getSess_setJob (s : State) (j : Nat) (x : Job) (n : Nat) : getSess (setJob s j x) n = getSess s n := rfl
@[simp] theorem getSess_setFrame (s : State) (f : Nat) (x : Frame) (n : Nat) : getSess (setFrame s f x) n = getSess s n := rfl
@[simp] theorem getKey_setCore (s : State) (c : Nat) (k : Core) (n : Nat) : getKey (setCore s c k) n = getKey s n := rfl
@[simp] theorem getKey_setRing (s : State) (r : Nat) (x : Ring) (n : Nat) : getKey (setRing s r x) n = getKey s n := rfl
@[simp] theorem getKey_setPart (s : State) (p : Nat) (x : Part) (n : Nat) : getKey (setPart s p x) n = getKey s n := rfl
@[simp] theorem getKey_setSess (s : State) (i : Nat) (x : Sess) (n : Nat) : getKey (setSess s i x) n = getKey s n := rfl
@[simp] theorem getKey_setPort (s : State) (p : Nat) (x : Port) (n : Nat) : getKey (setPort s p x) n = getKey s n := rfl
@[simp] theorem getKey_setJob (s : State) (j : Nat) (x : Job) (n : Nat) : getKey (setJob s j x) n = getKey s n := rfl
@[simp] theorem getKey_setFrame (s : State) (f : Nat) (x : Frame) (n : Nat) : getKey (setFrame s f x) n = getKey s n := rfl
@[simp] theorem getPort_setCore (s : State) (c : Nat) (k : Core) (n : Nat) : getPort (setCore s c k) n = getPort s n := rfl
@[simp] theorem getPort_setRing (s : State) (r : Nat) (x : Ring) (n : Nat) : getPort (setRing s r x) n = getPort s n := rfl
@[simp] theorem getPort_setPart (s : State) (p : Nat) (x : Part) (n : Nat) : getPort (setPart s p x) n = getPort s n := rfl
@[simp] theorem getPort_setSess (s : State) (i : Nat) (x : Sess) (n : Nat) : getPort (setSess s i x) n = getPort s n := rfl
@[simp] theorem getPort_setKey (s : State) (k : Nat) (x : KeySlot) (n : Nat) : getPort (setKey s k x) n = getPort s n := rfl
@[simp] theorem getPort_setJob (s : State) (j : Nat) (x : Job) (n : Nat) : getPort (setJob s j x) n = getPort s n := rfl
@[simp] theorem getPort_setFrame (s : State) (f : Nat) (x : Frame) (n : Nat) : getPort (setFrame s f x) n = getPort s n := rfl
@[simp] theorem getJob_setCore (s : State) (c : Nat) (k : Core) (n : Nat) : getJob (setCore s c k) n = getJob s n := rfl
@[simp] theorem getJob_setRing (s : State) (r : Nat) (x : Ring) (n : Nat) : getJob (setRing s r x) n = getJob s n := rfl
@[simp] theorem getJob_setPart (s : State) (p : Nat) (x : Part) (n : Nat) : getJob (setPart s p x) n = getJob s n := rfl
@[simp] theorem getJob_setSess (s : State) (i : Nat) (x : Sess) (n : Nat) : getJob (setSess s i x) n = getJob s n := rfl
@[simp] theorem getJob_setKey (s : State) (k : Nat) (x : KeySlot) (n : Nat) : getJob (setKey s k x) n = getJob s n := rfl
@[simp] theorem getJob_setPort (s : State) (p : Nat) (x : Port) (n : Nat) : getJob (setPort s p x) n = getJob s n := rfl
@[simp] theorem getJob_setFrame (s : State) (f : Nat) (x : Frame) (n : Nat) : getJob (setFrame s f x) n = getJob s n := rfl

end Sys2Proof.Machine
end

