-- ==== Sys2Proof/Laws/Complete.lean ====
section
/-! SUPPORT. What the end of a command can do: its journal entry, its completion, and nothing outside the rings,
commands, steps, host memory, plate sets and the frames they give back. -/

namespace Sys2Proof.Machine

open Sys2Proof

/-- Only frames, key slots and the partitions' lists of retiring frames differ. -/
def OnlyFrames (s t : State) : Prop := t = { s with mem := t.mem, keys := t.keys, parts := t.parts }

/-- Nothing changed at all. -/
theorem OnlyFrames.refl (s : State) : OnlyFrames s s := rfl

/-- Changes of frames one after the other. -/
theorem OnlyFrames.trans {s t u : State} (h : OnlyFrames s t) (g : OnlyFrames t u) : OnlyFrames s u := by
  unfold OnlyFrames at *
  rw [g, h]

/-- Changes of frames over a list. -/
theorem OnlyFrames.foldl {α : Type} (f : State → α → State) (h : ∀ s x, OnlyFrames s (f s x)) (l : List α) (s : State) :
    OnlyFrames s (l.foldl f s) := by
  induction l generalizing s with
  | nil => exact .refl s
  | cons x t ih => exact (h s x).trans (ih _)

/-- Freeing a frame changes frames and key slots only. -/
theorem freeFrame_only (s : State) (f : Nat) : OnlyFrames s (freeFrame s f) := by
  unfold freeFrame
  dsimp only
  split <;> rfl

/-- Retiring a frame changes frames only. -/
theorem retireFrame_only (s : State) (p f : Nat) : OnlyFrames s (retireFrame s p f) := by
  unfold retireFrame
  dsimp only
  split
  · exact freeFrame_only s f
  · rfl

/-- Only plate sets and frames differ. -/
def OnlySets (s t : State) : Prop := t = { s with mem := t.mem, keys := t.keys, parts := t.parts, psets := t.psets }

/-- Changes of plate sets one after the other. -/
theorem OnlySets.trans {s t u : State} (h : OnlySets s t) (g : OnlySets t u) : OnlySets s u := by
  unfold OnlySets at *
  rw [g, h]

/-- Changes of plate sets over a list. -/
theorem OnlySets.foldl {α : Type} (f : State → α → State) (h : ∀ s x, OnlySets s (f s x)) (l : List α) (s : State) :
    OnlySets s (l.foldl f s) := by
  induction l generalizing s with
  | nil => rfl
  | cons x t ih => exact (h s x).trans (ih _)

/-- Freeing a plate set changes plate sets and frames only. -/
theorem freeSet_only (s : State) (x : PlateSet) : OnlySets s (freeSet s x) := by
  have h := OnlyFrames.foldl (fun s f => retireFrame s x.part f) (fun s f => retireFrame_only s x.part f) (setFrames x) s
  unfold freeSet
  unfold OnlyFrames at h
  unfold OnlySets
  dsimp only
  rw [h]

/-- Freeing every set that no pin holds changes plate sets and frames only (R300). -/
theorem sweepSets_only (s : State) : OnlySets s (sweepSets s) := OnlySets.foldl freeSet freeSet_only _ s

/-- What the end of a command changes. -/
def OnlyEnds (s t : State) : Prop :=
  t = { s with rings := t.rings, cmds := t.cmds, steps := t.steps, hif := t.hif, mem := t.mem, keys := t.keys, parts := t.parts,
               psets := t.psets, err := t.err }

/-- Taking a step that an update keeps by name out of the steps is the same before and after the update. -/
theorem filter_updFirst (r q : Nat) (f : StepRec → StepRec) (hf : ∀ y, (f y).ring = y.ring ∧ (f y).seq = y.seq) (l : List StepRec) :
    (updFirst (fun x => x.ring == r && x.seq == q) f l).filter (fun k => !(k.ring == r && k.seq == q)) =
    l.filter (fun k => !(k.ring == r && k.seq == q)) := by
  induction l with
  | nil => rfl
  | cons x t ih =>
    by_cases h : (x.ring == r && x.seq == q) = true
    · simp only [updFirst, h, if_true, List.filter_cons, (hf x).1, (hf x).2]
      rfl
    · simp only [Bool.not_eq_true] at h
      simp only [updFirst, h, Bool.false_eq_true, if_false, List.filter_cons, ih]

/-- Giving back the scratch frames of a step changes frames and that step only (R348). -/
theorem freeScratch_only (s : State) (r q : Nat) :
    freeScratch s r q = { s with mem := (freeScratch s r q).mem, keys := (freeScratch s r q).keys, parts := (freeScratch s r q).parts,
                                 steps := (freeScratch s r q).steps } ∧
    (freeScratch s r q).steps.filter (fun k => !(k.ring == r && k.seq == q)) = s.steps.filter (fun k => !(k.ring == r && k.seq == q)) := by
  unfold freeScratch
  split
  · exact ⟨rfl, rfl⟩
  · next st _ =>
    have h := OnlyFrames.foldl (fun s f => retireFrame s st.part f) (fun s f => retireFrame_only s st.part f) st.scratch
      { s with steps := updFirst (fun x => x.ring == r && x.seq == q) (fun y => { y with scratch := [] }) s.steps }
    unfold OnlyFrames at h
    dsimp only at h ⊢
    rw [h]
    exact ⟨rfl, filter_updFirst r q (fun y => { y with scratch := [] }) (fun _ => ⟨rfl, rfl⟩) s.steps⟩

/-- A message changes the host interface only (R258). -/
theorem sendMsix_only (s : State) (fn vec : Nat) : sendMsix s fn vec = { s with hif := (sendMsix s fn vec).hif } := by
  unfold sendMsix
  dsimp only
  split <;> rfl

/-- The signal of a completion changes no journal (R258). -/
theorem signalRing_only (s : State) (r : Nat) (irq : Bool) :
    signalRing s r irq = { s with hif := (signalRing s r irq).hif, rings := (signalRing s r irq).rings } ∧
    (getRing (signalRing s r irq) r).journal = (getRing s r).journal ∧ (getRing (signalRing s r irq) r).jlog2 = (getRing s r).jlog2 := by
  unfold signalRing
  dsimp only
  split
  · exact ⟨rfl, rfl, rfl⟩
  · split
    · rw [sendMsix_only]
      exact ⟨rfl, by simp [setRing, getRing], by simp [setRing, getRing]⟩
    · exact ⟨rfl, by simp [setRing, getRing], by simp [setRing, getRing]⟩

/-- A ring that goes OFF keeps its journal (R248). -/
theorem settleRing_only (s : State) (r : Nat) :
    settleRing s r = { s with rings := (settleRing s r).rings } ∧
    (getRing (settleRing s r) r).journal = (getRing s r).journal ∧ (getRing (settleRing s r) r).jlog2 = (getRing s r).jlog2 := by
  unfold settleRing
  dsimp only
  split
  · exact ⟨rfl, by simp [setRing, getRing], by simp [setRing, getRing]⟩
  · exact ⟨rfl, rfl, rfl⟩

/-- The journal entry of a command takes what its change says. -/
theorem journalAt_updJournal (s : State) (r q : Nat) (f : JEntry → JEntry) :
    journalAt (getRing (updJournal s r q f) r) q = f (journalAt (getRing s r) q) := by
  unfold updJournal
  dsimp only
  rw [getRing_setRing]
  exact tget_tset_same _ _ _ _

/-- Writing the end of a command changes rings and the host interface, and the journal entry takes the status and result (R259, R262). -/
theorem writeEnd_only (s : State) (c : Cmd) (r q : Nat) (d : Done) :
    writeEnd s c r q d = { s with rings := (writeEnd s c r q d).rings, hif := (writeEnd s c r q d).hif } ∧
    (journalAt (getRing (writeEnd s c r q d) r) q).status = d.status ∧
    (journalAt (getRing (writeEnd s c r q d) r) q).result = BitVec.ofNat 128 d.result ∧
    (journalAt (getRing (writeEnd s c r q d) r) q).st = (if endsWell d.status then .completed else .failed) := by
  unfold writeEnd
  dsimp only
  generalize hj : updJournal s r q _ = s1
  have e1 : s1 = { s with rings := s1.rings } ∧
      (journalAt (getRing s1 r) q).status = d.status ∧ (journalAt (getRing s1 r) q).result = BitVec.ofNat 128 d.result ∧
      (journalAt (getRing s1 r) q).st = (if endsWell d.status then .completed else .failed) := by
    subst hj
    refine ⟨rfl, ?_, ?_, ?_⟩ <;> rw [journalAt_updJournal]
  clear hj
  generalize hm : (if (getRing s1 r).mute = true then s1 else hostWrite s1 _ _) = s2
  have e2 : s2 = { s1 with hif := s2.hif } := by
    subst hm
    split <;> rfl
  clear hm
  generalize hn : setRing s2 r _ = s3
  have e3 : s3 = { s2 with rings := s3.rings } ∧ (getRing s3 r).journal = (getRing s1 r).journal ∧
      (getRing s3 r).jlog2 = (getRing s1 r).jlog2 := by
    subst hn
    exact ⟨rfl, by simp [setRing, getRing], by simp [setRing, getRing]⟩
  clear hn
  obtain ⟨e4, j4, l4⟩ := signalRing_only s3 r c.irq
  generalize signalRing s3 r c.irq = s4 at e4 j4 l4
  have hr : journalAt (getRing s4 r) q = journalAt (getRing s1 r) q := by
    simp only [journalAt, journalSize, j4, l4, e3.2.1, e3.2.2]
  refine ⟨?_, ?_, ?_, ?_⟩
  · rw [e4, e3.1, e2, e1.1]
  · rw [hr]; exact e1.2.1
  · rw [hr]; exact e1.2.2.1
  · rw [hr]; exact e1.2.2.2

/-- What taking a command out leaves: nothing of it, and the rest as it was. -/
theorem dropCmd_find (s : State) (r q : Nat) : findCmd (dropCmd s r q) r q = none := by
  unfold findCmd dropCmd
  rw [List.find?_eq_none]
  intro x hx
  have := (List.mem_filter.mp hx).2
  simp at this ⊢
  exact fun a => this.resolve_left (fun h => h a)

/-- The end of an accepted command (R256, R259, R262): it is no longer accepted, its journal entry holds the status and
result it ends with by its deadline (R290), and nothing outside rings, commands, steps, host interface, plate sets, frames and latches has
changed. A Timed command that ends counts into a DRAIN under way (R283). -/
theorem complete_spec (s : State) (r q : Nat) (d : Done) (c : Cmd) (h : findCmd s r q = some c) :
    OnlyEnds s (complete s r q d) ∧ findCmd (complete s r q d) r q = none ∧
    (journalAt (getRing (complete s r q d) r) q).status = (doneOf s c d).status ∧
    (journalAt (getRing (complete s r q d) r) q).result = BitVec.ofNat 128 (doneOf s c d).result ∧
    (journalAt (getRing (complete s r q d) r) q).st = (if endsWell (doneOf s c d).status then .completed else .failed) ∧
    (complete s r q d).cmds = (noteTimed s c (doneOf s c d)).cmds.filter (fun k => !(k.ring == r && k.seq == q)) ∧
    (complete s r q d).steps = s.steps.filter (fun k => !(k.ring == r && k.seq == q)) := by
  have hs : complete s r q d =
      endHandling (sweepSets (settleRing (dropCmd (noteTimed (writeEnd (freeScratch s r q) c r q (doneOf s c d)) c (doneOf s c d)) r q) r))
        c.errRef := by
    unfold complete
    rw [h]
  rw [hs]
  clear hs h
  generalize doneOf s c d = d'
  obtain ⟨e0, f0⟩ := freeScratch_only s r q
  revert e0 f0
  generalize freeScratch s r q = s0
  intro e0 f0
  obtain ⟨e1, a1, b1, c1⟩ := writeEnd_only s0 c r q d'
  revert e1 a1 b1 c1
  generalize writeEnd s0 c r q d' = s1
  intro e1 a1 b1 c1
  have m1 : s1.cmds = s.cmds ∧ s1.steps = s0.steps := by rw [e1, e0]; exact ⟨rfl, rfl⟩
  have e2 : noteTimed s1 c d' = { s1 with cmds := (noteTimed s c d').cmds } := by
    unfold noteTimed noteDrain
    split
    · rw [m1.1]
    · rw [← m1.1]
  rw [e2]
  generalize (noteTimed s c d').cmds = cs
  have g3 := dropCmd_find { s1 with cmds := cs } r q
  have q3 : getRing (dropCmd { s1 with cmds := cs } r q) r = getRing s1 r ∧
      (dropCmd { s1 with cmds := cs } r q).cmds = cs.filter (fun k => !(k.ring == r && k.seq == q)) ∧
      (dropCmd { s1 with cmds := cs } r q).steps = s.steps.filter (fun k => !(k.ring == r && k.seq == q)) := by
    rw [← f0, ← m1.2]
    exact ⟨rfl, rfl, rfl⟩
  have e3 : dropCmd { s1 with cmds := cs } r q =
      { s1 with cmds := (dropCmd { s1 with cmds := cs } r q).cmds, steps := (dropCmd { s1 with cmds := cs } r q).steps } := rfl
  revert g3 q3 e3
  generalize dropCmd { s1 with cmds := cs } r q = s3
  intro g3 q3 e3
  obtain ⟨e6, j6, l6⟩ := settleRing_only s3 r
  revert e6 j6 l6
  generalize settleRing s3 r = s6
  intro e6 j6 l6
  have e7 := sweepSets_only s6
  revert e7
  generalize sweepSets s6 = s7
  intro e7
  have e8 : endHandling s7 c.errRef = { s7 with err := (endHandling s7 c.errRef).err } := by
    unfold endHandling
    split <;> rfl
  revert e8
  generalize endHandling s7 c.errRef = s8
  intro e8
  have hr : journalAt (getRing s8 r) q = journalAt (getRing s1 r) q := by
    have a : getRing s8 r = getRing s6 r := by rw [e8, e7]; rfl
    simp only [journalAt, journalSize, a, j6, l6, q3.1]
  have hc : s8.cmds = s3.cmds ∧ s8.steps = s3.steps := by rw [e8, e7, e6]; exact ⟨rfl, rfl⟩
  refine ⟨?_, ?_, ?_, ?_, ?_, ?_, ?_⟩
  · unfold OnlyEnds
    rw [e8, e7, e6, e3, e1, e0]
  · unfold findCmd
    rw [hc.1]
    exact g3
  · rw [hr]; exact a1
  · rw [hr]; exact b1
  · rw [hr]; exact c1
  · rw [hc.1, q3.2.1]
  · rw [hc.2, q3.2.2]

/-- Putting a record into its queues changes the error block, the free values it takes and the message it sends (R338, R334). -/
theorem fileRec_only (s : State) (r : Rec) (w : Bool) :
    fileRec s r w = { s with err := (fileRec s r w).err, fresh := (fileRec s r w).fresh, hif := (fileRec s r w).hif } := by
  have iso : ∀ (s : State) (n : Nat) (r : Rec), (isolated s n r).1 = { s with fresh := (isolated s n r).1.fresh, err := (isolated s n r).1.err } := by
    intro s n r
    unfold isolated readTemp readTemp.again
    dsimp only
    split
    · split <;> rfl
    · rfl
  have go : ∀ (l : List Nat) (s : State), l.foldl (fun s n =>
      let x := if s.dev.isolate && n != 8 then isolated s n r else (s, r)
      let e := x.1.err
      { x.1 with err := { e with queues := tset e.queues n (enqueue (tget {} e.queues n) x.2),
                                 cper := tset e.cper n (exportRec (tget [] e.cper n) r) } }) s =
      { s with err := (l.foldl (fun s n =>
        let x := if s.dev.isolate && n != 8 then isolated s n r else (s, r)
        let e := x.1.err
        { x.1 with err := { e with queues := tset e.queues n (enqueue (tget {} e.queues n) x.2),
                                   cper := tset e.cper n (exportRec (tget [] e.cper n) r) } }) s).err,
               fresh := (l.foldl (fun s n =>
        let x := if s.dev.isolate && n != 8 then isolated s n r else (s, r)
        let e := x.1.err
        { x.1 with err := { e with queues := tset e.queues n (enqueue (tget {} e.queues n) x.2),
                                   cper := tset e.cper n (exportRec (tget [] e.cper n) r) } }) s).fresh } := by
    intro l
    induction l with
    | nil => intro s; rfl
    | cons n t ih =>
      intro s
      rw [List.foldl_cons, ih]
      by_cases h : (s.dev.isolate && n != 8) = true
      · simp only [h, if_true]
        rw [iso]
      · simp only [h]
        rfl
  unfold fileRec
  dsimp only
  split
  · rw [sendMsix_only, go]
  · rw [go]

/-- The bytes, the journals and the work of the machine are not what raising a record changes (R333, R338, R344). -/
theorem raise_only (s : State) (r : Rec) (stops wide : Bool) (on : Option Domain) :
    (raise s r stops wide on).st =
      { s with err := (raise s r stops wide on).st.err, fresh := (raise s r stops wide on).st.fresh,
               hif := (raise s r stops wide on).st.hif } := by
  unfold raise
  dsimp only
  split
  · dsimp only
    rw [fileRec_only]
  · split
    · dsimp only
      split <;> rw [fileRec_only]
    · split
      · dsimp only
        rw [fileRec_only]
        rfl
      · dsimp only
        rw [fileRec_only]

/-- A command that is refused FAULT ends so, or DEADLINE_FAIL where its deadline is near (R251, R290, R336). -/
theorem faultCmd_spec (s : State) (c : Cmd) (syn field addr : Nat) (h : findCmd s c.ring c.seq = some c) :
    findCmd (faultCmd s c syn field addr) c.ring c.seq = none ∧
    (journalAt (getRing (faultCmd s c syn field addr) c.ring) c.seq).status = (if lateCmd s c then stDeadline else stFault) ∧
    (journalAt (getRing (faultCmd s c syn field addr) c.ring) c.seq).st = .failed ∧
    (faultCmd s c syn field addr).sess = s.sess ∧ (faultCmd s c syn field addr).cores = s.cores := by
  have hf : ∀ (l : List Cmd) (f : Cmd → Cmd) (d : Cmd), l.find? (fun k => k.ring == c.ring && k.seq == c.seq) = some d →
      (∀ k, (f k).ring = k.ring ∧ (f k).seq = k.seq) →
      (updFirst (fun k => k.ring == c.ring && k.seq == c.seq) f l).find? (fun k => k.ring == c.ring && k.seq == c.seq) = some (f d) := by
    intro l f d hl hk
    induction l with
    | nil => simp at hl
    | cons x t ih =>
      by_cases hx : (x.ring == c.ring && x.seq == c.seq) = true
      · simp only [List.find?_cons, hx] at hl
        cases hl
        have hy : ((f d).ring == c.ring && (f d).seq == c.seq) = true := by rw [(hk d).1, (hk d).2]; exact hx
        simp only [updFirst, hx, if_true, List.find?_cons, hy]
      · simp only [Bool.not_eq_true] at hx
        simp only [List.find?_cons, hx] at hl
        simp only [updFirst, hx, Bool.false_eq_true, if_false, List.find?_cons]
        exact ih hl
  unfold faultCmd finish raiseCmd
  dsimp only
  generalize hx : raise s _ = x
  have ex : x.st = { s with err := x.st.err, fresh := x.st.fresh, hif := x.st.hif } := by
    subst hx
    exact raise_only s _ false false none
  generalize hu : updCmd x.st c.ring c.seq _ = u
  have hc : ∃ d, findCmd u c.ring c.seq = some d := by
    subst hu
    refine ⟨_, hf _ _ c ?_ ?_⟩
    · rw [ex]; exact h
    · intro k; split <;> exact ⟨rfl, rfl⟩
  obtain ⟨d, hd⟩ := hc
  have eu : u = { s with err := u.err, fresh := u.fresh, hif := u.hif, cmds := u.cmds } := by
    subst hu
    unfold updCmd
    rw [ex]
  have hk : d.timed = c.timed ∧ d.desc = c.desc := by
    subst hu
    rw [show findCmd (updCmd x.st c.ring c.seq _) c.ring c.seq = _ from hf _ _ c (by rw [ex]; exact h) (fun k => by split <;> exact ⟨rfl, rfl⟩)] at hd
    cases hd
    split <;> exact ⟨rfl, rfl⟩
  have ht : lateCmd u d = lateCmd s c := by
    unfold lateCmd
    rw [hk.1, hk.2, eu]
  have hs : (doneOf u d { status := stFault }).status = (if lateCmd s c then stDeadline else stFault) := by
    unfold doneOf byDeadline
    rw [ht]
    cases lateCmd s c <;> rfl
  obtain ⟨e, a, b, _, f, _⟩ := complete_spec u c.ring c.seq { status := stFault } d hd
  rw [hs] at b f
  refine ⟨a, b, ?_, ?_, ?_⟩
  · rw [f]
    cases lateCmd s c <;> rfl
  · rw [e, eu]
  · rw [e, eu]

end Sys2Proof.Machine
end

