-- ==== Sys2Proof/Laws/Alloc.lean ====
section
/-! SUPPORT. When an allocation of near frames succeeds: while fewer than a million frames are listed as used or withdrawn, every
stack has a free one, whatever the firmware takes (R219, R480, log 10); and what writing frames leaves alone: the session records. -/

namespace Sys2Proof.Machine

open Sys2Proof Sys2Proof.Safety

/-- Putting an entry adds at most one to a table. -/
theorem tset_length {α : Type} (t : Tbl α) (k : Nat) (v : α) : (tset t k v).length ≤ t.length + 1 := by
  induction t with
  | nil => simp [tset]
  | cons a t ih =>
    simp only [tset]
    split
    · simp
    · split
      · simp
      · simpa using ih

/-- An entry of a table that is not its default stands in the table. -/
theorem tget_mem {α : Type} (d : α) (t : Tbl α) (k : Nat) (h : tget d t k ≠ d) : k ∈ t.map (·.1) := by
  induction t with
  | nil => exact absurd rfl h
  | cons a t ih =>
    simp only [tget] at h
    split at h
    · next e => simp [e]
    · simp [ih h]

/-- A frame that is not free is listed. -/
theorem frameFree_false (s : State) (f : Nat) (h : frameFree s f = false) : f ∈ usedFrames s := by
  simp only [frameFree, Bool.and_eq_false_iff, Bool.not_eq_false', List.contains_eq_mem, decide_eq_true_eq] at h
  rcases h with h | h
  · refine List.mem_append_left _ (tget_mem {} s.mem.frames f (fun e => ?_))
    simp only [getFrame] at h
    rw [e] at h
    exact absurd h (by decide)
  · exact List.mem_append_right _ h

/-- Among more numbers than there are frames in use there is a free one. -/
theorem findFree_some (s : State) (k lo : Nat) (l : List Nat) (h : ∀ f, lo ≤ f → frameFree s f = false → f ∈ l) (n : l.length < k) :
    (findFree s lo k).isSome = true := by
  induction k generalizing lo l with
  | zero => omega
  | succ k ih =>
    simp only [findFree]
    split
    · rfl
    · next e =>
      refine ih (lo + 1) (l.filter (· != lo)) (fun f g e => List.mem_filter.mpr ⟨h f (by omega) e, by simp; omega⟩) ?_
      have m : lo ∈ l := h lo (Nat.le_refl _) (by simpa using e)
      have := List.length_filter_lt_length_iff_exists (p := (· != lo)) |>.mpr ⟨lo, m, by simp⟩
      omega

/-- The reserved frames of a stack leave over a million. -/
theorem reserved_bound (t : Nat) : reservedFrames t + 1100000 ≤ stackFrames := by
  have h := Config.fwFrames.isLt
  simp only [reservedFrames, stackFrames, sessFrames]
  split <;> omega

/-- Room for more is room for fewer. -/
theorem room_mono {s : State} {n m : Nat} (h : Room s n) (k : m ≤ n) : Room s m := Nat.le_trans (Nat.add_le_add_left k _) h

/-- A range of over a million frames has free ones. -/
theorem freeIn_room (s : State) (lo n k : Nat) (h : Room s k) (m : 1100000 ≤ n) : 100000 + k ≤ freeIn s lo n := by
  have a := List.length_filter_le (fun e : Nat × Frame => decide (lo ≤ e.1) && decide (e.1 < lo + n) && (e.2.st != 0)) s.mem.frames
  have b := List.length_filter_le (fun f => decide (lo ≤ f) && decide (f < lo + n) && (getFrame s f).st == 0) s.dev.withdrawn
  simp only [Room, usedFrames, List.length_append, List.length_map] at h
  simp only [freeIn]
  omega

/-- A stack has a free frame. -/
theorem freeNear_some (s : State) (t : Nat) (h : Room s 0) : (freeNear s t).isSome = true := by
  have r := reserved_bound t
  have f := freeIn_room s (firstFrame t) (stackFrames - reservedFrames t) 0 h (by omega)
  simp only [freeNear]
  rw [if_neg (by omega)]
  refine findFree_some s _ _ (usedFrames s) (fun f _ e => frameFree_false s f e) ?_
  simp only [Room, usedFrames, List.length_append, List.length_map] at h ⊢
  simp only [Nat.min_def]
  split <;> omega

/-- A partition has a free near frame. -/
theorem newNear_some (s : State) (p kind prot : Nat) (h : Room s 0) : ∃ f, newNear s p kind prot = some (allocFrame s f kind p prot 0, f) := by
  have e : (pickNear s p).isSome = true := by
    simp only [pickNear]
    obtain ⟨n, k⟩ : ∃ n, tileCount (getPart s p) = n + 1 := ⟨tileCount (getPart s p) - 1, by have := Nat.two_pow_pos (getPart s p).tiles.toNat; simp only [tileCount]; omega⟩
    obtain ⟨f, g⟩ := Option.isSome_iff_exists.mp (freeNear_some s (getPart s p).tileBase.toNat h)
    simp [k, rangeFrom, List.range_succ_eq_map, g]
  obtain ⟨f, g⟩ := Option.isSome_iff_exists.mp e
  exact ⟨f, by simp [newNear, g]⟩

/-- An allocation uses up one frame. -/
theorem allocFrame_room (s : State) (f kind p prot slot n : Nat) (h : Room s (n + 1)) : Room (allocFrame s f kind p prot slot) n := by
  have e : ∃ v, (allocFrame s f kind p prot slot).mem.frames = tset s.mem.frames f v := by
    unfold allocFrame
    dsimp only
    split <;> exact ⟨_, rfl⟩
  have w : (allocFrame s f kind p prot slot).dev.withdrawn = s.dev.withdrawn := by
    unfold allocFrame
    dsimp only
    split <;> rfl
  obtain ⟨v, e⟩ := e
  have t := tset_length s.mem.frames f v
  simp only [Room, usedFrames, List.length_append, List.length_map, e, w] at h ⊢
  omega

/-- The frames of a peer's image can be had. -/
theorem growImage_some (s : State) (p : Nat) (fs : List Nat) (n : Nat) (h : Room s n) : (growImage s p fs n).isSome = true := by
  induction n generalizing s fs with
  | zero => rfl
  | succ n ih =>
    obtain ⟨f, e⟩ := newNear_some s p 4 0 (Nat.le_trans (Nat.add_le_add_left (Nat.zero_le _) _) h)
    simp only [growImage, e, Option.bind_some]
    exact ih _ _ (allocFrame_room s f 4 p 0 0 n h)

/-- Data frames of a stack can be had one after the other. -/
theorem dataFrames_some (p tile m : Nat) (l : List Nat) (s : State) (fs : List Nat) (h : Room s (l.length + m)) :
    ∃ u gs, l.foldl (fun (acc : Option (State × List Nat)) _ => acc.bind (fun (s, fs) =>
      (freeNear s tile).map (fun f => (allocFrame s f 3 p 1 0, fs ++ [f])))) (some (s, fs)) = some (u, gs) ∧ Room u m ∧
      gs.length = fs.length + l.length := by
  induction l generalizing s fs with
  | nil => exact ⟨s, fs, rfl, by simpa using h, rfl⟩
  | cons x l ih =>
    obtain ⟨f, e⟩ := Option.isSome_iff_exists.mp (freeNear_some s tile (room_mono h (Nat.zero_le _)))
    have r : Room (allocFrame s f 3 p 1 0) (l.length + m) := allocFrame_room s f 3 p 1 0 _ (by simpa [Nat.add_right_comm] using h)
    obtain ⟨u, gs, a, b, c⟩ := ih _ (fs ++ [f]) r
    refine ⟨u, gs, ?_, b, by simp at c ⊢; omega⟩
    simpa [e] using a

/-- A group of nine strong frames can be had. -/
theorem newGroup_some (s : State) (p k m : Nat) (h : Room s (9 + m)) : ∃ u fs c, newGroup s p k = some (u, fs, c) ∧ Room u m ∧ fs.length = 8 := by
  obtain ⟨n, e⟩ : ∃ n, tileCount (getPart s p) = n + 1 :=
    ⟨tileCount (getPart s p) - 1, by have := Nat.two_pow_pos (getPart s p).tiles.toNat; simp only [tileCount]; omega⟩
  have first : ∀ t, 9 ≤ freeIn s (firstFrame t) (stackFrames - reservedFrames t) := fun t => by
    have r := reserved_bound t
    have := freeIn_room s (firstFrame t) (stackFrames - reservedFrames t) 0 (room_mono h (Nat.zero_le _)) (by omega)
    omega
  have find : (List.range (tileCount (getPart s p))).find? (fun i => decide (9 ≤ freeIn s
      (firstFrame ((getPart s p).tileBase.toNat + (k + i) % tileCount (getPart s p)))
      (stackFrames - reservedFrames ((getPart s p).tileBase.toNat + (k + i) % tileCount (getPart s p))))) = some 0 := by
    rw [e, List.range_succ_eq_map]
    simp only [List.find?_cons, first, decide_true]
  simp only [newGroup, find, Option.bind_some]
  obtain ⟨u, fs, a, b, c⟩ := dataFrames_some p ((getPart s p).tileBase.toNat + (k + 0) % tileCount (getPart s p)) (1 + m) (List.range 8) s []
    (by rw [List.length_range]; exact room_mono h (by omega))
  obtain ⟨f, g⟩ := Option.isSome_iff_exists.mp (freeNear_some u ((getPart s p).tileBase.toNat + (k + 0) % tileCount (getPart s p)) (room_mono b (Nat.zero_le _)))
  refine ⟨allocFrame u f 5 p 0 0, fs, f, ?_, allocFrame_room u f 5 p 0 0 m (room_mono b (by omega)), by simpa using c⟩
  rw [a]
  simp only [Option.bind_some, g, Option.map_some]

/-- Groups of strong frames can be had. -/
theorem newGroups_some (s : State) (p page n m : Nat) (h : Room s (9 * n + m)) :
    ∃ u fs cs, newGroups s p page n = some (u, fs, cs) ∧ Room u m ∧ fs.length = 8 * n ∧ cs.length = n := by
  induction n generalizing m with
  | zero => exact ⟨s, [], [], rfl, by simpa using h, rfl, rfl⟩
  | succ n ih =>
    obtain ⟨u, fs, cs, a, b, c, d⟩ := ih (9 + m) (room_mono h (by omega))
    obtain ⟨v, gs, f, x, y, z⟩ := newGroup_some u p (page / 8 + n) m b
    exact ⟨v, fs ++ gs, cs ++ [f], by simp [newGroups, a, x], y, by simp [c, z]; omega, by simp [d]⟩

/-- A plate finds its strong frames. -/
theorem placePlate_some (s : State) (p : Nat) (x : Plate) (d : List Byte) (h : Room (reclaim s p) (9 * ceilDiv (platePages x) 8)) :
    ∃ u fs cs, placePlate s p x d = some (u, fs, cs) ∧ cs.length = ceilDiv (platePages x) 8 := by
  obtain ⟨u, fs, cs, a, _, _, b⟩ := newGroups_some (reclaim s p) p x.page (ceilDiv (platePages x) 8) 0 (room_mono h (Nat.le_of_eq (Nat.add_zero _)))
  refine ⟨writeGroups u fs cs d, fs, cs, ?_, b⟩
  rw [placePlate, a]
  rfl

/-! ## Session records under writes of frames -/

/-- Noting a write changes no session. -/
theorem touchLines_sess (s : State) (f lo hi : Nat) : (touchLines s f lo hi).sess = s.sess := by
  have h : ∀ (l : List Inject) (s : State), (l.foldl (injectLine f) s).sess = s.sess := by
    intro l
    induction l with
    | nil => intro s; rfl
    | cons i l ih => intro s; exact (ih _).trans rfl
  simp only [touchLines]
  split
  · rfl
  · exact h _ _

/-- A write inside a block changes no session. -/
theorem writeBlock_sess (s : State) (f b o : Nat) (d : List Byte) : (writeBlock s f b o d).sess = s.sess := by
  simp only [writeBlock]
  by_cases hf : isFar f = true <;> simp only [hf, if_true, if_false, Bool.false_eq_true] <;> repeat' split
  all_goals first | rfl | exact touchLines_sess _ _ _ _

/-- A write of a frame changes no session. -/
theorem writeFrame_sess (s : State) (f o : Nat) (d : List Byte) : (writeFrame s f o d).sess = s.sess := by
  have h : ∀ (k : Nat) (s : State) (o : Nat) (d : List Byte), (writeFrameGo s f o d k).sess = s.sess := by
    intro k
    induction k with
    | zero => intros; rfl
    | succ k ih =>
      intro s o d
      simp only [writeFrameGo]
      split
      · rfl
      · exact (ih _ _ _).trans (writeBlock_sess _ _ _ _ _)
  exact h 257 s o d

/-- A record's page in a frame changes no session. -/
theorem fillFrame_sess (s : State) (f : Nat) (r : PageRec) (d : List Byte) : (fillFrame s f r d).sess = s.sess := by
  have h : ∀ (l : List (Nat × List Byte)) (s : State), (l.foldl (fun s p => writeBlock s f p.1 0 p.2) s).sess = s.sess := by
    intro l
    induction l with
    | nil => intro s; rfl
    | cons x l ih => intro s; exact (ih _).trans (writeBlock_sess _ _ _ _ _)
  exact h _ _

/-- An allocation changes no session. -/
theorem allocFrame_sess (s : State) (f kind p prot slot : Nat) : (allocFrame s f kind p prot slot).sess = s.sess := by
  unfold allocFrame
  dsimp only
  split <;> rfl

/-- A page entry changes no session. -/
theorem setPte_sess (s : State) (x : Sess) (g : Geo) (l grp i w : Nat) : (setPte s x g l grp i w).sess = s.sess := by
  simp only [setPte]
  split
  · rfl
  · exact writeFrame_sess _ _ _ _

/-- A change of frames changes no session. -/
theorem OnlyFrames.sess {s t : State} (h : OnlyFrames s t) : t.sess = s.sess := by
  unfold OnlyFrames at h
  rw [h]

/-- A reference less changes no session. -/
theorem dropRef_sess (s : State) (p f sm : Nat) : (dropRef s p f sm).sess = s.sess := by
  have a : (retireFrame s p f).sess = s.sess := (retireFrame_only s p f).sess
  have b : ∀ t : State, (retireBlock t p sm).sess = t.sess := by
    intro t
    simp only [retireBlock, freeBlock]
    repeat' split
    all_goals first | rfl | exact (freeFrame_only _ _).sess
  simp only [dropRef]
  split
  · exact (b _).trans a
  · rfl

/-- A page without a summary that arrives for a mapped page of a shadow takes a new frame, and no session changes. -/
theorem placeShadow_some (s : State) (i : Nat) (g : Geo) (r : PageRec) (e : Pte) (h : Room s 0) (n : r.sumv = false)
    (w : walk s (getSess s i) g (bits r.id 63 48) (bits r.id 47 40) (bits r.id 39 8) = some e) :
    ∃ u, placeShadow s i g r = some u ∧ u.sess = s.sess := by
  obtain ⟨f, a⟩ := newNear_some s (getSess s i).part.toNat 1 0 h
  simp only [placeShadow, w, a, n, Option.bind_some, Bool.false_eq_true, if_false, Option.map_some]
  exact ⟨_, rfl, by rw [dropRef_sess, setPte_sess, fillFrame_sess, allocFrame_sess]⟩

end Sys2Proof.Machine
end

