-- ==== Sys2Proof/Laws/Dispatch.lean ====
section
/-! SUPPORT. Waiting and dispatch on a core that has nothing under way: the cases in which no core cycle has to
pass, so that a row is its own action. -/

namespace Sys2Proof.Machine

open Sys2Proof

/-- A wait whose condition holds ends at once. -/
theorem waitFor_of_ok (c : Nat) (ok : State → Bool) (n : Nat) (s : State) (h : ok s = true) : waitFor c ok n s = s := by
  cases n with
  | zero => rfl
  | succ n => simp [waitFor, h]

/-- With nothing queued, no engine issues. -/
theorem tryIssue_empty (s : State) (c e : Nat) (h : queueOf (getCore s c) e = []) : tryIssue s c e = s := by
  simp [tryIssue, h]

/-- With all four queues empty, the engines do nothing. -/
theorem pump_empty (s : State) (c : Nat) (h1 : (getCore s c).qLd = []) (h2 : (getCore s c).qSt = [])
    (h3 : (getCore s c).qMx = []) (h4 : (getCore s c).qVx = []) : pump s c = s := by
  unfold pump
  rw [tryIssue_empty s c 1 h1, tryIssue_empty s c 2 h2, tryIssue_empty s c 3 h3, tryIssue_empty s c 4 h4]

/-- Nothing settles where nothing that is under way stops the core in this cycle. -/
theorem settle_of_calm (s : State) (c : Nat)
    (h : ((getCore s c).flights.any (fun f => f.evs.any (fun e => decide (e.1 ≤ (getCore s c).cyc) && isStop e.2))) = false) :
    settle s c = s := by
  simp only [settle, h, Bool.false_eq_true, if_false]

/-- A row that can be dispatched in the current cycle is its action, the engines, and the end of the cycle if an error
has been detected in it. -/
theorem seqRow_now (s : State) (c : Nat) (i : Instr) (h : Hdr) (rs : List (BitVec 5)) (ok : State → Bool) (act : State → State)
    (hc : c < 128) (hrun : (getCore s c).run = .running) (hsq : (getCore s c).sqAt ≤ (getCore s c).cyc)
    (hill : illegalField i = none) (hg : guardOn (getCore s c) h = true) (hr : regsFree (getCore s c) rs = true)
    (hok : ok s = true) : seqRow s c i h rs ok act = .next (settle (pump (act s) c) c) := by
  have hfree : seqFree c s = true := by simp [seqFree, hrun, hsq]
  have hready : (seqFree c s && regsFree (getCore s c) rs && ok s) = true := by simp [hfree, hr, hok]
  have hc' : ¬ 128 ≤ c := by omega
  unfold seqRow dispatchAt
  generalize waitFuel = n
  rw [if_neg hc', if_neg (fun e => e hrun), waitFor_of_ok c (seqFree c) n s hfree]
  simp only [hfree, Bool.not_true, Bool.false_eq_true, if_false, hill, hg]
  rw [waitFor_of_ok c (fun s => seqFree c s && regsFree (getCore s c) rs && ok s) n s hready, if_pos hready]

@[simp] theorem setSreg_run (k : Core) (r : BitVec 5) (v : W64) : (setSreg k r v).run = k.run := by
  unfold setSreg; split <;> rfl

@[simp] theorem setSreg_qLd (k : Core) (r : BitVec 5) (v : W64) : (setSreg k r v).qLd = k.qLd := by
  unfold setSreg; split <;> rfl

@[simp] theorem setSreg_qSt (k : Core) (r : BitVec 5) (v : W64) : (setSreg k r v).qSt = k.qSt := by
  unfold setSreg; split <;> rfl

@[simp] theorem setSreg_qMx (k : Core) (r : BitVec 5) (v : W64) : (setSreg k r v).qMx = k.qMx := by
  unfold setSreg; split <;> rfl

@[simp] theorem setSreg_qVx (k : Core) (r : BitVec 5) (v : W64) : (setSreg k r v).qVx = k.qVx := by
  unfold setSreg; split <;> rfl

@[simp] theorem setSreg_flights (k : Core) (r : BitVec 5) (v : W64) : (setSreg k r v).flights = k.flights := by
  unfold setSreg; split <;> rfl

@[simp] theorem setSreg_loops (k : Core) (r : BitVec 5) (v : W64) : (setSreg k r v).loops = k.loops := by
  unfold setSreg; split <;> rfl

@[simp] theorem setSreg_prd (k : Core) (r : BitVec 5) (v : W64) : (setSreg k r v).prd = k.prd := by
  unfold setSreg; split <;> rfl

@[simp] theorem setSreg_vreg (k : Core) (r : BitVec 5) (v : W64) : (setSreg k r v).vreg = k.vreg := by
  unfold setSreg; split <;> rfl

@[simp] theorem setSreg_cyc (k : Core) (r : BitVec 5) (v : W64) : (setSreg k r v).cyc = k.cyc := by
  unfold setSreg; split <;> rfl

/-- A scalar register reads back what was written; s0 reads zero (R98). -/
theorem sreg_setSreg_same (k : Core) (r : BitVec 5) (v : W64) : sreg (setSreg k r v) r = if r = 0 then 0 else v := by
  unfold sreg setSreg
  split
  · rfl
  · simp only [tget_tset_same]

/-- A write leaves every other scalar register as it was. -/
theorem sreg_setSreg_other (k : Core) (r j : BitVec 5) (v : W64) (h : j ≠ r) : sreg (setSreg k r v) j = sreg k j := by
  have hn : j.toNat ≠ r.toNat := fun e => h (BitVec.eq_of_toNat_eq e)
  unfold sreg setSreg
  by_cases hr : r = 0
  · rw [if_pos hr]
  · simp only [if_neg hr, tget_tset_other _ _ _ _ _ hn]

/-- Predicates do not depend on the scalar registers. -/
@[simp] theorem sreg_retire (k : Core) (n : Nat) (r : BitVec 5) : sreg (retire k n) r = sreg k r := rfl

end Sys2Proof.Machine
end

