-- ==== Sys2Proof/Laws/Memory.lean ====
section
/-! SUPPORT. The memories: reading back a write, and the canonical form that every write keeps. -/

namespace Sys2Proof.Machine

open Sys2Proof

/-! ## Reading back -/

theorem mread_mput_same (m : Memory) (k : Nat) (v : Byte) : mread (mput m k v) k = v := by
  induction m with
  | nil => simp [mput, mread]
  | cons e t ih =>
    obtain ⟨a, b⟩ := e
    unfold mput
    split
    · simp [mread]
    · split
      · simp [mread]
      · rename_i h _
        simp [mread, h, ih]

theorem mread_mput_other (m : Memory) (k j : Nat) (v : Byte) (h : j ≠ k) : mread (mput m k v) j = mread m j := by
  induction m with
  | nil => simp [mput, mread, Ne.symm h]
  | cons e t ih =>
    obtain ⟨a, b⟩ := e
    unfold mput
    split
    · rename_i hak
      subst hak
      simp [mread, Ne.symm h]
    · split
      · simp [mread, Ne.symm h]
      · by_cases hj : a = j
        · simp [mread, hj]
        · simp [mread, hj, ih]

theorem mread_filter_same (m : Memory) (k : Nat) : mread (m.filter (fun e => e.1 != k)) k = 0 := by
  induction m with
  | nil => rfl
  | cons e t ih =>
    obtain ⟨a, b⟩ := e
    by_cases h : a = k
    · simp [List.filter, h]; exact ih
    · have h' : (a != k) = true := by simpa using h
      simp only [List.filter, h', mread, h, if_false]
      exact ih

theorem mread_filter_other (m : Memory) (k j : Nat) (h : j ≠ k) :
    mread (m.filter (fun e => e.1 != k)) j = mread m j := by
  induction m with
  | nil => rfl
  | cons e t ih =>
    obtain ⟨a, b⟩ := e
    by_cases hk : a = k
    · subst hk
      simp only [List.filter, bne_self_eq_false, mread, Ne.symm h, if_false]
      exact ih
    · have h' : (a != k) = true := by simpa using hk
      simp only [List.filter, h', mread]
      rw [ih]

/-- A byte that was written reads back. -/
@[simp] theorem mread_mwrite_same (m : Memory) (k : Nat) (v : Byte) : mread (mwrite m k v) k = v := by
  unfold mwrite
  split
  · rename_i h
    rw [mread_filter_same, h]
  · exact mread_mput_same m k v

/-- A write leaves every other byte as it was. -/
theorem mread_mwrite_other (m : Memory) (k j : Nat) (v : Byte) (h : j ≠ k) : mread (mwrite m k v) j = mread m j := by
  unfold mwrite
  split
  · exact mread_filter_other m k j h
  · exact mread_mput_other m k j v h

/-- Bytes below and above a run of written bytes are as they were. -/
theorem mread_mwriteN_outside (d : List Byte) : ∀ (m : Memory) (a j : Nat), (j < a ∨ a + d.length ≤ j) →
    mread (mwriteN m a d) j = mread m j := by
  induction d with
  | nil => intro m a j _; rfl
  | cons b t ih =>
    intro m a j h
    have hl : (b :: t).length = t.length + 1 := rfl
    rw [hl] at h
    rw [mwriteN, ih _ _ _ (by omega), mread_mwrite_other _ _ _ _ (by omega)]

/-- A run of written bytes reads back. -/
theorem mread_mwriteN_inside (d : List Byte) : ∀ (m : Memory) (a i : Nat) (h : i < d.length),
    mread (mwriteN m a d) (a + i) = d[i] := by
  induction d with
  | nil => intro m a i h; exact absurd h (Nat.not_lt_zero i)
  | cons b t ih =>
    intro m a i h
    rw [mwriteN]
    cases i with
    | zero =>
      rw [mread_mwriteN_outside t _ _ _ (by omega)]
      simp
    | succ n =>
      have hn : n < t.length := by simpa using h
      have := ih (mwrite m a b) (a + 1) n hn
      rw [show a + (n + 1) = a + 1 + n by omega, this]
      rfl

/-! ## The canonical form -/

/-- A bound below which a rising memory lists nothing may be lowered. -/
theorem memRising_weaken (m : Memory) : ∀ (lo hi : Option Nat), (∀ l, lo = some l → ∃ x, hi = some x ∧ l ≤ x) →
    memRising hi m = true → memRising lo m = true := by
  intro lo hi h hm
  cases m with
  | nil => rfl
  | cons e t =>
    obtain ⟨a, b⟩ := e
    simp only [memRising, Bool.and_eq_true] at hm ⊢
    refine ⟨⟨?_, hm.1.2⟩, hm.2⟩
    cases lo with
    | none => rfl
    | some l =>
      obtain ⟨x, hx, hlx⟩ := h l rfl
      subst hx
      have : x < a := by simpa using hm.1.1
      simpa using Nat.lt_of_le_of_lt hlx this

theorem memRising_mput (m : Memory) (k : Nat) (v : Byte) (hv : v ≠ 0) : ∀ (lo : Option Nat),
    (∀ l, lo = some l → l < k) → memRising lo m = true → memRising lo (mput m k v) = true := by
  induction m with
  | nil =>
    intro lo h _
    cases lo with
    | none => simpa [mput, memRising] using hv
    | some l => simpa [mput, memRising, h l rfl] using hv
  | cons e t ih =>
    obtain ⟨a, b⟩ := e
    intro lo h hm
    simp only [memRising, Bool.and_eq_true] at hm
    unfold mput
    split
    · rename_i hak
      subst hak
      simp only [memRising, Bool.and_eq_true]
      exact ⟨⟨hm.1.1, by simpa using hv⟩, hm.2⟩
    · split
      · rename_i _ hka
        simp only [memRising, Bool.and_eq_true]
        refine ⟨⟨?_, by simpa using hv⟩, ⟨by simpa using hka, hm.1.2⟩, hm.2⟩
        cases lo with
        | none => rfl
        | some l => simpa using h l rfl
      · rename_i hne hnl
        simp only [memRising, Bool.and_eq_true]
        refine ⟨hm.1, ih (some a) ?_ hm.2⟩
        intro l hl
        cases hl
        omega

theorem memRising_filter (m : Memory) (k : Nat) : ∀ (lo : Option Nat), memRising lo m = true →
    memRising lo (m.filter (fun e => e.1 != k)) = true := by
  induction m with
  | nil => intro lo h; exact h
  | cons e t ih =>
    obtain ⟨a, b⟩ := e
    intro lo hm
    simp only [memRising, Bool.and_eq_true] at hm
    by_cases hk : a = k
    · have h' : (a != k) = false := by simpa using hk
      simp only [List.filter, h']
      refine ih lo (memRising_weaken t lo (some a) ?_ hm.2)
      intro l hl
      subst hl
      exact ⟨a, rfl, Nat.le_of_lt (by simpa using hm.1.1)⟩
    · have h' : (a != k) = true := by simpa using hk
      simp only [List.filter, h', memRising, Bool.and_eq_true]
      exact ⟨hm.1, ih (some a) hm.2⟩

/-- A byte write keeps the canonical form. -/
theorem mwrite_wf (m : Memory) (k : Nat) (v : Byte) (h : Memory.wf m = true) : Memory.wf (mwrite m k v) = true := by
  unfold mwrite
  split
  · exact memRising_filter m k none h
  · rename_i hv
    exact memRising_mput m k v hv none (fun _ hl => by cases hl) h

/-- A write of bytes keeps the canonical form. -/
theorem mwriteN_wf (d : List Byte) : ∀ (m : Memory) (a : Nat), Memory.wf m = true → Memory.wf (mwriteN m a d) = true := by
  induction d with
  | nil => intro m a h; exact h
  | cons b t ih => intro m a h; exact ih _ _ (mwrite_wf m a b h)

/-- Both tiers of memory are in canonical form. -/
def tiersWf (s : State) : Bool := Memory.wf s.mem.near && Memory.wf s.mem.far

/-- Folding over armed injections changes no stored byte. -/
theorem foldl_inject_tiers (l : List Inject) (f : State → Inject → State)
    (hf : ∀ s i, (f s i).mem.near = s.mem.near ∧ (f s i).mem.far = s.mem.far) : ∀ s,
    (l.foldl f s).mem.near = s.mem.near ∧ (l.foldl f s).mem.far = s.mem.far := by
  induction l with
  | nil => intro s; exact ⟨rfl, rfl⟩
  | cons i t ih =>
    intro s
    have h1 := ih (f s i)
    have h2 := hf s i
    exact ⟨h1.1.trans h2.1, h1.2.trans h2.2⟩

/-- What noting a write does to the stored bytes: nothing. -/
theorem touchLines_tiers (s : State) (f lo hi : Nat) :
    (touchLines s f lo hi).mem.near = s.mem.near ∧ (touchLines s f lo hi).mem.far = s.mem.far := by
  simp only [touchLines]
  split
  · exact ⟨rfl, rfl⟩
  · exact foldl_inject_tiers _ (injectLine f) (fun _ _ => ⟨rfl, rfl⟩) _

/-- A write inside a block keeps the canonical form of both tiers. -/
theorem writeBlock_wf (s : State) (f b o : Nat) (d : List Byte) (h : tiersWf s = true) : tiersWf (writeBlock s f b o d) = true := by
  have h1 : Memory.wf s.mem.near = true := by simp [tiersWf] at h; exact h.1
  have h2 : Memory.wf s.mem.far = true := by simp [tiersWf] at h; exact h.2
  have ht := touchLines_tiers
  simp only [writeBlock]
  by_cases hf : isFar f = true <;> simp only [hf, if_true, if_false, Bool.false_eq_true]
  · split
    · simp [tiersWf, (ht _ _ _ _).1, (ht _ _ _ _).2, h1, mwriteN_wf _ _ _ h2]
    · split
      · simp [tiersWf, h1, mwriteN_wf _ _ _ h2]
      · simp [tiersWf, (ht _ _ _ _).1, (ht _ _ _ _).2, h1, mwriteN_wf _ _ _ h2]
  · split
    · simp [tiersWf, (ht _ _ _ _).1, (ht _ _ _ _).2, h2, mwriteN_wf _ _ _ h1]
    · split
      · simp [tiersWf, h2, mwriteN_wf _ _ _ h1]
      · simp [tiersWf, (ht _ _ _ _).1, (ht _ _ _ _).2, h2, mwriteN_wf _ _ _ h1]

/-- The reset memory is in canonical form. -/
theorem reset_tiersWf : tiersWf State.reset = true := rfl

end Sys2Proof.Machine
end

