-- ==== Sys2Proof/Tests/Slice0.lean ====
section
/-! SUPPORT. Tests: for every statement, concrete states that meet the hypotheses of its clauses; ill-formed commands that
the check refuses; and words written out from the manual's encodings. -/

namespace Sys2Proof.Tests

open Sys2Proof Sys2Proof.Machine Sys2Proof.Safety

-- One theorem after the other: many kernel evaluations at once would each hold a thread and its stack.
set_option Elab.async false

/-! ## Well-formed commands -/

/-- A header with the guard p0 and no offset. -/
def h0 : Hdr := { pneg := false, pred := 0, timed := false, offset := 0 }

/-- An SQ payload. -/
def sq (sd sa sb : BitVec 5) (fn : BitVec 4) (imm : W64) (immf : Bool) : SqArgs :=
  { sd := sd, sa := sa, sb := sb, immf := immf, pd := 0, pa := 0, pb := 0, fn := fn, imm := imm }

theorem test_wellformed_core : wellFormed (.nop 127 h0) = true ∧ wellFormed (.nop 128 h0) = false := by decide +kernel

theorem test_wellformed_illegal : wellFormed (.nop 0 { h0 with timed := true }) = false ∧
    wellFormed (.setp 0 h0 (sq 0 0 0 8 0 false)) = false ∧ wellFormed (.setp 0 h0 (sq 0 0 0 7 0 false)) = true := by decide +kernel

theorem test_wellformed_ring : wellFormed (.descriptorFetch 32767) = true ∧
    (∀ i ∈ ([.descriptorFetch 32768, .interruptTimer 32768, .ringConsumerStall 32768, .sqTailWrite 0 32768 0 [] [], .cqHeadWrite 0 32768 0,
      .ringEnable .pf0 32768 true 0, .ringDisable .pf0 32768 true 0] : List Instr), wellFormed i = false) := by decide +kernel

theorem test_wellformed_part : wellFormed (.frameReclaim 7) = true ∧
    (∀ i ∈ ([.gatherWindowClose 8, .partitionSetup .pf0 8 true 0, .partitionSetupComplete 8, .partitionTeardown .pf0 8 true 0,
      .partitionTeardownComplete 8, .frameReclaim 8, .milkRunPass 8, .p2Entry 8, .p3Entry 8, .powerStateExitComplete 8, .ideStreamLoss 8,
      .peerImageExpiry 8 0] : List Instr), wellFormed i = false) := by decide +kernel

theorem test_wellformed_port : wellFormed (.nak 5 0) = true ∧
    (∀ i ∈ ([.fabPortWrite .pf0 6 0, .portSignalDetect 6 0, .equalizeConverged 6, .alignDone 6 0, .negotiateDone 6 0 0 0 ⟨0, []⟩, .linkStateTimeout 6,
      .portDownTimer 6, .laneFailing 6 ⟨0, 1⟩, .uncorrectableCodeword 6, .nak 6 0, .timeReq 6, .timeRsp 6 0 0 0 0, .retrainReq 6, .creditInit 6 [],
      .portCreditStall 6 0] : List Instr), wellFormed i = false) ∧
    wellFormed (.dataFlit 6 default) = false := by decide +kernel

theorem test_wellformed_units : wellFormed (.heartbeatAdvance 8) = true ∧ wellFormed (.heartbeatAdvance 9) = false ∧
    wellFormed (.heartbeatLost 9) = false ∧ wellFormed (.thermalThrottle 8 true) = false ∧
    wellFormed (.instructionLastAccess 0 4) = true ∧ wellFormed (.instructionLastAccess 0 5) = false := by decide +kernel

/-! ## Words written out from the encodings of the manual -/

-- R94, R104: opcode 0x10, PNEG 1, PRED 7, TIMED, reserved, OFFSET; SD 31, SA 1, SB, IF 1, PD, PA, PB, FN, reserved, IMM −1.
theorem test_decode_add : decodeWord 3 (0x10#8 ++ 1#1 ++ 7#3 ++ 0#1 ++ 0#3 ++ 0#16 ++ 31#5 ++ 1#5 ++ 0#5 ++ 1#1 ++ 0#3 ++ 0#3 ++ 0#3 ++ 0#4 ++
    0#3 ++ 0xFFFFFFFFFFFFFFFF#64) =
    some (.add 3 { pneg := true, pred := 7, timed := false, offset := 0 } (sq 31 1 0 0 (-1) true)) := by decide +kernel

-- R107: LD, opcode 0x20: SREF, SA, SB, SC, SD, reserved, NROWS, RBYTES, ROW, GRP, PART, reserved.
theorem test_decode_ld : decodeWord 0 (0x20#8 ++ 0#24 ++ (1#1 ++ 1#2 ++ 5#6) ++ 2#5 ++ 3#5 ++ 4#5 ++ 0#5 ++ 0#3 ++ 7#12 ++ 256#16 ++ 9#12 ++
    0#8 ++ 0#2 ++ 0#14) =
    some (.ld 0 h0 { sref := ⟨true, 1, 5⟩, sa := 2, sb := 3, sc := 4, sd := 0, nrows := 7, rbytes := 256, row := 9, grp := 0, part := 0 }) := by
  decide +kernel

-- R113: MX, opcode 0x60, timed at mark cycle 12: SA, SW, SO, SC, M, N, K, FA, FW, FO, the six flags, SR, reserved.
theorem test_decode_mx : decodeWord 0 (0x60#8 ++ 0#4 ++ 1#1 ++ 0#3 ++ 12#16 ++ (0#1 ++ 1#2 ++ 1#6) ++ (0#1 ++ 0#2 ++ 2#6) ++ (1#1 ++ 2#2 ++ 3#6) ++
    (0#1 ++ 0#2 ++ 0#6) ++ 127#12 ++ 63#12 ++ 31#12 ++ 1#4 ++ 2#4 ++ 3#4 ++ 1#1 ++ 0#1 ++ 0#1 ++ 0#1 ++ 1#1 ++ 0#1 ++ 5#5 ++ 0#1) =
    some (.mx 0 { h0 with timed := true, offset := 12 }
      { sa := ⟨false, 1, 1⟩, sw := ⟨false, 0, 2⟩, so := ⟨true, 2, 3⟩, sc := ⟨false, 0, 0⟩, mm := 127, nn := 63, kk := 31, fa := 1, fw := 2,
        fo := 3, is := true, sp := false, ovf := false, spill := false, acc := true, pcs := false, sr := 5 }) := by decide +kernel

-- R122: VFMA, opcode 0x85: VD, VA, VB, VC, SA, SB, SREF, ROW, SR, FMT, FN, IMM.
theorem test_decode_vfma : decodeWord 0 (0x85#8 ++ 0#24 ++ 31#5 ++ 1#5 ++ 2#5 ++ 3#5 ++ 0#5 ++ 0#5 ++ 0#9 ++ 0#12 ++ 0#5 ++ 0#4 ++ 0#4 ++ 0#32) =
    some (.vfma 0 h0 { vd := 31, va := 1, vb := 2, vc := 3, sa := 0, sb := 0, sref := ⟨false, 0, 0⟩, row := 0, sr := 0, fmt := 0, fn := 0,
                       imm := 0 }) := by decide +kernel

-- R131: SLOT, opcode 0xA0: PAD, SLOT, RETAIN, CONSUMERS, PRODUCER, ROW_COUNT, FIRST_ROW, BANK_COUNT, FIRST_BANK, reserved.
theorem test_decode_slot : decodeWord 0 (0xA0#8 ++ 0#24 ++ 1#2 ++ 63#6 ++ 1#1 ++ 16#5 ++ 1#3 ++ 128#8 ++ 0#7 ++ 32#6 ++ 0#5 ++ 0#53) =
    some (.slot 0 h0 ⟨1, 63, true, 16, 1, 128, 0, 32, 0⟩) := by decide +kernel

/-! ## The Sequencer -/

/-- A state in which core 127 is `k`. -/
def onCore (k : Core) : State := setCore State.reset 127 k

/-- A core that runs a kernel of partition 2, with every bank of every port mapped. -/
def run0 : Core :=
  { run := .running, ctx := some ⟨9, 2, 0x40000001, 0x1002, 1, 7⟩, ibuf := [0, 0, 0, 0], gpr := [(1, 1), (2, 64)],
    maps := (List.range 11).map (fun p => (p, 0xFFFFFFFF)) }

/-- Whether core `c` is calm. -/
def calmB (s : State) (c : Nat) : Bool :=
  let k := getCore s c
  decide (c < 128) && decide (k.run = .running) && decide (k.sqAt ≤ k.cyc) && k.qLd.isEmpty && k.qSt.isEmpty && k.qMx.isEmpty &&
  k.qVx.isEmpty && k.flights.isEmpty

/-- Whether core `c` dispatches an instruction. -/
def dispB (s : State) (c : Nat) (i : Instr) (h : Hdr) (rs : List (BitVec 5)) : Bool :=
  calmB s c && (illegalField i).isNone && guardOn (getCore s c) h && regsFree (getCore s c) rs

theorem calm_of (s : State) (c : Nat) (h : calmB s c = true) : Calm s c := by
  simp only [calmB, Bool.and_eq_true, decide_eq_true_eq, List.isEmpty_iff] at h
  obtain ⟨⟨⟨⟨⟨⟨⟨h1, h2⟩, h3⟩, h4⟩, h5⟩, h6⟩, h7⟩, h8⟩ := h
  exact ⟨h1, h2, h3, h4, h5, h6, h7, h8⟩

theorem dispatches_of (s : State) (c : Nat) (i : Instr) (h : Hdr) (rs : List (BitVec 5)) (e : dispB s c i h rs = true) :
    Dispatches s c i h rs := by
  simp only [dispB, Bool.and_eq_true, Option.isNone_iff_eq_none] at e
  obtain ⟨⟨⟨h1, h2⟩, h3⟩, h4⟩ := e
  exact ⟨calm_of s c h1, h2, h3, h4⟩

theorem dispatch_all (s : State) (c : Nat) (h : Hdr) (rs : List (BitVec 5)) (l : List Instr)
    (e : l.all (fun i => dispB s c i h rs) = true) : ∀ i ∈ l, Dispatches s c i h rs := by
  intro i hi
  exact dispatches_of s c i h rs (List.all_eq_true.mp e i hi)

theorem witness_ScalarArithmeticWritesItsResult :
    (let o := sq 31 1 31 0 5 true
     ∀ i ∈ ([.add 127 h0 o, .sub 127 h0 o, .mul 127 h0 o, .and 127 h0 o, .or 127 h0 o, .xor 127 h0 o, .shl 127 h0 o, .shr 127 h0 o,
      .sra 127 h0 o, .min 127 h0 o, .max 127 h0 o] : List Instr), Dispatches (onCore run0) 127 i h0 [31, 1]) ∧
    (let o := sq 0 31 2 0 0 false
     ∀ i ∈ ([.add 127 h0 o, .sub 127 h0 o, .mul 127 h0 o, .and 127 h0 o, .or 127 h0 o, .xor 127 h0 o, .shl 127 h0 o, .shr 127 h0 o,
      .sra 127 h0 o, .min 127 h0 o, .max 127 h0 o] : List Instr), Dispatches (onCore run0) 127 i h0 [0, 31, 2]) :=
  ⟨dispatch_all _ _ _ _ _ (by decide +kernel), dispatch_all _ _ _ _ _ (by decide +kernel)⟩

theorem witness_ScalarReadsWriteWhatTheySelect :
    Dispatches (onCore run0) 127 (.movi 127 h0 (sq 31 0 0 0 (-1) false)) h0 [31] ∧
    (∀ fn ∈ ([0, 1, 2, 3, 4, 5, 6] : List (BitVec 4)), Dispatches (onCore run0) 127 (.spr 127 h0 (sq 31 0 0 fn 0 false)) h0 [31]) ∧
    (getCore (onCore run0) 127).ctx = some ⟨9, 2, 0x40000001, 0x1002, 1, 7⟩ ∧
    Dispatches (onCore run0) 127 (.sqry 127 h0 ⟨31, 2, 63⟩) h0 [31] ∧
    (∀ sel ∈ ([0, 1, 2, 3, 4] : List (BitVec 4)), Dispatches (onCore run0) 127 (.perf 127 h0 ⟨31, sel⟩) h0 [31]) :=
  ⟨dispatches_of _ _ _ _ _ (by decide +kernel),
   fun fn h => dispatches_of _ _ _ _ _ ((by decide +kernel : ∀ fn ∈ ([0, 1, 2, 3, 4, 5, 6] : List (BitVec 4)),
     dispB (onCore run0) 127 (.spr 127 h0 (sq 31 0 0 fn 0 false)) h0 [31] = true) fn h),
   rfl, dispatches_of _ _ _ _ _ (by decide +kernel),
   fun sel h => dispatches_of _ _ _ _ _ ((by decide +kernel : ∀ sel ∈ ([0, 1, 2, 3, 4] : List (BitVec 4)),
     dispB (onCore run0) 127 (.perf 127 h0 ⟨31, sel⟩) h0 [31] = true) sel h)⟩

theorem witness_PredicateInstructionsWriteTheirCondition :
    (∀ fn ∈ ([0, 1, 2, 3, 4, 5, 6, 7] : List (BitVec 4)),
      Dispatches (onCore run0) 127 (.setp 127 h0 { sq 0 31 1 fn 0 false with pd := 7 }) h0 [31, 1]) ∧
    (∀ fn ∈ ([0, 1, 2, 3] : List (BitVec 4)), Dispatches (onCore run0) 127 (.plog 127 h0 { sq 0 0 0 fn 0 false with pd := 7, pa := 7, pb := 6 }) h0 []) :=
  ⟨fun fn h => dispatches_of _ _ _ _ _ ((by decide +kernel : ∀ fn ∈ ([0, 1, 2, 3, 4, 5, 6, 7] : List (BitVec 4)),
     dispB (onCore run0) 127 (.setp 127 h0 { sq 0 31 1 fn 0 false with pd := 7 }) h0 [31, 1] = true) fn h),
   fun fn h => dispatches_of _ _ _ _ _ ((by decide +kernel : ∀ fn ∈ ([0, 1, 2, 3] : List (BitVec 4)),
     dispB (onCore run0) 127 (.plog 127 h0 { sq 0 0 0 fn 0 false with pd := 7, pa := 7, pb := 6 }) h0 [] = true) fn h)⟩

/-- Four conditions, one of them valid: slot 63 of the P-pad EMPTY. -/
def conds : MarkArgs := ⟨⟨true, 2, 63, 0⟩, ⟨false, 0, 0, 0⟩, ⟨false, 0, 0, 0⟩, ⟨false, 0, 0, 0⟩⟩

theorem witness_SequencerGoesOn :
    Dispatches (onCore run0) 127 (.nop 127 h0) h0 [] ∧ Dispatches (onCore run0) 127 (.wait 127 h0 conds) h0 [] ∧
    (∀ x ∈ [conds.c0, conds.c1, conds.c2, conds.c3], condHolds (getCore (onCore run0) 127) x = true) ∧
    Dispatches (onCore run0) 127 (.fenceInstr 127 h0) h0 [] ∧ Dispatches (onCore run0) 127 (.mark 127 h0 conds) h0 [] ∧
    Dispatches (onCore run0) 127 (.br 127 h0 (sq 0 0 0 0 3 false)) h0 [] :=
  ⟨dispatches_of _ _ _ _ _ (by decide +kernel), dispatches_of _ _ _ _ _ (by decide +kernel), by decide +kernel,
   dispatches_of _ _ _ _ _ (by decide +kernel), dispatches_of _ _ _ _ _ (by decide +kernel), dispatches_of _ _ _ _ _ (by decide +kernel)⟩

theorem witness_LoopAndEndOfKernel :
    (Dispatches (onCore run0) 127 (.loop 127 h0 (sq 0 1 0 0 2 false)) h0 [1] ∧ bits (sreg run0 1) 31 0 ≠ 0 ∧ bits (2 : W64) 15 0 ≠ 0) ∧
    (Dispatches (onCore run0) 127 (.loop 127 h0 (sq 0 0 0 0 2 false)) h0 [0] ∧ bits (sreg run0 0) 31 0 = 0) ∧
    (Dispatches (onCore run0) 127 (.loop 127 h0 (sq 0 1 0 0 0 false)) h0 [1] ∧ bits (0 : W64) 15 0 = 0) ∧
    Dispatches (onCore run0) 127 (.end_ 127 h0) h0 [] ∧
    (let k : Core := { run0 with run := .ended }
     let s := { onCore k with launches := [{ id := 9, part := 2, steps := [(1, 7)], kernel := true, cores := [127] }] }
     k.run = .ended ∧ k.qLd = [] ∧ k.qSt = [] ∧ k.qMx = [] ∧ k.qVx = [] ∧ k.flights = [] ∧ getCore s 127 = k ∧
     k.ctx = some ⟨9, 2, 0x40000001, 0x1002, 1, 7⟩ ∧ ∃ l ∈ s.launches, l.id = 9) :=
  ⟨⟨dispatches_of _ _ _ _ _ (by decide +kernel), by decide +kernel, by decide +kernel⟩,
   ⟨dispatches_of _ _ _ _ _ (by decide +kernel), by decide +kernel⟩, ⟨dispatches_of _ _ _ _ _ (by decide +kernel), by decide +kernel⟩,
   dispatches_of _ _ _ _ _ (by decide +kernel), rfl, rfl, rfl, rfl, rfl, rfl, rfl, rfl, _, List.mem_singleton.mpr rfl, rfl⟩

theorem witness_GuardOffPassesOver :
    let h : Hdr := { h0 with pneg := true }
    (h.pred = 0 ∧ h.pneg = true) ∧ coreHdr (.mxcvt 127 { h with timed := true, offset := 65535 } default) = some { h with timed := true, offset := 65535 } ∧
    (∀ i ∈ ([.add 127 h (sq 31 1 2 0 0 false), .fenceInstr 127 h, .end_ 127 h] : List Instr), coreHdr i = some h ∧ coreOfInstr i = some 127 ∧
      Calm (onCore run0) 127 ∧ illegalField i = none ∧ guardOn (getCore (onCore run0) 127) h = false) ∧
    (loopNext run0.loops (run0.pc + 1)).1 ≠ run0.ibuf.length := by
  refine ⟨⟨rfl, rfl⟩, rfl, ?_, by decide +kernel⟩
  intro i hi
  have e : ∀ i ∈ ([.add 127 { h0 with pneg := true } (sq 31 1 2 0 0 false), .fenceInstr 127 { h0 with pneg := true },
      .end_ 127 { h0 with pneg := true }] : List Instr), coreHdr i = some { h0 with pneg := true } ∧ coreOfInstr i = some 127 ∧
      illegalField i = none ∧ guardOn (getCore (onCore run0) 127) { h0 with pneg := true } = false := by decide +kernel
  obtain ⟨a, b, c, d⟩ := e i hi
  exact ⟨a, b, calm_of _ _ (by decide +kernel), c, d⟩

/-- An empty slot of the A-pad that engine `p` writes, and one that is full and engine `p` reads and writes. -/
def slotE (p : BitVec 3) : SlotEntry := { producer := p, consumers := 0x1F, rowCount := 128, bankCount := 8 }
def slotF (p : BitVec 3) : SlotEntry := { slotE p with st := .full }

/-- Core `run0` with slots 1 (empty) and 2 (full) of engine `p` in every pad, in banks 0 to 7 and 8 to 15. -/
def slots (p : BitVec 3) : Core :=
  let x : Pad := { slots := [(1, slotE p), (2, { slotF p with firstBank := 8 })] }
  { run0 with padW := x, padA := x, padP := x }

theorem witness_SlotAndMapInstructions :
    (∀ o ∈ ([⟨0, 0xFFFFFFFF, false, 0, 0⟩, ⟨10, 0xFFFF, true, 0, 1⟩, ⟨6, 1, true, 6, 2⟩] : List BmapArgs),
      Dispatches (onCore run0) 127 (.bmap 127 h0 o) h0 []) ∧
    (Dispatches (onCore run0) 127 (.slot 127 h0 ⟨2, 63, true, 31, 4, 128, 0, 16, 0⟩) h0 [] ∧ (slotOf (getCore (onCore run0) 127) 2 63).st = .empty) ∧
    (Dispatches (onCore (slots 0)) 127 (.sclr 127 h0 ⟨2, 2⟩) h0 [] ∧ (slotOf (getCore (onCore (slots 0)) 127) 2 2).st = .full) :=
  ⟨fun o h => dispatches_of _ _ _ _ _ ((by decide +kernel : ∀ o ∈ ([⟨0, 0xFFFFFFFF, false, 0, 0⟩, ⟨10, 0xFFFF, true, 0, 1⟩, ⟨6, 1, true, 6, 2⟩] :
      List BmapArgs), dispB (onCore run0) 127 (.bmap 127 h0 o) h0 [] = true) o h),
   ⟨dispatches_of _ _ _ _ _ (by decide +kernel), by decide +kernel⟩, dispatches_of _ _ _ _ _ (by decide +kernel), by decide +kernel⟩

/-- Slots of engine 0 in the A-pad: LDS reads slot 2 (full), STS writes slot 1 (empty). -/
theorem witness_SequencerPadAccesses :
    let k := slots 0
    let s := onCore k
    let o : SqArgs := sq 31 0 0 3 ((2 : W64) <<< 55 ||| (1 : W64) <<< 61 ||| 120) false
    let p : SqArgs := sq 0 0 2 3 ((1 : W64) <<< 55 ||| (1 : W64) <<< 61 ||| 120) false
    (Dispatches s 127 (.lds 127 h0 o) h0 [o.sd, o.sa] ∧
      checkUse k 0 { pad := 1, slot := 2, acc := .read, flag := bit o.imm 63, r0 := 0, n := 1 } = .ok ∧ bits o.imm 60 55 = 2 ∧
      bits o.imm 31 0 = 120 ∧ 120 % 2 ^ (o.fn.toNat % 4) = 0 ∧ Reaches k 0 1 2 ∧ PadsSound k) ∧
    (Dispatches s 127 (.sts 127 h0 p) h0 [p.sa, p.sb] ∧
      checkUse k 0 { pad := 1, slot := 1, acc := .write, flag := bit p.imm 63, r0 := 0, n := 1 } = .ok ∧ bits p.imm 60 55 = 1 ∧
      bits p.imm 31 0 = 120 ∧ 120 % 2 ^ (p.fn.toNat % 4) = 0 ∧ Reaches k 0 1 1) ∧
    (Dispatches s 127 (.shw 127 h0 (sq 31 2 0 0 0xFFC0 false)) h0 [31, 2] ∧ (sreg k 2 + 0xFFC0).toNat % 4 = 0) :=
  ⟨⟨dispatches_of _ _ _ _ _ (by decide +kernel), by decide +kernel, by decide +kernel, by decide +kernel, by decide +kernel,
     by unfold Reaches; decide +kernel, rfl, rfl, rfl⟩,
   ⟨dispatches_of _ _ _ _ _ (by decide +kernel), by decide +kernel, by decide +kernel, by decide +kernel, by decide +kernel,
     by unfold Reaches; decide +kernel⟩, dispatches_of _ _ _ _ _ (by decide +kernel), by decide +kernel⟩

/-- An LD or ST payload of slot `n` of the A-pad: 1,024 rows in all, of 128 bytes. -/
def ldA (n : BitVec 6) : LdArgs :=
  { sref := ⟨true, 1, n⟩, sa := 2, sb := 2, sc := 0, sd := 0, nrows := 1023, rbytes := 128, row := 0, grp := 0, part := 0 }

theorem witness_MemoryInstructionsIssue :
    (let k := slots 1
     let s := onCore k
     let o := ldA 1
     let u := { o with sb := 0, sd := 31, nrows := 0, rbytes := 0, part := 3 }
     (Dispatches s 127 (.ld 127 h0 o) h0 [o.sa, o.sb, o.sc] ∧
       checkUse k 1 { pad := 1, slot := 1, acc := .write, flag := true, r0 := 0, n := 1024 } = .ok ∧ (sreg k o.sa).toNat % 16 = 0 ∧
       (sreg k o.sb).toNat % 16 = 0) ∧
     checkUse k 1 { pad := 1, slot := 1, acc := .write, flag := true, r0 := 0, n := 0 } = .ok ∧
     Dispatches s 127 (.ldkv 127 h0 u) h0 [u.sa, u.sb, u.sc, u.sd] ∧ Dispatches s 127 (.ldsk 127 h0 { u with part := 0 }) h0 [u.sa, u.sb, u.sc, u.sd]) ∧
    (let k := slots 2
     let s := onCore k
     let o := ldA 2
     let u := { o with sb := 0, sd := 31, nrows := 0, rbytes := 0, part := 3 }
     (Dispatches s 127 (.st 127 h0 o) h0 [o.sa, o.sb, o.sc] ∧
       checkUse k 2 { pad := 1, slot := 2, acc := .read, flag := true, r0 := 0, n := 1024 } = .ok ∧ (sreg k o.sa).toNat % 16 = 0) ∧
     Dispatches s 127 (.stkv 127 h0 u) h0 [u.sa, u.sb, u.sc, u.sd] ∧
     checkUse k 2 { pad := 1, slot := 2, acc := .read, flag := true, r0 := 0, n := 0 } = .ok ∧
     Dispatches s 127 (.stsh 127 h0 { u with sref := ⟨false, 0, 0⟩, sd := 0, part := 0 }) h0 [u.sa, u.sb]) :=
  ⟨⟨⟨dispatches_of _ _ _ _ _ (by decide +kernel), by decide +kernel, by decide +kernel, by decide +kernel⟩, by decide +kernel,
     dispatches_of _ _ _ _ _ (by decide +kernel), dispatches_of _ _ _ _ _ (by decide +kernel)⟩,
   ⟨dispatches_of _ _ _ _ _ (by decide +kernel), by decide +kernel, by decide +kernel⟩, dispatches_of _ _ _ _ _ (by decide +kernel),
   by decide +kernel, dispatches_of _ _ _ _ _ (by decide +kernel)⟩

/-- Partition 2 with two near pages, in frames 5 and 6. -/
def near2 (k : Core) : State :=
  setFrame (setFrame (setPart (onCore k) 2 { nearPages := [5, 6] }) 5 { st := 1, refcnt := 1 }) 6 { st := 1, refcnt := 1 }

/-- A queued instruction with scalars `a` and `b`, and its flight on engine `e`. -/
def inQueue (i : Instr) (a b : W64) : Queued := ⟨i, 0, ⟨a, b, 0, 0⟩, 0⟩
def inFlight (e : Nat) (q : Queued) : Flight := { eng := e, addr := 0, due := 0, evs := [], mem := some q }

theorem witness_LoadWritesItsSlot :
    let o := { ldA 1 with nrows := 5, rbytes := 256, sb := 2 }
    let q := inQueue (.ld 127 h0 o) 0x1FA00 256
    let k := { slots 1 with flights := [inFlight 1 q] }
    let s := near2 k
    let e := slotOf k 1 1
    getCore s 127 = k ∧ k.run = .running ∧ k.ctx = some ⟨9, 2, 0x40000001, 0x1002, 1, 7⟩ ∧ (inFlight 1 q).eng = 1 ∧ (inFlight 1 q).evs = [] ∧
    (inFlight 1 q).mem = some q ∧ q.ins = .ld 127 h0 o ∧ k.qLd = [] ∧ k.qSt = [] ∧ k.qMx = [] ∧ k.qVx = [] ∧ 0 < o.rbytes.toNat ∧
    0 + (o.nrows.toNat + 1) * 2 ≤ slotRows e ∧ e.firstRow.toNat + e.rowCount.toNat ≤ 128 ∧ Reaches k 1 1 1 ∧
    (∀ i, i ≤ 5 →
      let r := readPart s 2 0x1002 (q.sc.a + BitVec.ofNat 64 i * q.sc.b).toNat 256
      r.err = none ∧ r.ue = none ∧ r.ces = []) :=
  ⟨rfl, rfl, rfl, rfl, rfl, rfl, rfl, rfl, rfl, rfl, rfl, by decide +kernel, by decide +kernel, by decide +kernel,
   by unfold Reaches; decide +kernel, by decide +kernel⟩

theorem witness_ShapeWordsMove :
    let p := { ldA 1 with sref := ⟨false, 0, 0⟩, sb := 1, rbytes := 0, nrows := 0 }
    let q := inQueue (.stsh 127 h0 p) 0x1FFFC 7
    let r := inQueue (.shw 127 h0 (sq 31 2 0 0 0 false)) 0 0
    (let k := { run0 with flights := [inFlight 2 q] }
     let s := near2 k
     getCore s 127 = k ∧ k.run = .running ∧ k.ctx = some ⟨9, 2, 0x40000001, 0x1002, 1, 7⟩ ∧ (inFlight 2 q).eng = 2 ∧ (inFlight 2 q).evs = [] ∧
     q.ins = .stsh 127 h0 p ∧ (0x1FFFC : Nat) < 2 ^ 46 ∧ 0x1FFFC % 4 = 0 ∧ k.qLd = [] ∧ k.qSt = [] ∧ k.qMx = [] ∧ k.qVx = [] ∧
     (getPart s 2).nearPages[0x1FFFC / 65536]? = some 6 ∧ (getFrame s 6).refcnt ≤ 1) ∧
    (let k := { run0 with flights := [inFlight 0 r] }
     let s := near2 k
     getCore s 127 = k ∧ (inFlight 0 r).eng = 0 ∧ r.ins = .shw 127 h0 (sq 31 2 0 0 0 false) ∧ (getPart s 2).nearPages[0]? = some 5 ∧
     (getFrame s 5).refcnt ≤ 1 ∧ ∀ e ∈ s.mem.bad, e.1 / 1024 ≠ 5) :=
  ⟨⟨rfl, rfl, rfl, rfl, rfl, rfl, by decide, by decide, rfl, rfl, rfl, rfl, by decide +kernel, by decide +kernel⟩,
   rfl, rfl, rfl, by decide +kernel, by decide +kernel, by decide +kernel⟩

theorem reaches_all (k : Core) (eng pad slot : Nat)
    (h : (List.range (Nat.max 1 (slotOf k pad slot).bankCount.toNat)).all (fun j =>
      bit (mapOf k (portOf eng pad)) ((slotOf k pad slot).firstBank.toNat + j)) = true) : Reaches k eng pad slot := by
  intro j hj
  exact List.all_eq_true.mp h j (List.mem_range.mpr hj)

/-- What every Matrix engine clause asks of core 127. -/
def mxReady (k : Core) (i : Instr) (o : MxArgs) : Prop :=
  Dispatches (onCore k) 127 i h0 [o.sr] ∧ k.busyMx ≤ k.cyc ∧ OffsetReached k h0 ∧ k.mxOut ≤ k.cyc ∧ residueInjection (onCore k) 127 = none

theorem mxReady_of (k : Core) (i : Instr) (o : MxArgs) (h : dispB (onCore k) 127 i h0 [o.sr] = true) (b : k.busyMx ≤ k.cyc)
    (p : k.mxOut ≤ k.cyc) : mxReady k i o :=
  ⟨dispatches_of _ _ _ _ _ h, b, nofun, p, rfl⟩

/-- An MX payload. -/
def mxO (sa sw so : SRef) (m n kk : BitVec 12) : MxArgs :=
  { sa := sa, sw := sw, so := so, sc := ⟨false, 0, 0⟩, mm := m, nn := n, kk := kk, fa := 0, fw := 0, fo := 0, is := false, sp := false,
    ovf := false, spill := false, acc := false, pcs := false, sr := 0 }

theorem witness_MatrixInstructionsIssue :
    let k := slots 3
    let kc : Core := { k with padP := { slots := [(1, slotF 3), (2, { slotF 3 with firstBank := 8 })] } }
    let v := fun (k : Core) (o : MxArgs) (x : SRef) (i : Nat) => mxSlot k x (sreg k o.sr) i
    let fits : List (SlotView × Nat) → Prop := fun l => ∀ x ∈ l, x.2 ≤ slotRows x.1.e
    (let o := { mxO ⟨true, 1, 2⟩ ⟨false, 0, 2⟩ ⟨true, 2, 1⟩ 127 127 31 with spill := true }
     let fd := foldOf o
     let la : Lay := { fmt := 0, scaled := fmtBlock 0, sp := false }
     let nO := outRows (outLay o fd.held) fd
     mxReady k (.mx 127 h0 o) o ∧ fits [(v k o o.sa 0, strmRows fd la), (v k o o.sw 1, heldRows fd la), (v k o o.so 2, nO)] ∧
     SlotsPass k 3 [mxUse (v k o o.sa 0) .read true (strmRows fd la), mxUse (v k o o.sw 1) .read false (heldRows fd la),
       mxUse (v k o o.so 2) .write true nO]) ∧
    (let o := mxO ⟨false, 1, 2⟩ ⟨false, 0, 2⟩ ⟨true, 2, 1⟩ 127 63 63
     mxReady k (.mxscan 127 h0 o) o ∧ fits [(v k o o.sa 0, 128), (v k o o.sw 1, 64), (v k o o.so 2, 512)] ∧
     SlotsPass k 3 [mxUse (v k o o.sa 0) .read false 128, mxUse (v k o o.sw 1) .read false 64, mxUse (v k o o.so 2) .write true 512] ∧
     ceilDiv (ceilDiv ((o.kk.toNat + 1) * 16) 32) 128 = 1) ∧
    (let o := mxO ⟨true, 2, 2⟩ ⟨false, 0, 0⟩ ⟨true, 2, 1⟩ 15 15 0
     mxReady kc (.mxcmb 127 h0 o) o ∧ fits [(v kc o o.sa 0, 16), (v kc o o.so 2, 16)] ∧
     SlotsPass kc 3 [mxUse (v kc o o.sa 0) .read true 16, mxUse (v kc o o.so 2) .update true 16] ∧
     (let q : Queued := ⟨.mxcmb 127 h0 o, 0, ⟨0, 0, 0, 0⟩, 0⟩
      let f : Flight := { eng := 3, addr := 0, due := 1, evs := [(0, .form 2 0 15)], job := some q }
      let s := onCore { kc with flights := [f] }
      (getCore s 127).flights = [f] ∧ f.eng = 3 ∧ f.job = some q ∧ (getCore s 127).cyc < f.due)) ∧
    (let o := mxO ⟨true, 2, 2⟩ ⟨false, 0, 0⟩ ⟨true, 1, 1⟩ 15 15 0
     let nO := 16 * ceilDiv (outBytes 0 16 true) 128
     mxReady k (.mxcvt 127 h0 o) o ∧ fits [(v k o o.sa 0, 16), (v k o o.so 2, nO)] ∧
     SlotsPass k 3 [mxUse (v k o o.sa 0) .read true 16, mxUse (v k o o.so 2) .write true nO]) := by
  refine ⟨⟨mxReady_of _ _ _ (by decide +kernel) (by decide) (by decide), by decide +kernel, by unfold SlotsPass; decide +kernel⟩,
    ⟨mxReady_of _ _ _ (by decide +kernel) (by decide) (by decide), by decide +kernel, by unfold SlotsPass; decide +kernel, by decide +kernel⟩,
    ⟨mxReady_of _ _ _ (by decide +kernel) (by decide) (by decide), by decide +kernel, by unfold SlotsPass; decide +kernel,
      rfl, rfl, rfl, by decide⟩,
    ⟨mxReady_of _ _ _ (by decide +kernel) (by decide) (by decide), by decide +kernel, by unfold SlotsPass; decide +kernel⟩⟩

theorem vector_all (s : State) (c : Nat) (h : Hdr) (rs : List (BitVec 5)) (l : List Instr)
    (e : l.all (fun i => dispB s c i h rs && (vxRegs i).all (vecFree (getCore s c))) = true)
    (b : (getCore s c).busyVx ≤ (getCore s c).cyc) (t : OffsetReached (getCore s c) h) : ∀ i ∈ l, VectorIssues s c i h rs := by
  intro i hi
  have g := List.all_eq_true.mp e i hi
  rw [Bool.and_eq_true] at g
  exact ⟨dispatches_of s c i h rs g.1, b, g.2, t⟩

/-- A VX payload. -/
def vx (fn : BitVec 4) : VxArgs :=
  { vd := 31, va := 31, vb := 0, vc := 1, sa := 1, sb := 2, sref := ⟨false, 0, 0⟩, row := 0, sr := 0, fmt := 0, fn := fn, imm := 0 }

/-- A timed form due in this cycle. -/
def hT : Hdr := { h0 with timed := true, offset := 5 }

/-- The core at cycle 5 after a MARK. -/
def runT : Core := { run0 with cyc := 5 }

theorem witness_VectorRegisterInstructions :
    (∀ i ∈ ([.vadd 127 hT (vx 0), .vsub 127 hT (vx 0), .vmul 127 hT (vx 0), .vfma 127 hT (vx 0), .vmax 127 hT (vx 0), .vmin 127 hT (vx 0),
      .vcmp 127 hT (vx 3), .vsel 127 hT (vx 0), .vcvt 127 hT (vx 0), .vexp2 127 hT (vx 0), .vrcp 127 hT (vx 0), .vrsq 127 hT (vx 0),
      .vspl 127 hT (vx 1)] : List Instr), VectorIssues (onCore runT) 127 i hT []) ∧
    (∀ i ∈ ([.vspl 127 h0 (vx 0)] : List Instr), VectorIssues (onCore run0) 127 i h0 [1]) ∧
    (∀ i ∈ ([.vrng 127 h0 (vx 0), .vrng 127 h0 (vx 1)] : List Instr), VectorIssues (onCore run0) 127 i h0 [1, 2, 0, 1]) ∧
    (∀ i ∈ ([.vred 127 h0 (vx 0), .vred 127 h0 (vx 1), .vred 127 h0 (vx 2), .vred 127 h0 (vx 3)] : List Instr),
      VectorIssues (onCore run0) 127 i h0 [31]) ∧ bit (vx 1).fn 0 = true ∧ bit (vx 0).fn 0 = false :=
  ⟨vector_all _ _ _ _ _ (by decide +kernel) (by decide +kernel) (fun _ => by decide +kernel),
   vector_all _ _ _ _ _ (by decide +kernel) (by decide +kernel) nofun, vector_all _ _ _ _ _ (by decide +kernel) (by decide +kernel) nofun,
   vector_all _ _ _ _ _ (by decide +kernel) (by decide +kernel) nofun, rfl, rfl⟩

/-- An instruction under way on engine 4, due in cycle 1, with row 0 of slot 2 of the A-pad read. -/
def underWay4 (i : Instr) (evs : List (Nat × FlightEv)) : Flight :=
  { eng := 4, addr := 0, due := 1, evs := evs, job := some ⟨i, 0, ⟨1, 0, 0, 0⟩, 0⟩, got := (List.range 8).map (fun j => (j, List.replicate 256 5)) }

theorem witness_VectorSlotInstructions :
    let k := slots 4
    let s := onCore k
    let o := fun (pad : BitVec 2) (n : BitVec 6) (fn : BitVec 4) => { vx fn with sref := ⟨true, pad, n⟩, sr := 0 }
    let use := fun (p n : Nat) (a : Access) (r m : Nat) => ({ pad := p, slot := n, acc := a, flag := true, r0 := r, n := m } : SlotUse)
    (((∀ i ∈ ([.vld 127 h0 (o 1 2 0)] : List Instr), VectorIssues s 127 i h0 [0]) ∧
      checkUse k 4 (use 1 2 .read 0 (ceilDiv (vecBytes 0 false) 128)) = .ok) ∧
    ((∀ i ∈ ([.vst 127 h0 (o 1 1 0)] : List Instr), VectorIssues s 127 i h0 [0]) ∧
      checkUse k 4 (use 1 1 .write 0 (ceilDiv (vecBytes 0 false) 128)) = .ok) ∧
    ((∀ i ∈ ([.vrot 127 h0 (o 1 2 1)] : List Instr), VectorIssues s 127 i h0 [1, 0]) ∧ checkUse k 4 (use 1 2 .read 0 2) = .ok) ∧
    ((∀ i ∈ ([.vbias 127 h0 (o 1 2 0)] : List Instr), VectorIssues s 127 i h0 [1, 2, 0]) ∧ checkUse k 4 (use 1 2 .read 0 4) = .ok) ∧
    ((∀ i ∈ ([.vmsk 127 h0 { o 1 2 0 with imm := 112 }] : List Instr), VectorIssues s 127 i h0 [0]) ∧
      checkUse k 4 (use 1 2 .read (112 / 128) 1) = .ok) ∧
    (∀ i ∈ ([.vmsk 127 h0 (vx 1)] : List Instr), VectorIssues s 127 i h0 [1, 2]) ∧
    ((∀ i ∈ ([.vsmx 127 h0 (o 2 2 0), .vsmx 127 h0 (o 2 2 1)] : List Instr), VectorIssues s 127 i h0 [2, 0]) ∧
      checkUse k 4 (use 2 2 .update (16 * 64 / 256) 1) = .ok ∧ checkUse k 4 (use 2 2 .update 0 8) = .ok ∧ (vx 0).vd ≠ (vx 0).vb)) ∧
    ((let l : List (Nat × Nat × Nat × Nat) := [(0, 1, 2, rowKey 8 0), (1, 1, 2, rowKey 9 0)]
      let later : List (Nat × FlightEv) := [(1, .form 0 2 0)]
      let f := underWay4 (.vld 127 h0 (o 1 2 0)) (l.map (fun x => (0, .read x.1 0 x.2.1 x.2.2.1 x.2.2.2)) ++ later)
      let y := onCore { k with flights := [f] }
      (getCore y 127).flights = [f] ∧ f.eng ≠ 3 ∧ PadsSound (getCore y 127) ∧ (l.map (·.1)).Nodup ∧ later ≠ [] ∧ (∀ e ∈ later, 0 < e.1) ∧
      ∀ x ∈ l, bit (mapOf (getCore y 127) (portOf f.eng x.2.1)) (x.2.2.2 / 128) = true) ∧
     (∀ i ∈ ([.vld 127 h0 (o 1 2 0), .vrot 127 h0 (o 1 2 1), .vbias 127 h0 (o 1 2 0), .vmsk 127 h0 { o 1 2 0 with imm := 112 },
        .vsmx 127 h0 (o 2 2 0), .vsmx 127 h0 (o 2 2 1)] : List Instr), ∀ kind ∈ [0, 1],
      let f := underWay4 i [(0, .form kind 0 0)]
      (getCore (onCore { k with flights := [f] }) 127).flights = [f] ∧ f.eng = 4 ∧ f.job.map (·.ins) = some i ∧
      (getCore (onCore { k with flights := [f] }) 127).cyc < f.due ∧ ∀ j, j < 8 → (gotRow f 256 0 j).length = 256) ∧
     (let f : Flight := { eng := 0, addr := 0, due := 0, evs := [(0, .form 0 120 0)], job := some ⟨.lds 127 h0 (sq 31 0 0 7 0 false), 0, ⟨0, 0, 0, 0⟩, 0⟩ }
      (getCore (onCore { k with flights := [f] }) 127).flights = [f] ∧ f.eng = 0 ∧ f.job.map (·.ins) = some (.lds 127 h0 (sq 31 0 0 7 0 false)))) :=
  ⟨⟨⟨vector_all _ _ _ _ _ (by decide +kernel) (by decide +kernel) nofun, by decide +kernel⟩,
    ⟨vector_all _ _ _ _ _ (by decide +kernel) (by decide +kernel) nofun, by decide +kernel⟩,
    ⟨vector_all _ _ _ _ _ (by decide +kernel) (by decide +kernel) nofun, by decide +kernel⟩,
    ⟨vector_all _ _ _ _ _ (by decide +kernel) (by decide +kernel) nofun, by decide +kernel⟩,
    ⟨vector_all _ _ _ _ _ (by decide +kernel) (by decide +kernel) nofun, by decide +kernel⟩,
    vector_all _ _ _ _ _ (by decide +kernel) (by decide +kernel) nofun,
    vector_all _ _ _ _ _ (by decide +kernel) (by decide +kernel) nofun, by decide +kernel, by decide +kernel, by decide +kernel⟩,
   ⟨rfl, by decide, ⟨rfl, rfl, rfl⟩, by decide, by decide, by decide, by decide +kernel⟩, by decide +kernel, rfl, rfl, rfl⟩

/-! ## Commands of the rings -/

/-- Whether command 7 of ring 1 can start. -/
def canB (s : State) (r q op : Nat) (c : Cmd) : Bool :=
  decide (findCmd s r q = some c) && decide (opcodeOf c = op) && !c.started && decide (c.wait = .none) && c.ready && !heldByFence s r q &&
  !underReset s .hub && !lateCmd s c

theorem canStart_of (s : State) (r q op : Nat) (c : Cmd) (h : canB s r q op c = true) : CanStart s r q op c := by
  simp only [canB, Bool.and_eq_true, decide_eq_true_eq, Bool.not_eq_true'] at h
  obtain ⟨⟨⟨⟨⟨⟨⟨h1, h2⟩, h3⟩, h4⟩, h5⟩, h6⟩, h7⟩, h8⟩ := h
  exact ⟨h1, h2, h3, h4, h5, h6, h7, h8⟩

/-- Whether a check answers ok. -/
def isOk {ε α : Type} (x : Except ε α) : Bool := match x with | .ok _ => true | .error _ => false

theorem ok_of {ε α : Type} (x : Except ε α) (h : isOk x = true) : ∃ a, x = .ok a := by
  cases x with
  | ok a => exact ⟨a, rfl⟩
  | error e => simp [isOk] at h

/-- Whether a check answers ok with a value. -/
def okB {ε α : Type} [DecidableEq α] (x : Except ε α) (v : α) : Bool := match x with | .ok a => decide (a = v) | .error _ => false

theorem ok_eq {ε α : Type} [DecidableEq α] (x : Except ε α) (v : α) (h : okB x v = true) : x = .ok v := by
  cases x with
  | ok a => simp only [okB, decide_eq_true_eq] at h; rw [h]
  | error e => simp [okB] at h

theorem some_of {α : Type} (x : Option α) (h : x.isSome = true) : ∃ a, x = some a := Option.isSome_iff_exists.mp h

/-- Whether the pages of a FORK have all been shared. -/
def isDone (x : ForkEnd) : Bool := match x with | .done _ => true | _ => false

theorem done_of (x : ForkEnd) (h : isDone x = true) : ∃ u, x = .done u := by
  cases x with
  | done u => exact ⟨u, rfl⟩
  | _ => simp [isDone] at h

/-- Command 7 of ring 1 in partition 2, with a code and its body's fields. -/
def cmdOf (op : Nat) (b : Nat) : Cmd := { ring := 1, seq := 7, desc := BitVec.ofNat 512 (b + op * 2 ^ 120), part := 2 }

/-- A plate set with geometry: one layer and group, pages of 16 positions, one leaf. -/
def geoSet : PlateSet :=
  { setId := 0x1002, part := 2, header := BitVec.ofNat 512 (5 * 2 ^ 352 + 100 * 2 ^ 384), st := .current,
    geo := BitVec.ofNat 128 (8 * 2 ^ 72 + 255 * 2 ^ 64 + 2 ^ 48) }

/-- Handle of session 600, generation 3. -/
def hdl : Nat := 3 * 2 ^ 18 + 600

/-- Partition 2 on tiles 4 and 5, READY, with session 600 open at position 1 and key slot 1 active. -/
def home : State :=
  let s := setPart State.reset 2 { enable := true, st := .ready, tileBase := 4, tiles := 1, keySlot := 1 }
  let s := setSess s 600 { st := .open_, gen := 3, part := 2, plateset := 0x1002, keySlot := 1 }
  setKey { s with psets := [geoSet] } 1 { st := .active, part := 2, pv := true }

/-- `home` with a command. -/
def at_ (c : Cmd) : State := { home with cmds := [c] }

/-- `home` with one page of session 600 mapped: its directory and leaf stand in blocks 0 and 1 of the last near frame of tile 4, the
page in the frame before it. -/
def mapped (c : Cmd) : State :=
  let f := 0x59FFFF
  let s := setFrame (setFrame (at_ c) f { refcnt := 1, kind := 2, st := 1, part := 2 }) (f - 1) { refcnt := 1, kind := 1, st := 1, part := 2 }
  let s := setPart s 2 { getPart s 2 with blkFrames := [(f, 3)] }
  let s := setSess s 600 { getSess s 600 with root := [(0, BitVec.ofNat 32 (f * 64))], pages := 1, position := 1 }
  writeBlk (writeBlk s (f * 64) 0 (natLE 4 (f * 64 + 1))) (f * 64 + 1) 0 (natLE 8 (pteWord ⟨false, 0, f - 1⟩))

theorem witness_SessionsOpenForkAndClose :
    (let c := { cmdOf 0x01 (5 * 2 ^ 448) with pin := some 0x1002 }
     CanStart (at_ c) 1 7 0x01 c ∧ partnerBad c (dfield c 399 384) = false ∧ (∃ i, nextIndex (at_ c) c.part = some i) ∧ c.cls ≠ clsFixed) ∧
    (let c := { cmdOf 0x01 (0xFFFF * 2 ^ 384) with cls := clsFixed, pin := some 0x1002 }
     CanStart (at_ c) 1 7 0x01 c ∧ partnerBad c (dfield c 399 384) = false ∧ (∃ i, nextIndex (at_ c) c.part = some i) ∧ c.cls = clsFixed) ∧
    (let c := cmdOf 0x02 (hdl * 2 ^ 480)
     CanStart (at_ c) 1 7 0x02 c ∧ openHandle (at_ c) c.part (BitVec.ofNat 32 (dfield c 511 480)) = some 600 ∧
     sessionTurn (at_ c) c (BitVec.ofNat 32 (dfield c 511 480)) = true ∧ (at_ c).exps = [] ∧ (getSess (at_ c) 600).gen.toNat < 16383) ∧
    (let c := cmdOf 0x02 ((hdl + 1) * 2 ^ 480)
     CanStart (at_ c) 1 7 0x02 c ∧ openHandle (at_ c) c.part (BitVec.ofNat 32 (dfield c 511 480)) = none) ∧
    (let c := cmdOf 0x05 (hdl * 2 ^ 480 + 2 ^ 448)
     let s := mapped c
     let g := geoOf geoSet.geo
     let child := { newSess s c.part c.cls 0x1002 (BitVec.ofNat 64 (dfield c 447 384)) (dfield c 383 352) with
                    parent := BitVec.ofNat 32 (dfield c 511 480), position := dfield c 479 448 }
     CanStart s 1 7 0x05 c ∧ openHandle s c.part (BitVec.ofNat 32 (dfield c 511 480)) = some 600 ∧ 0 < dfield c 479 448 ∧
     dfield c 479 448 ≤ (getSess s 600).position ∧ findSet s c.part (getSess s 600).plateset = some geoSet ∧ geoSet.st ≠ .broken ∧
     partnerBad c (dfield c 351 336) = false ∧ c.cls ≠ clsFixed ∧ nextIndex s c.part = some 0 ∧ sessGeo s 600 = some g ∧
     (mappedPages s 600 g).length = 1 ∧
     ∃ u, forkPages (openAt (startCmd (reclaim s c.part) 1 7) 0 child) 600 0 g
       (((mappedPages s 600 g).map (·.1)).filter (fun k => decide (k.2.2 < ceilDiv (dfield c 479 448) g.p))) = .done u) :=
  ⟨⟨canStart_of _ _ _ _ _ (by decide +kernel), by decide +kernel, some_of _ (by decide +kernel), by decide +kernel⟩,
   ⟨canStart_of _ _ _ _ _ (by decide +kernel), by decide +kernel, some_of _ (by decide +kernel), by decide +kernel⟩,
   ⟨canStart_of _ _ _ _ _ (by decide +kernel), by decide +kernel, by decide +kernel, by decide +kernel, by decide +kernel⟩,
   ⟨canStart_of _ _ _ _ _ (by decide +kernel), by decide +kernel⟩,
   canStart_of _ _ _ _ _ (by decide +kernel), by decide +kernel, by decide +kernel, by decide +kernel, by decide +kernel, by decide +kernel,
     by decide +kernel, by decide +kernel, by decide +kernel, by decide +kernel, by decide +kernel, done_of _ (by decide +kernel)⟩

theorem room_of (s : State) (n : Nat) (h : decide ((usedFrames s).length + n ≤ 1000000) = true) : Room s n := show _ ≤ _ from of_decide_eq_true h

theorem sound_of (s : State) (h : (decide (s.mem.bad = []) && s.err.armed.isEmpty) = true) : MemorySound s := by
  simp only [Bool.and_eq_true, decide_eq_true_eq, List.isEmpty_iff] at h
  exact ⟨h.1, by simp [h.2]⟩

theorem witness_StepsAreAccepted :
    let g := geoOf geoSet.geo
    let x := getSess (mapped (cmdOf 0x04 0)) 600
    (setGeo geoSet = some g ∧ geoSet.st ≠ .broken ∧ x.quota = 0) ∧
    (let c := cmdOf 0x04 (hdl * 2 ^ 480 + 99 * 2 ^ 448)
     let s := mapped c
     let s1 := reclaim s c.part
     CanStart s 1 7 0x04 c ∧ handleIn c = some (BitVec.ofNat 32 hdl) ∧ openHandle s c.part (BitVec.ofNat 32 hdl) = some 600 ∧
     sessionTurn s c (BitVec.ofNat 32 hdl) = true ∧ jobHeld s c.part = false ∧ findSet s c.part (getSess s 600).plateset = some geoSet ∧
     checkStep s c (getSess s 600) geoSet false = .ok ([99], none) ∧ x.position + 1 ≤ g.nleaf * 128 * g.p ∧
     tablesErrors s1 (getSess s 600) g (pagesFor g x.position 2) = ([], none) ∧ Room s1 (4 * (unmappedPages s1 600 g x.position 2).length)) ∧
    (let c := cmdOf 0x03 (hdl * 2 ^ 480 + 20 * 2 ^ 448)
     let s := mapped c
     let s1 := reclaim s c.part
     CanStart s 1 7 0x03 c ∧ handleIn c = some (BitVec.ofNat 32 hdl) ∧ openHandle s c.part (BitVec.ofNat 32 hdl) = some 600 ∧
     sessionTurn s c (BitVec.ofNat 32 hdl) = true ∧ jobHeld s c.part = false ∧ findSet s c.part (getSess s 600).plateset = some geoSet ∧
     checkStep s c (getSess s 600) geoSet true = .ok (List.replicate 20 0, none) ∧ x.position + 20 ≤ g.nleaf * 128 * g.p ∧
     tablesErrors s1 (getSess s 600) g (pagesFor g x.position 21) = ([], none) ∧
     (unmappedPages s1 600 g x.position 21).length = 1 ∧ Room s1 (4 * 1)) :=
  ⟨by decide +kernel,
   ⟨canStart_of _ _ _ _ _ (by decide +kernel), by decide +kernel, by decide +kernel, by decide +kernel, by decide +kernel, by decide +kernel,
    ok_eq _ _ (by decide +kernel), by decide +kernel, by decide +kernel, room_of _ _ (by decide +kernel)⟩,
   canStart_of _ _ _ _ _ (by decide +kernel), by decide +kernel, by decide +kernel, by decide +kernel, by decide +kernel, by decide +kernel,
    ok_eq _ _ (by decide +kernel), by decide +kernel, by decide +kernel, by decide +kernel, room_of _ _ (by decide +kernel)⟩

/-- `mapped` with the page in a far frame under key slot 1. -/
def mappedFar (c : Cmd) : State :=
  let s := setFrame (mapped c) (farBase + 9) { refcnt := 1, kind := 1, st := 1, part := 2, keySlot := 1 }
  writeBlk s (0x59FFFF * 64 + 1) 0 (natLE 8 (pteWord ⟨false, 0, farBase + 9⟩))

theorem witness_PagesMoveBetweenTiers :
    let g := geoOf geoSet.geo
    let ready := fun (s : State) (op : Nat) (c : Cmd) => CanStart s 1 7 op c ∧
      openHandle s c.part (BitVec.ofNat 32 (dfield c 511 480)) = some 600 ∧ MemorySound s
    let near := fun (s : State) (c : Cmd) => (pagesNamed (reclaim s c.part) c 600 g).filter (fun e => !e.2.host && !isFar e.2.pfn)
    (let c := cmdOf 0x06 (hdl * 2 ^ 480 + 2 ^ 382 + 0xFFFF * 2 ^ 448 + 0xFFFFFFFF * 2 ^ 384)
     let s := mapped c
     ready s 0x06 c ∧ sessGeo s 600 = some g ∧ dfield c 383 382 = 1 ∧ (near s c).length = 1 ∧
     (getKey (reclaim s c.part) (getSess (reclaim s c.part) 600).keySlot.toNat).st = .active ∧ Room (reclaim s c.part) (4 * 1)) ∧
    (let c := cmdOf 0x06 (hdl * 2 ^ 480 + 2 * 2 ^ 382 + 0xFFFF * 2 ^ 448 + 0xFFFFFFFF * 2 ^ 384 + 0x8000 * 2 ^ 256 + 2 ^ 224)
     let s := mapped c
     ready s 0x06 c ∧ sessGeo s 600 = some g ∧ dfield c 383 382 = 2 ∧ (getSess s 600).hostImage = 0 ∧ (getRing s 1).mute = false ∧
     (getSess s 600).hostUsed.length + 1 ≤ dfield c 255 224 ∧ (near s c).length = 1 ∧
     (getKey (reclaim s c.part) (getSess (reclaim s c.part) 600).keySlot.toNat).st = .active ∧ Room (reclaim s c.part) (4 * 1)) ∧
    (let c := cmdOf 0x07 (hdl * 2 ^ 480 + 0xFFFF * 2 ^ 448 + 0xFFFFFFFF * 2 ^ 384)
     let s := mappedFar c
     let s1 := reclaim s c.part
     let todo := (pagesNamed s1 c 600 g).filter (fun e => e.2.host || isFar e.2.pfn)
     ready s 0x07 c ∧ sessGeo s 600 = some g ∧ todo.length = 1 ∧ Room s1 (4 * 1) ∧ ∀ e ∈ todo, Recallable s1 600 e.1 e.2) ∧
    (∀ c ∈ [cmdOf 0x06 (hdl * 2 ^ 480 + 2 ^ 382), cmdOf 0x07 (hdl * 2 ^ 480)],
      let s := { at_ c with psets := [] }
      canB s 1 7 (opcodeOf c) c = true ∧ openHandle s c.part (BitVec.ofNat 32 (dfield c 511 480)) = some 600 ∧ sessGeo s 600 = none ∧
      (opcodeOf c = 0x06 → dfield c 383 382 = 1)) := by
  refine ⟨⟨⟨canStart_of _ _ _ _ _ (by decide +kernel), by decide +kernel, sound_of _ (by decide +kernel)⟩, by decide +kernel, by decide +kernel,
      by decide +kernel, by decide +kernel, room_of _ _ (by decide +kernel)⟩,
    ⟨⟨canStart_of _ _ _ _ _ (by decide +kernel), by decide +kernel, sound_of _ (by decide +kernel)⟩, by decide +kernel, by decide +kernel,
      by decide +kernel, by decide +kernel, by decide +kernel, by decide +kernel, by decide +kernel, room_of _ _ (by decide +kernel)⟩,
    ⟨⟨canStart_of _ _ _ _ _ (by decide +kernel), by decide +kernel, sound_of _ (by decide +kernel)⟩, by decide +kernel, by decide +kernel,
      room_of _ _ (by decide +kernel), ?_⟩, by decide +kernel⟩
  intro e he
  have a : ∀ e ∈ (pagesNamed (reclaim (mappedFar (cmdOf 0x07 (hdl * 2 ^ 480 + 0xFFFF * 2 ^ 448 + 0xFFFFFFFF * 2 ^ 384))) 2)
      (cmdOf 0x07 (hdl * 2 ^ 480 + 0xFFFF * 2 ^ 448 + 0xFFFFFFFF * 2 ^ 384)) 600 (geoOf geoSet.geo)).filter (fun e => e.2.host || isFar e.2.pfn),
      e.2.host = false ∧ (getKey (reclaim (mappedFar (cmdOf 0x07 (hdl * 2 ^ 480 + 0xFFFF * 2 ^ 448 + 0xFFFFFFFF * 2 ^ 384))) 2)
        (getFrame (reclaim (mappedFar (cmdOf 0x07 (hdl * 2 ^ 480 + 0xFFFF * 2 ^ 448 + 0xFFFFFFFF * 2 ^ 384))) 2) e.2.pfn).keySlot.toNat).st = .active := by
    decide +kernel
  unfold Recallable
  rw [if_neg (by rw [(a e he).1]; decide)]
  exact fun _ => (a e he).2

/-- A READY set 5 of generation 1 without geometry. -/
def plainSet : PlateSet := { setId := 0x1005, part := 2, header := BitVec.ofNat 512 (0x1005 * 2 ^ 496 + 2 ^ 476 + 2 ^ 416), st := .ready }

/-- A command with one plate set in its partition. -/
def withSet (c : Cmd) (x : PlateSet) : State := { at_ c with psets := [x] }

/-- The manifest header and the one plate entry of set 5 at address 1000H of host memory. -/
def manifest (s : State) : State :=
  hostWrite s 0x1000 (natLE 64 (plainSet.header.toNat) ++ natLE 64 (7 * 2 ^ 256 + 100 * 2 ^ 192))

theorem witness_PlateSetCommandsAct :
    let id : W16 := 0x1005
    let found := fun (s : State) (x : PlateSet) => findSet s 2 id = some x ∧ (∀ z ∈ s.psets, z.part = 2 → z.setId = id → z = x)
    (let c := cmdOf 0x11 (0x1005 * 2 ^ 496)
     let s := withSet c plainSet
     CanStart s 1 7 0x11 c ∧ found s plainSet ∧ plainSet.st = .ready ∧ reloading s 2 id = false ∧ (∃ y, (checkSet s plainSet).out = .ok y) ∧
       (checkSet s plainSet).ces = []) ∧
    (let c := cmdOf 0x11 (0x1005 * 2 ^ 496)
     let s := withSet c { plainSet with st := .current }
     CanStart s 1 7 0x11 c ∧ found s { plainSet with st := .current } ∧ s.cmds = [c]) ∧
    (let c := cmdOf 0x12 (0x1005 * 2 ^ 496)
     (CanStart (withSet c plainSet) 1 7 0x12 c ∧ found (withSet c plainSet) plainSet ∧ (withSet c plainSet).cmds = [c] ∧ plainSet.st = .ready) ∧
     (let x := { plainSet with st := .current }
      CanStart (withSet c x) 1 7 0x12 c ∧ found (withSet c x) x ∧ (withSet c x).cmds = [c]) ∧
     CanStart (at_ c) 1 7 0x12 c ∧ findSet (at_ c) 2 id = none) ∧
    (let c := cmdOf 0x10 (0x1005 * 2 ^ 496 + 0x1000 * 2 ^ 384 + 2 ^ 382 + 0x4000 * 2 ^ 320)
     let h := plainSet.header
     (∀ s ∈ [manifest (withSet c plainSet), manifest (at_ c)],
      canB s 1 7 0x10 c = true ∧ (hostRead s 0x1000 64).map (fun b => BitVec.ofNat 512 (leNat b)) = some h ∧ dfield c 447 384 = 0x1000 ∧
      dfield c 495 476 + dfield c 475 456 < bits h 495 476 ∧
      (∀ i ∈ loadRange c, (hostRead s (dfield c 447 384 + 64 + 64 * i) 64).any (fun w => !entryBad h (BitVec.ofNat 512 (leNat w))) = true)) ∧
     found (manifest (withSet c plainSet)) plainSet ∧ findSet (manifest (at_ c)) 2 id = none ∧ headerBad h id.toNat = false ∧
     (loadSources c).any (fun w => bits w 63 62 != 0) = true ∧ (manifest (at_ c)).cmds = [c]) :=
  ⟨⟨canStart_of _ _ _ _ _ (by decide +kernel), by decide +kernel, by decide +kernel, by decide +kernel, ok_of _ (by decide +kernel),
     by decide +kernel⟩,
   ⟨canStart_of _ _ _ _ _ (by decide +kernel), by decide +kernel, by decide +kernel⟩,
   ⟨⟨canStart_of _ _ _ _ _ (by decide +kernel), by decide +kernel, by decide +kernel, by decide +kernel⟩,
    ⟨canStart_of _ _ _ _ _ (by decide +kernel), by decide +kernel, by decide +kernel⟩,
    canStart_of _ _ _ _ _ (by decide +kernel), by decide +kernel⟩,
   by decide +kernel⟩

/-- A launch block of an image of two words at near working byte 0, a handle, cores 0 and 1, and a word of s1. -/
def launchBlock (h : Nat) : List Byte := List.replicate 8 0 ++ [2, 0, 0, 0] ++ natLE 4 h ++ [3] ++ List.replicate 15 0 ++ [5] ++ List.replicate 223 0

/-- Partition 2 with one near working page that holds NOP and END, and a command. -/
def withImage (c : Cmd) : State :=
  let s := setPart (setKey (at_ c) 1 (getKey home 1)) 2 { getPart home 2 with nearPages := [0x59FFFE], workNear := 1 }
  writeFrame { s with psets := [plainSet] } 0x59FFFE 0 (List.replicate 31 0 ++ [1])

theorem witness_KernelRunStartsItsCores :
    ∀ b ∈ [(0, none), (hdl, some 600)],
      let c := { cmdOf 0x20 0 with launchBlk := launchBlock b.1, pin := some 0x1005 }
      let s := withImage c
      let m := readKernel s c
      canB s 1 7 0x20 c = true ∧ kernelReady s c = true ∧ jobHeld s c.part = false ∧
      (handleIn c = none ∧ b.2 = none ∨ handleIn c = some (BitVec.ofNat 32 b.1) ∧ openHandle s c.part (BitVec.ofNat 32 b.1) = b.2 ∧ b.2.isSome ∧
        sessionTurn s c (BitVec.ofNat 32 b.1) = true) ∧
      (findSet s c.part c.set).any (fun x => x.st != .broken) = true ∧ blockBad c = none ∧ coresBad s c = false ∧ stageBad s c = false ∧
      m.err = none ∧ m.ue = none ∧ m.ces = [] ∧ imageBad (imageWords m.bytes) = none ∧ m.bytes.length = 32 ∧
      readShapes s c (kernelArgs c) = .ok [(1, 5)] [] ∧ kernelCores s c = [64, 65] := by
  decide +kernel

/-- `mapped` with a step of the command in the gather window. -/
def gathering : State :=
  { mapped (cmdOf 0x04 (hdl * 2 ^ 480)) with
    steps := [{ ring := 1, seq := 7, part := 2, sess := some 600, tokens := [99], npages := 2 }] }

theorem witness_LaunchesFormAndEnd :
    (gatherDue gathering 2 = true ∧ gathering.launches = [] ∧ windowLaunches gathering 2 = [[(1, 7)]]) ∧
    (let c := { cmdOf 0x20 0 with launchBlk := launchBlock 0, started := true }
     let l : Launch := { id := 4, part := 2, cores := [64, 65], steps := [(1, 7)], kernel := true, started := true, ended := [64, 65], maxCyc := 90 }
     let st : StepRec := { ring := 1, seq := 7, part := 2, sess := none, kernel := true, phase := .launched }
     let s := { at_ c with launches := [l], steps := [st] }
     l.stage = .run ∧ l.failed = none ∧ l.job = none ∧ launchSettled s l = true ∧ c.ring = 1 ∧ c.seq = 7 ∧ c.cls ≠ clsFixed ∧
     lateCmd s c = false ∧ blkField c 0x0A 2 % 2 = 0 ∧ st.armed = false ∧ st.adopted = false ∧ s.err.armed = [] ∧ s.sep.batches = [] ∧
     s.sep.dest = []) := by
  decide +kernel

/-- An exposure of session 600 to host memory at 8000H. -/
def exposing : Exposure := { id := 3, ring := 1, seq := 7, part := 2, sess := some 600, kind := 1, target := .host 0x8000, chan := 0x2004 }

/-- EXPOSE of session 600 to host memory, with room for four records. -/
def exposeCmd : Cmd := { cmdOf 0x30 (hdl * 2 ^ 480 + 2 * 2 ^ 478 + 0x8000 * 2 ^ 384 + 4 * 2 ^ 352) with started := true }

/-- What the clauses of an exposure under way ask of its command. -/
def expB (s : State) (e : Exposure) (c : Cmd) : Bool :=
  decide (s.exps.find? (fun x => x.id == e.id) = some e) && decide (findCmd s e.ring e.seq = some c) && !lateCmd s c &&
  match e.target with | .peer _ => false | _ => true

theorem witness_ExposuresRun :
    (let c := cmdOf 0x30 (hdl * 2 ^ 480 + 2 * 2 ^ 478 + 0x8000 * 2 ^ 384 + 4 * 2 ^ 352)
     canB (at_ c) 1 7 0x30 c = true ∧ dfield c 511 480 ≠ 0 ∧ openHandle (at_ c) c.part (BitVec.ofNat 32 (dfield c 511 480)) = some 600 ∧
     farRoom (at_ c) c = true ∧ expFull (at_ c) 600 = false ∧ (at_ c).exps = []) ∧
    (let c := cmdOf 0x30 (2 * 2 ^ 478 + 0x8000 * 2 ^ 384 + 4 * 2 ^ 352 + 2 ^ 256)
     let s := withImage c
     canB s 1 7 0x30 c = true ∧ dfield c 511 480 = 0 ∧ (stateRange s c).isSome = true ∧ farRoom s c = true ∧ s.exps = []) ∧
    (let c := cmdOf 0x32 (hdl * 2 ^ 480 + 2 ^ 448)
     canB (at_ c) 1 7 0x32 c = true ∧ openHandle (at_ c) c.part (BitVec.ofNat 32 (dfield c 511 480)) = some 600 ∧
     sessionTurn (at_ c) c (BitVec.ofNat 32 (dfield c 511 480)) = true) ∧
    (let s := { mapped exposeCmd with exps := [exposing] }
     let s1 := reclaim s 2
     expB s exposing exposeCmd = true ∧ expReady s exposing = true ∧ sessGeo s1 600 = some (geoOf geoSet.geo) ∧
     (∀ m ∈ mappedPages s1 600 (geoOf geoSet.geo), m.2.host = false) ∧ (expPages s1 exposing).length = 1 ∧ 1 ≤ dfield exposeCmd 383 352 ∧
     s.mem.bad = [] ∧ s.err.armed = [] ∧ (usedFrames s1).length + 2 ≤ 1000000) ∧
    (∀ rest ∈ [[], [(0x59FFFF, 0, 1)]],
      let e := { exposing with taken := true, pages := (0x59FFFE, 0, 0) :: rest }
      let s := { mapped exposeCmd with exps := [e] }
      expB s e exposeCmd = true ∧ e.pairing = false ∧ (getKey s (expSlot s e)).st = .active ∧ isFar 0x59FFFE = false ∧
      pageErrors s 0x59FFFE 0 = ([], none) ∧ e.kind ≠ 0x03) ∧
    (let e := { exposing with taken := true }
     let s := { at_ exposeCmd with exps := [e] }
     expB s e exposeCmd = true ∧ e.pairing = false ∧ e.pages = [] ∧ e.kind ≠ 0x03) := by
  decide +kernel

/-- The record of a page 0 that holds no block. Its digest and the digests of the headers over it are written out here; `verifiedB` recomputes
them. -/
def blankRec : PageRec :=
  { digest := 0x211463822247f059a728ea66aaa3e1a7e9310c1e4e036b458e343ac887d5c6fd, bitmap := 0, id := 0, kind := 1, enc := false, sumv := false, summary := [], payload := [] }

/-- The header of an image of a kind with that one record, for the set of `geoSet`. -/
def imageHeader (kind : Nat) : W1024 :=
  let final := if kind = 1 then 0x067706b60a13ba1a17535de7d719595bd7702e24e98a183b925dba47c593004d
    else 0xc83fcf3993bcf4ce353a56bc1c318fa2e1b51334c3c90bfdbd2f6f10a00d7a1e
  BitVec.ofNat 1024 (final * 2 ^ 768 + 0x1002 * 2 ^ 544 + kind * 2 ^ 472 + 2 ^ 480 + hdl * 2 ^ 720)

/-- The image at 10000H of host memory. -/
def imaged (s : State) (kind : Nat) : State :=
  hostWrite (hostWrite s 0x10000 (natLE 128 (imageHeader kind).toNat)) 0x11000 (recHeader blankRec)

/-- Whether the image a command names reads, verifies and is the one of a kind. -/
def verifiedB (s : State) (c : Cmd) (kind : Nat) : Bool :=
  (imageCes s c).isEmpty && match imageOf s c with
  | .ok (h, rs) => decide (h = imageHeader kind) && decide (rs = [blankRec]) && isOk (checkImage s c h rs)
  | .error _ => false

theorem witness_ImagesAreRestored :
    (∀ op ∈ [0x31, 0x33],
      let c := cmdOf op (2 * 2 ^ 510 + 0x10000 * 2 ^ 384)
      let s := imaged (at_ c) 1
      let h := imageHeader 1
      canB s 1 7 op c = true ∧ verifiedB s c 1 = true ∧ bits h 479 472 ≠ 2 ∧ partnerBad c (dfield c 383 368) = false ∧ c.cls ≠ clsFixed ∧
      findSet s c.part (BitVec.ofNat 16 (bits h 559 544)) = some geoSet ∧ geoSet.st ≠ .broken ∧ nextIndex s c.part = some 0 ∧
      setGeo geoSet = some (geoOf geoSet.geo) ∧ pteIn (geoOf geoSet.geo) 0 0 0 = true ∧ (usedFrames (reclaim s c.part)).length + 4 ≤ 1000000) ∧
    (let c := cmdOf 0x31 (2 * 2 ^ 510 + 0x10000 * 2 ^ 384)
     let s := imaged (withImage c) 2
     canB s 1 7 0x31 c = true ∧ verifiedB s c 2 = true ∧ bits (imageHeader 2) 479 472 = 2 ∧ stateTargets s c [blankRec] = some [0] ∧
     (usedFrames (reclaim s c.part)).length + 1 ≤ 1000000) ∧
    (let m : PeerImage := ⟨5, 0x2004, 1, imageHeader 1, [], true, 0, [0x59FFFE]⟩
     let s := { setPart home 7 { getPart home 7 with images := [m] } with time := { home.time with ftime := 63000000000 } }
     (getPart s 7).images[0]? = some m ∧ m.final = true ∧ m.at_ + 63000000000 ≤ s.time.ftime) :=
  ⟨List.forall_mem_cons.mpr ⟨by decide +kernel, List.forall_mem_cons.mpr ⟨by decide +kernel, by decide +kernel⟩⟩, by decide +kernel,
    by decide +kernel⟩

/-! ## Control commands, rings and doorbells -/

/-- `home` with the hub running, at the service point, ring 1 a RUNNING Open ring of PF0 in partition 2, its page owned by PF0. -/
def up : State :=
  let s := setRing home 1 { enable := true, st := .running, part := 2, log2size := 4, vector := 3, jKey := some (2, 0, 0) }
  { s with dev := { s.dev with stage := 4 }, pins := { s.pins with pwrGood := true, pwrEn := true, stage := .on, perstN := true, pllLock := true },
           hif := { s.hif with cfgReady := true, rate := 5, width := 16, dbOwner := [(0, (true, 0))] }, mgc := { s.mgc with booted := true } }

/-- `up` with commands. -/
def upAt (cs : List Cmd) : State := { up with cmds := cs }

theorem witness_OrderingAndStoppingCommandsAct :
    (let c := cmdOf 0x40 0
     canB (at_ c) 1 7 0x40 c = true ∧ (∀ x ∈ earlier (at_ c) 1 7, x.ring ≠ 1)) ∧
    (let c := cmdOf 0x42 (2000000 * 2 ^ 480)
     canB (at_ c) 1 7 0x42 c = true) ∧
    (let c := cmdOf 0x44 (0x9000 * 2 ^ 448 + 2 ^ 384 + 3 * 2 ^ 368 + 2 ^ 353)
     canB (upAt [c]) 1 7 0x44 c = true ∧ ownsRing (upAt [c]) c 1 = true ∧ dfield c 367 353 = 1 ∧ (getRing (upAt [c]) 1).mute = false ∧
     (getRing (upAt [c]) 1).cqBase.toNat + 32 * ((getRing (upAt [c]) 1).written % ringSize (getRing (upAt [c]) 1)) + 32 ≤ dfield c 511 448) ∧
    (let c := cmdOf 0x41 (3 * 2 ^ 448 + 2 ^ 421)
     canB (at_ c) 1 7 0x41 c = true ∧ ownsRing (at_ c) c 1 = true ∧ dfield c 435 421 = 1 ∧
     (∀ y ∈ (at_ c).cmds, y.ring ≠ 1 ∨ inRange c y.seq = false) ∧ (at_ c).launches = []) ∧
    (let c := cmdOf 0x41 (3 * 2 ^ 448 + 2 ^ 421)
     let x := { cmdOf 0x01 0 with seq := 3 }
     let s := { home with cmds := [x, c] }
     canB s 1 7 0x41 c = true ∧ ownsRing s c 1 = true ∧ (x.ring, x.seq) ≠ (1, 7) ∧ x.ring = 1 ∧ inRange c x.seq = true ∧
     inRange c 7 = false ∧ x.started = false ∧ s.launches = [] ∧ s.steps = []) ∧
    (let c := cmdOf 0x43 (3 * 2 ^ 510)
     canB (at_ c) 1 7 0x43 c = true ∧ dfield c 511 510 = 3) ∧
    (let c := cmdOf 0x43 0
     canB (at_ c) 1 7 0x43 c = true ∧ dfield c 511 510 ≠ 3 ∧ c.adopted = none ∧ (at_ c).cmds = [c] ∧ (at_ c).launches = [] ∧
     (at_ c).sess ≠ [] ∧ (∀ e ∈ (at_ c).sess, leaving c.part e.2 = false)) := by
  decide +kernel

/-- `up` with one descriptor of a FENCE in ring 1's queue at 0 of host memory. -/
def fetching : State :=
  hostWrite (setRing up 1 { getRing up 1 with sqTail := 1 }) 0 (List.replicate 15 0 ++ [0x40] ++ List.replicate 48 0)

theorem witness_CommandsAreAcceptedInTurn :
    (let s := fetching
     let x := getRing s 1
     let d : W512 := BitVec.ofNat 512 (0x40 * 2 ^ 120)
     x.adoptQ = [] ∧ fetchReady s 1 = true ∧
     (hostRead s (x.sqBase.toNat + 64 * (x.fetched % ringSize x)) 64).map (fun b => BitVec.ofNat 512 (leNat b)) = some d ∧
     findCmd s 1 (nextSeq x) = none ∧ x.cls = clsOpen ∧ descBad x.cls d = none ∧ bit d 118 = false ∧
     refusesWork s x.part.toNat = false ∧ (getPart s x.part.toNat).st ≠ .fault ∧ bits d 127 120 ≠ 0x01 ∧ bits d 127 120 ≠ 0x20) ∧
    (let s := { fetching with hif := { fetching.hif with hostBad := [⟨32, 33⟩] } }
     let x := getRing s 1
     x.adoptQ = [] ∧ fetchReady s 1 = true ∧ hostRead s (x.sqBase.toNat + 64 * (x.fetched % ringSize x)) 64 = none) ∧
    (∀ e ∈ [(JState.completed, FenceState.go), (JState.failed, FenceState.cancel)],
      let c := { cmdOf 0x40 0 with wait := .fence 1 3 }
      let x : Ring := { getRing up 1 with fetched := 8, journal := [(3, { seq := 3, st := e.1 })] }
      let s := { setRing up 1 x with cmds := [c] }
      findCmd s 1 7 = some c ∧ fenceState s 1 3 = e.2 ∧ c.pinWait = false ∧ opcodeOf c ≠ 0x11) ∧
    (let c := { cmdOf 0x11 0 with wait := .fence 1 3 }
     let s := { setRing up 1 { getRing up 1 with fetched := 8, journal := [(3, { seq := 3, st := .failed })] } with cmds := [c] }
     findCmd s 1 7 = some c ∧ fenceState s 1 3 = .cancel ∧ s.cmds = [c]) ∧
    (let c := { cmdOf 0x04 (hdl * 2 ^ 480) with ready := false }
     findCmd (upAt [c]) 1 7 = some c ∧ c.ready = false ∧ handleIn c = some (BitVec.ofNat 32 hdl) ∧ c.wait = .none ∧
     sessionTurn (upAt [c]) c (BitVec.ofNat 32 hdl) = true) := by
  decide +kernel

theorem witness_StepsEndByTheirClass :
    (let c := { cmdOf 0x04 (hdl * 2 ^ 480) with cls := clsFixed, started := true }
     let st : StepRec := { ring := 1, seq := 7, part := 2, sess := some 600, phase := .exposing }
     let s := { upAt [c] with steps := [st] }
     findCmd s 1 7 = some c ∧ findStep s 1 7 = some st ∧ lateCmd s c = false ∧ st.sess = some 600 ∧ releasable s st = true ∧ st.kernel = false) ∧
    (let c := { cmdOf 0x04 (hdl * 2 ^ 480 + 2100) with cls := clsTimed, timed := true, started := true }
     let s := upAt [c]
     findCmd s 1 7 = some c ∧ dfield c 63 0 ≤ s.time.ftime + 2100 ∧ s.launches = []) := by
  decide +kernel

/-- A set-up entry of ring 2: enabled, Open, partition 2, function 0, 16 entries, no journal field, message 3. -/
def ringTop : W64 := BitVec.ofNat 64 (2 ^ 63 + 2 * 2 ^ 55 + 4 * 2 ^ 44 + 3 * 2 ^ 29)

/-- An entry of MSI-X. -/
def pending : State :=
  let x : Ring := { getRing up 1 with ien := true, ctime := 5, pendCnt := 2, pendAt := 0 }
  { setRing up 1 x with time := { up.time with ftime := 5250 } }

theorem witness_RingsStartStopAndSignal :
    (let s := setRing up 2 { jKey := some (2, 0, 0) }
     let n := committed s .pf0 (0x100000 + 32 * 2) 256 0 true ringTop
     barUp s = true ∧ (getRing s 2).st = .off ∧ nbits n 255 255 = 1 ∧ ringBad s (ringFields (getRing s 2) n) 2 = none ∧
     keepsJournal (ringFields (getRing s 2) n) = true) ∧
    (let s := up
     let n := committed s .pf0 (0x100000 + 32 * 2) 256 0 true (ringTop + 3 * 2 ^ 58)
     (getRing s 2).st = .off ∧ nbits n 255 255 = 1 ∧ ringBad s (ringFields (getRing s 2) n) 2 = some (0x0012, 251)) ∧
    (let n := committed up .mgc (0x100000 + 32) 256 0 false 0
     (getRing up 1).st = .running ∧ nbits n 255 255 = 0 ∧ (getRing (setRing up 1 { getRing up 1 with st := .broken }) 1).st = .broken) ∧
    (let s := { pending with hif := { pending.hif with msix := [(3, { mask := false })] } }
     timerDue s (getRing s 1) = true ∧ (tget ({} : MsixEntry) s.hif.msix (msixKey 0 3)).mask = false) ∧
    (timerDue pending (getRing pending 1) = true ∧ (tget ({} : MsixEntry) pending.hif.msix (msixKey 0 3)).mask = true) ∧
    (31 < msixSize up 0 ∧ (31 : Nat) ∉ up.hif.pba) ∧
    (let s := { up with hif := { up.hif with pba := [31] } }
     31 < msixSize s 0 ∧ msixKey 0 31 ∈ s.hif.pba) := by
  decide +kernel

theorem witness_DoorbellsKeepTheCountsConsistent :
    let s := setRing up 1 { getRing up 1 with fetched := 5, written := 3 }
    let x := getRing s 1
    let ahead := fun (v : W32) => (v.toNat + 2 ^ 32 - x.fetched % 2 ^ 32) % 2 ^ 32
    let behind := fun (v : W32) => (x.written % 2 ^ 32 + 2 ^ 32 - v.toNat) % 2 ^ 32
    doorbellOk s 0 1 = true ∧ ahead 21 = 2 ^ x.log2size.toNat ∧ ahead 22 = 2 ^ x.log2size.toNat + 1 ∧ ahead 4 = 2 ^ 32 - 1 ∧
    behind 0xFFFFFFF3 = 2 ^ x.log2size.toNat ∧ behind 0xFFFFFFF2 = 2 ^ x.log2size.toNat + 1 ∧ behind 4 = 2 ^ 32 - 1 := by
  decide +kernel

/-! ## Partitions, registers, management -/

/-- `up` without partitions, rings and sessions. -/
def bare : State := { up with parts := [], rings := [], sess := [] }

/-- ENABLE 1 with tile 4, two tiles, key slot 1. -/
def partTop : W64 := BitVec.ofNat 64 (2 ^ 63 + 4 * 2 ^ 52 + 2 ^ 50 + 2 ^ 44)

theorem witness_PartitionsAreSetUpAndTornDown :
    (let s := bare
     let n := committed s .pf0 (0x400 + 16 * 7) 128 0 true partTop
     let y : Part := { partFields (getPart s 7) n with enable := true, st := .settingUp, fromReady := false }
     barUp s = true ∧ (getPart s 7).st = .off ∧ nbits n 127 127 = 1 ∧ setupBad (setPart s 7 y) 7 = none) ∧
    (let s := bare
     let n := committed s .mgc (0x400 + 16 * 7) 128 0 true (partTop + 3 * 2 ^ 52)
     let y : Part := { partFields (getPart s 7) n with enable := true, st := .settingUp, fromReady := false }
     (getPart s 7).st = .off ∧ nbits n 127 127 = 1 ∧ setupBad (setPart s 7 y) 7 = some 118) ∧
    (getPart (setPart bare 2 { st := .settingUp }) 2).st = .settingUp ∧
    (let s := { up with rings := [] }
     let n := committed s .pf0 (0x400 + 16 * 2) 128 0 true 0
     barUp s = true ∧ (getPart s 2).st = .ready ∧ nbits n 127 127 = 0 ∧ ringsBusy s 2 = false ∧ (∀ e ∈ s.exps, e.part ≠ 2)) ∧
    (let n := committed up .pf0 (0x400 + 16 * 2) 128 0 true 0
     (getPart up 2).st = .ready ∧ nbits n 127 127 = 0 ∧ ringsBusy up 2 = true) ∧
    (getPart (setPart up 2 { st := .tearing }) 2).st = .tearing := by
  decide +kernel

theorem witness_RegistersStoreTheirValues :
    (barUp bare = true ∧ ∀ n, n < 8 → (getPart bare n).st = .off) ∧ (barUp up = true ∧ (getPart up 2).st ≠ .off) ∧
    (let s := setPart up 2 { getPart up 2 with tol := 900000, pstate := 2 }
     barUp s = true ∧ Nat.min (bits (5 : W64) 19 0) 1000000 < (getPart s 2).tol ∧ 2 ≤ (getPart s 2).pstate) ∧
    barUp State.reset = false := by
  decide +kernel

theorem witness_JobsAndKeysAreWritten :
    (let n := committed up .pf0 (0x321000 + 16 * 63) 128 (jobWord {}) true (BitVec.ofNat 64 (2 ^ 63))
     barUp up = true ∧ (getJob up 63).st = .idle ∧ nbits n 127 127 = 1 ∧ up.time.everLock = false) ∧
    (let s := setJob up 3 { st := .active, valid := true, part := 2 }
     let n := committed s .mgc (0x321000 + 16 * 3) 128 (jobWord {}) false 0
     (getJob s 3).st = .active ∧ nbits n 127 127 = 0) ∧
    (let u : W32 := BitVec.ofNat 32 (2 ^ 31 + 1)
     bit u 31 = true ∧ (getKey up (bits u 5 0)).st = .active) := by
  decide +kernel

theorem witness_ErrorRegistersAct :
    (let s := { up with err := { up.err with qSel := 8, queues := [(8, { prod := 300, cons := 44 })] } }
     let q := tget ({} : ErrQueue) s.err.queues 8
     barUp s = true ∧ s.err.qSel.toNat = 8 ∧ (q.prod % 2 ^ 32 + 2 ^ 32 - (44 : W32).toNat) % 2 ^ 32 = 256 ∧ 256 ≤ q.prod ∧
     (q.prod % 2 ^ 32 + 2 ^ 32 - (43 : W32).toNat) % 2 ^ 32 = 257) ∧
    (up.dev.isolate = false ∧ ∀ k ∈ [1, 2, 3, 4, 5, 6], bits (BitVec.ofNat 64 (k * 2 ^ 60)) 63 60 = k) ∧
    (let s := { up with dev := { up.dev with isolate := true } }
     barUp s = true ∧ s.dev.isolate = true) := by
  decide +kernel

/-- `up` with MGC_ARG naming the hub. -/
def mailed : State := { up with mgc := { up.mgc with arg := BitVec.ofNat 64 (2 ^ 32 + 5), hubRun := some false } }

theorem argComp_arg (s t : State) (h : s.mgc.arg = t.mgc.arg) : argComp s = argComp t := by simp only [argComp, h]

theorem witness_MailboxCommandsAct :
    (mailboxOpen mailed .pf0 = true ∧ argComp mailed = some .hub ∧ mailed.mgc.lock = none ∧ mailed.dev.stage ≠ 15 ∧
     mailed.mgc.recovery = false ∧ mailed.dev.isolate = false ∧ underReset mailed .device = false) ∧
    (let s := { mailed with mgc := { mailed.mgc with lock := some .pldm } }
     mailboxOpen s .pf0 = true ∧ argComp s = some .hub ∧ ¬ (s.mgc.lock = none ∨ s.mgc.lock = some .mailbox)) ∧
    (∀ m, runningImage { mailed with mgc := { mailed.mgc with hubA := some m } } .hub = some m) ∧
    (let s := { mailed with dev := { mailed.dev with isolate := true } }
     mailboxOpen s .pf0 = true ∧ argComp s = some .hub ∧ s.dev.isolate = true) ∧
    (∀ m, imageOk mailed .hub m = true →
      let s := { mailed with dev := { mailed.dev with stage := 15 }, mgc := { mailed.mgc with hubB := some m } }
      let unlocked : State := { s with mgc := { s.mgc with lock := none } }
      mailboxOpen s .pf0 = true ∧ argComp s = some .hub ∧ s.mgc.lock = none ∧ s.dev.stage = 15 ∧ underReset s .device = false ∧
      s.mgc.recovery = false ∧ slotOk (settleStaged unlocked .hub) .hub (targetSlot s .hub) = true) :=
  ⟨by decide +kernel, by decide +kernel, fun _ => rfl, by decide +kernel, fun _ h =>
    ⟨rfl, by refine (argComp_arg _ mailed ?_).trans (by decide +kernel); rfl, rfl, rfl, rfl, rfl, h⟩⟩

/-- `up` with a role of every rank enrolled. -/
def managed : State :=
  { up with mgc := { up.mgc with anchors := [(.administrator, []), (.operator, []), (.readOnly, [])] } }

theorem witness_ManagersActByTheirRole :
    (mgcUp managed = true ∧ mayRole managed .operator (reqRank .moduleReset) = false) ∧
    (barUp managed = true ∧ mayRole managed .operator 2 = true ∧ mayRole managed .administrator 3 = true) ∧
    (let s := { managed with pins := { managed.pins with perstN := false } }
     mgcUp s = true ∧ mayRole s .administrator 3 = true ∧ s.pins.perstN = false ∧ s.dev.isolate = false) ∧
    (managed.pins.perstN = true ∧ managed.pins.pwrGood = true ∧ managed.mgc.booted = true ∧ managed.mgc.lock = none) ∧
    (let s := { managed with mgc := { managed.mgc with booted := false, recovery := true } }
     s.pins.pwrGood = true ∧ s.mgc.recovery = true ∧ s.mgc.lock = none) := by
  decide +kernel

/-- `up` with the hub's image running, VFs enabled, and a secure session 1 of function 0 and of the VF 2, which is bound to
partition 2; function 0 and VF 2 have negotiated. -/
def attested : State :=
  { up with hif := { up.hif with vfEnable := true, funcPart := [(2, (true, 2))] }, mgc := { up.mgc with hubRun := some false },
            sec := { up.sec with negotiated := [.doe 0, .doe 2], versioned := [.doe 0, .doe 2],
                                 sess := [⟨.doe 0, 1, true⟩, ⟨.doe 2, 1, true⟩] } }

theorem witness_SpdmRequestsAreAnswered :
    (∀ p ∈ [SpdmPort.doe 0, .doe 2], spdmOpen attested p = true ∧ p ∈ attested.sec.versioned ∧ p ∈ attested.sec.negotiated ∧
      (sessionsOf attested p).length < 8 ∧ (sessOn attested p 1).isSome = true ∧ secure attested p 1 = true) ∧
    (spdmOpen attested .mctp = true ∧ SpdmPort.mctp ∉ attested.sec.negotiated ∧ secure attested .mctp 1 = false) ∧
    (let s := { attested with sec := { attested.sec with sess := List.replicate 8 ⟨.doe 0, 1, false⟩ } }
     spdmOpen s (.doe 0) = true ∧ SpdmPort.doe 0 ∈ s.sec.negotiated ∧ 8 ≤ (sessionsOf s (.doe 0)).length) ∧
    (vfPart attested (.doe 0) = none ∧ vfOf attested (.doe 2) 2 = true) ∧
    (let s := setKey attested 63 { pv := true, part := 2 }
     functionOf (.doe 0) = some 0 ∧ (getKey s 63).pv = true ∧ vfOf s (.doe 2) (getKey s 63).part.toNat = true ∧ (getKey s 63).st = .empty) ∧
    ((getKey attested 1).pv = true ∧ vfOf attested (.doe 2) (getKey attested 1).part.toNat = true ∧ (getKey attested 1).st ≠ .empty) := by
  decide +kernel

theorem witness_TestPortLoadsInstructions :
    ((0 : Byte).toNat = 0) ∧ (7 < (8 : Byte).toNat) := by decide

theorem witness_PowerStageStartsAndStops :
    (let s := State.reset
     chattering s .pwrEn = false ∧ s.pins.pwrEn = false ∧ s.pins.stage = .off ∧ s.pins.offOk = true) ∧
    (let s := { up with pins := { up.pins with stage := .ramp } }
     s.pins.stage = .ramp ∧ chattering s .pwrEn = false ∧ s.pins.pwrEn = true) ∧
    (chattering up .pwrEn = false ∧ up.pins.pwrEn = true ∧ up.pins.stage = .on) ∧
    (let s := { up with pins := { up.pins with stage := .off, pwrGood := false } }
     s.pins.pwrGood = false ∧ s.pins.pwrEn = true ∧ s.pins.stage = .off) ∧
    (let s := { up with pins := { up.pins with stage := .tripped } }
     s.pins.stage = .tripped ∧ s.pins.pwrEn = true ∧ s.pins.offOk = true) := by
  decide +kernel

/-! ## Pins, start-up, power states -/

theorem witness_PinsAndInputsAct :
    (chattering up .perstN = false ∧ up.pins.perstN = true ∧ up.pins.pwrGood = true ∧ chattering up .pwrBrakeN = false ∧ up.pins.pllLock = true) ∧
    (chattering State.reset .perstN = false ∧ State.reset.pins.perstN = false) ∧
    (∀ p ∈ [Pin.pwrBrakeN, .perstN, .pwrEn], chattering up p = false ∧ chattering { up with pwr := { up.pwr with chatter := 7 } } p = true) ∧
    (let s := { up with pins := { up.pins with brakeN := false } }
     s.pins.brakeN = false ∧ s.pwr.stuck = false ∧ s.pins.pwrGood = true) ∧
    (up.pins.pwrGood = true ∧ up.pwr.strapsOk = false) ∧
    (let s := { up with pwr := { up.pwr with strapsOk := true } }
     s.pwr.strapsOk = true ∧ s.pwr.strapErr = false ∧ s.pins.pwrGood = true) ∧
    mayDecide up 7 = true ∧
    (hubRuns up = true ∧ up.dev.isolate = false ∧ (7000 : W16).toNat ≤ 10 * capInForce up ∧ up.pwr.hotTiles = 0 ∧
     10 * capInForce up < (7001 : W16).toNat) ∧
    (let s := { up with pwr := { up.pwr with hotTiles := 128 }, dev := { up.dev with isolate := true } }
     hubRuns s = true ∧ s.pwr.hotTiles ≠ 0 ∧ s.dev.isolate = true) := by
  decide +kernel

/-- The module powered with the MGC's firmware, the hub before its ROM. -/
def romState : State :=
  { State.reset with pins := { State.reset.pins with pwrEn := true, pwrGood := true, perstN := true, stage := .on },
                     mgc := { State.reset.mgc with booted := true, tagStore := 255 } }

/-- `romState` before the MGC's ROM. -/
def mgcState : State := { romState with mgc := { romState.mgc with booted := false } }

theorem imageOk_svn (s t : State) (c : Component) (m : FwImage) (h : svnOf s c = svnOf t c) : imageOk s c m = imageOk t c m := by
  simp only [imageOk, h]

theorem witness_StartUpGoesThroughItsStages :
    (mgcState.pins.pwrGood = true ∧ mgcState.pins.pllLock = true ∧ mgcState.mgc.booted = false ∧ mgcState.mgc.recovery = false ∧
     bootSlot mgcState .mgc = none) ∧
    (∀ m, imageOk mgcState .mgc m = true → bootSlot { mgcState with mgc := { mgcState.mgc with mgcA := some m } } .mgc = some false) ∧
    (romReady romState = true ∧ bootSlot romState .hub = none) ∧
    (∀ m n, imageOk romState .hub m = true →
      let s := { romState with mgc := { romState.mgc with hubA := some m, cfgSeq := n } }
      romReady s = true ∧ bootSlot s .hub = some false ∧ slotImage s .hub false = some m ∧
      (n = 0 → seqHeld s (validRecords s m.key) = true) ∧ (n = 1 → seqHeld s (validRecords s m.key) = false)) ∧
    (let s := { up with dev := { up.dev with stage := 3 } }
     s.dev.stage = 3 ∧ underReset s .device = false ∧
     (∀ t, t < 8 → ∃ c, c / 16 = t ∧ isFenced s c = false ∧ bit (0x7FFF : W128) c = false) ∧
     ∃ t, t < 8 ∧ ∀ c, c / 16 = t → isFenced s c = true ∨ bit (BitVec.ofNat 128 (0xFFFF * 2 ^ 112)) c = true) := by
  refine ⟨by decide +kernel, ?_, by decide +kernel, ?_, by decide +kernel, by decide +kernel, ?_, 7, by decide, ?_⟩
  · intro m h
    exact if_pos h
  · intro m n h
    refine ⟨rfl, if_pos h, rfl, ?_, ?_⟩ <;> (rintro rfl; rfl)
  · intro t h
    have e : ∀ t, t < 8 → isFenced { up with dev := { up.dev with stage := 3 } } (16 * t + 15) = false ∧ bit (0x7FFF : W128) (16 * t + 15) = false := by
      decide +kernel
    exact ⟨16 * t + 15, by omega, e t h⟩
  · intro c h
    have e : ∀ k, k < 16 → bit (BitVec.ofNat 128 (0xFFFF * 2 ^ 112)) (112 + k) = true := by decide +kernel
    have k := e (c - 112) (by omega)
    rw [show 112 + (c - 112) = c by omega] at k
    exact .inr k

/-- `up` with VFs enabled and ring 1 of VF 2. -/
def vfUp : State :=
  let s := setRing up 1 { getRing up 1 with func := 2 }
  { s with hif := { s.hif with vfEnable := true, ide := [(2, true)] } }

theorem witness_FunctionsAndLinkAreCutOff :
    (let c := { cmdOf 0x40 0 with ring := 9 }
     let s := { vfUp with cmds := [c] }
     barUp s = true ∧ s.hif.vfEnable = true ∧ s.launches = [] ∧ (∀ c ∈ s.cmds, c.ring ∉ ringsOf s 2)) ∧
    (let c := cmdOf 0x40 0
     let s := { vfUp with cmds := [c] }
     barUp s = true ∧ s.hif.vfEnable = true ∧ s.launches = [] ∧ s.steps = [] ∧ c.ring = 1 ∧ c.seq = 7 ∧ c.started = false ∧
     opcodeOf c ≠ 0x11 ∧ (getRing s 1).func.toNat = 2 ∧ (getRing s 1).st = .running) ∧
    (barUp vfUp = true ∧ vfUp.hif.vfEnable = true ∧ vfUp.launches = [] ∧ vfUp.cmds = []) ∧
    (underReset up .device = false ∧ barUp up = true ∧ up.pins.pwrGood = true) ∧
    (tget false vfUp.hif.ide 2 = true ∧ (getRing vfUp 1).part.toNat = 2 ∧ (getRing vfUp 1).st ≠ .off) ∧
    ((4 : BitVec 4).toNat < 5 ∧ (3 : BitVec 5).toNat < 4 ∧ (getRing up 1).st = .running) := by
  decide +kernel

/-- `up` with the partition in a power state and a tolerance, long after its last work. -/
def quiet (n tol : Nat) : State :=
  let s := setPart up 2 { getPart up 2 with pstate := n, tol := tol }
  { s with time := { s.time with ftime := 10 ^ 12 } }

theorem witness_PartitionsSleepAndWake :
    ((getPart (quiet 0 200) 2).pstate < 2 ∧ 200 ≤ (getPart (quiet 0 200) 2).tol ∧ p2Cond (quiet 0 200) 2 105000 = true) ∧
    ((getPart (quiet 2 5000) 2).pstate = 2 ∧ 5000 ≤ (getPart (quiet 2 5000) 2).tol ∧ p3Cond (quiet 2 5000) 2 = true) ∧
    (let s := quiet 3 50000
     s.hif.inL12 = false ∧ (getPart s 2).enable = true ∧
     ∀ k, k < 8 → (getPart s k).enable = true → (getPart s k).pstate = 3 ∧ 50000 ≤ (getPart s k).tol ∧ p3Cond s k = true) ∧
    (let s := setPart (quiet 4 50000) 2 { getPart (quiet 4 50000) 2 with waking := true }
     let s := { setPart s 6 { enable := true, st := .ready, tileBase := 6, pstate := 4 } with hif := { s.hif with inL12 := true } }
     (getPart s 2).waking = true ∧ s.launches = [] ∧ s.hif.inL12 = true ∧ (getPart s 6).enable = true ∧ (getPart s 6).pstate = 4) := by
  decide +kernel

/-! ## Ports and fabric time -/

/-- `up` with port 5 in a state. -/
def portIn (st : LinkState) : State := setPort up 5 { st := st, lanesOk := 0xFF, prev := 3, since := 0 }

theorem witness_PortsTrain :
    ((getPort (portIn .detect) 5).st = .detect ∧ 2 ≤ laneCount 0x81 ∧ laneCount 0x80 < 2) ∧
    (∀ st ∈ [LinkState.equalize, .align, .retrain, .negotiate, .down, .active], (getPort (portIn st) 5).st = st) ∧
    (let x := getPort (portIn .negotiate) 5
     (2 : BitVec 2).toNat = 5 / 2 ∧ laneGroups.find? (fun g => x.lanesOk &&& 0xFE &&& g.1 == g.1) = some (0xF0, 2) ∧
     (2 : BitVec 2).toNat < x.prev.toNat ∧ (1 : BitVec 2).toNat ≠ 5 / 2 ∧ laneGroups.find? (fun g => x.lanesOk &&& 0x55 &&& g.1 == g.1) = none ∧
     x.again = false ∧ x.txq = [] ∧ (portIn .negotiate).fab.txCh = []) ∧
    (let s := setPort (portIn .negotiate) 5 { getPort (portIn .negotiate) 5 with again := true, replay := [default] }
     (getPort s 5).again = true ∧ (getPort s 5).st = .negotiate) ∧
    (let s := setPort (portIn .active) 5 { getPort (portIn .active) 5 with corr := [(7, [(0, 2000)])] }
     (getPort s 5).st = .active ∧ ((corrected (getPort s 5) s.time.ftime 7 ++ [(s.time.ftime, 49)]).map Prod.snd).sum = 2049 ∧
     ((corrected (getPort s 5) s.time.ftime 7 ++ [(s.time.ftime, 48)]).map Prod.snd).sum = 2048) ∧
    (∀ e ∈ [(LinkState.equalize, 42000000), (.align, 2100000), (.negotiate, 1050000), (.retrain, 3150000)], ∀ a ∈ [1, 2],
      let s := setPort (portIn e.1) 5 { getPort (portIn e.1) 5 with attempts := a }
      let s := { s with time := { s.time with ftime := e.2 + 1 } }
      stateLimit (getPort s 5).st = some e.2 ∧ (getPort s 5).since + e.2 < s.time.ftime ∧ (getPort s 5).attempts = a) ∧
    (let s := { portIn .down with time := { up.time with ftime := 1050000000 } }
     (getPort s 5).st = .down ∧ (getPort s 5).since + 1050000000 ≤ s.time.ftime) := by
  decide +kernel

/-- A whole flit of two bytes with SEQ 9 that acknowledges SEQ 4. -/
def flit : Flit :=
  let f : Flit := { ack := 4, ackv := true, cvc := 0, credits := 0, vc := 1, sop := true, eop := true, nb := 1, seq := 9, payload := [1, 2], crc := 0 }
  { f with crc := crc32c (flitBytes f) }

/-- Port 5 ACTIVE, expecting SEQ 9, with a flit in its replay buffer. -/
def carrying : State := setPort up 5 { st := .active, rxSeq := 9, replay := [{ flit with seq := 4 }], nakSame := 7, nakSeq := 3 }

theorem witness_PortsCarryFlits :
    (let x := getPort carrying 5
     x.st = .active ∧ x.discard = false ∧ flitInjection carrying 5 = none ∧ crcHolds flit = true ∧ flit.seq = x.rxSeq ∧
     x.replay.any (fun y => y.seq == flit.ack) = true ∧ crcHolds { flit with crc := flit.crc + 1 } = false ∧ { flit with seq := 8 }.seq ≠ x.rxSeq) ∧
    (let s := setPort carrying 5 { getPort carrying 5 with discard := true }
     (getPort s 5).st = .active ∧ (getPort s 5).discard = true) ∧
    (let i : Inject := ⟨4, 0, 5, 0, 0⟩
     flitInjection { carrying with err := { carrying.err with armed := [i] } } 5 = some i) ∧
    (let x := getPort carrying 5
     x.nakSame = 7 ∧ x.nakSeq = 3 ∧ x.nakSeq ≠ 4 ∧ (x.nakMs.filter (fun u => decide (carrying.time.ftime < u + 1050000))).length < 1000 ∧
     (∀ v, v < 4 → (x.replay.filter (fun y => y.vc.toNat == v)).length ≤ nth 0 [0, 1, 0, 0] v) ∧
     ¬ (x.replay.filter (fun y => y.vc.toNat == 1)).length ≤ nth 0 [0, 0, 0, 0] 1) := by
  decide +kernel

/-- Port 5 ACTIVE and an exchange on it sent at tick 1000. -/
def timing (f : Nat) (st : BitVec 2) : State :=
  { portIn .active with time := { up.time with ftime := f, req := some (5, 1000), tstate := st, src := 5 } }

theorem witness_FabricTimeIsDisciplined :
    ((getPort (timing 1100 0) 5).st = .active ∧ lowPowerIdle (timing 1100 0) = false ∧ timeSource (timing 1100 0) = some 5) ∧
    (lowPowerIdle up = false ∧ timeSource up = none) ∧
    (let s := timing 1100 tsAcquiring
     let th : Int := (((1000 : Int) - (1200 : W64).toNat) + ((s.time.ftime : Int) - (1210 : W64).toNat)) / 2
     s.time.req = some (5, 1000) ∧ (((s.time.ftime : Int) - 1000) - (((1210 : W64).toNat : Int) - (1200 : W64).toNat)) / 2 ≤ 5000 ∧
     s.time.ftime ≤ 1000 + 105000 ∧ s.time.tstate = tsAcquiring ∧ s.time.everLock = false ∧ th = -155 ∧ 64 < th.natAbs) ∧
    (let s := timing 1100 tsLocked
     let th : Int := (((1000 : Int) - (1050 : W64).toNat) + ((s.time.ftime : Int) - (1066 : W64).toNat)) / 2
     s.time.req = some (5, 1000) ∧ s.time.ftime ≤ 1000 + 105000 ∧
     (((s.time.ftime : Int) - 1000) - (((1066 : W64).toNat : Int) - (1050 : W64).toNat)) / 2 ≤ 5000 ∧
     ¬ (s.time.tstate = tsFree ∨ s.time.tstate = tsAcquiring) ∧ th.natAbs ≤ 64) ∧
    (let s := timing 12000 tsLocked
     s.time.req = some (5, 1000) ∧ 5000 < (((s.time.ftime : Int) - 1000) - (((10 : W64).toNat : Int) - (0 : W64).toNat)) / 2 ∧
     tsAcquiring ≠ tsLocked) ∧
    (1000 + 105000 < (timing 106001 0).time.ftime) ∧
    ((timing 10500000 tsLocked).time.tstate = tsLocked ∧ (timing 10500000 tsLocked).time.lastOk + 10500000 ≤ (timing 10500000 tsLocked).time.ftime) := by
  decide +kernel

/-! ## Packets and messages -/

/-- Whether a packet is heard at a partition. -/
def heardB (s : State) (p : Nat) (k : Pkt) : Bool :=
  decide (partsOfEp s k.dst = [p]) && decide ((getPart s p).pstate < 2) && k.ecrcOk && decide (genAge s k.src k.gen ≠ .older)

theorem heard_of (s : State) (p : Nat) (k : Pkt) (h : heardB s p k = true) : Heard s p k := by
  simp only [heardB, Bool.and_eq_true, decide_eq_true_eq] at h
  obtain ⟨⟨⟨h1, h2⟩, h3⟩, h4⟩ := h
  exact ⟨h1, h2, h3, h4⟩

/-- Whether a packet is delivered at a partition. -/
def delivB (s : State) (p : Nat) (k : Pkt) : Bool :=
  decide (partsOfEp s k.dst = [p]) && decide ((getPart s p).pstate < 2) && k.ecrcOk && decide (genAge s k.src k.gen = .same) &&
  decide (k.cseq.toNat = (rxOf s p k.src k.chan).expect)

theorem deliv_of (s : State) (p : Nat) (k : Pkt) (h : delivB s p k = true) : Delivered s p k := by
  simp only [delivB, Bool.and_eq_true, decide_eq_true_eq] at h
  obtain ⟨⟨⟨⟨h1, h2⟩, h3⟩, h4⟩, h5⟩ := h
  exact ⟨h1, h2, h3, h4, h5⟩

/-- Partition 2 as endpoint 10H in job 3, with a near working page; endpoint 5 of generation 1 is known, and a channel from it
expects CSEQ 3. -/
def net : State :=
  let s := setPart up 2 { getPart up 2 with epValid := true, endpoint := 0x10, nearPages := [0x59FFFE], workNear := 1 }
  let s := setJob s 3 { st := .active, valid := true, part := 2, jobId := 9, members := [0x10, 5] }
  { s with fab := { s.fab with peers := [(5, 1)], rxCh := [{ part := 2, src := 5, chan := 0x1000, expect := 3 }] }, sess := [] }

/-- A packet of endpoint 5 to it. -/
def pkt : Pkt := { dst := 0x10, src := 5, chan := 0x1000, gen := 1, cseq := 3, job := 9, status := 0, addr := 0x100, ecrcOk := true }

/-- A packet the device sent on a channel, not acknowledged. -/
def sentPkt (n : Nat) : TxPkt :=
  { kind := pkMessage, part := 2, dst := 5, chan := 0x1000, cseq := n, gen := 0, job := 9, status := 0, addr := 0, body := .bytes [] }

/-- A channel to endpoint 5 with two packets unacknowledged. -/
def txChan : TxChan := { part := 2, dst := 5, chan := 0x1000, next := 4, unack := [sentPkt 2, sentPkt 3] }

theorem witness_PacketsAreDelivered_forming : ∀ j, (getJob net j).st ≠ .forming := by
  intro j
  have e : net.fab.jobs = [(3, { st := .active, valid := true, part := 2, jobId := 9, members := [0x10, 5] })] := by decide +kernel
  show (tget ({} : Job) net.fab.jobs j).st ≠ .forming
  rw [e]
  by_cases h : j = 3
  · subst h; decide
  · simp [tget, Ne.symm h]

theorem witness_PacketsAreDelivered :
    (delivB net 2 pkt = true ∧ jobMember net 2 pkt = true ∧ workAddr pkt.addr = true ∧ writeErr net 2 0 pkt.addr.toNat [(1 : Byte), 2].length = none ∧
     (workErrors net 2 pkt.addr.toNat [(1 : Byte), 2].length).2 = none ∧ (usedFrames net).length + 3 ≤ 1000000) ∧
    (∀ k ∈ [{ pkt with job := 8 }, { pkt with addr := BitVec.ofNat 64 (2 ^ 46) }],
      delivB net 2 k = true ∧ (jobMember net 2 k = false ∨ workAddr k.addr = false)) ∧
    (let m := readPart net 2 0 pkt.addr.toNat 64
     m.err = none ∧ m.ue = none ∧ m.ces = [] ∧ m.bytes.length = 64) ∧
    (let s := { net with fab := { net.fab with txCh := [txChan] } }
     heardB s 2 pkt = true ∧ genAge s pkt.src pkt.gen = .same ∧ s.fab.txCh.find? (isTx 2 pkt.src pkt.chan) = some txChan) ∧
    (let s := { net with fab := { net.fab with peers := [], txCh := [txChan] } }
     heardB s 2 pkt = true ∧ tfind s.fab.peers pkt.src.toNat = none ∧ s.fab.txCh.find? (isTx 2 pkt.src pkt.chan) = some txChan) ∧
    (∀ r ∈ [({ part := 2, src := 5, chan := 0x1000, since := 16 } : RxChan), { part := 2, src := 5, chan := 0x1000, since := 1 }],
      let s := { net with fab := { net.fab with rxCh := [r] }, time := { net.time with ftime := 2100 } }
      s.fab.rxCh.find? (isRx 2 5 0x1000) = some r ∧ (16 ≤ r.since ∨ (r.since ≠ 0 ∧ r.firstAt + 2100 ≤ s.time.ftime))) ∧
    (let s := { net with fab := { net.fab with txCh := [txChan] }, time := { net.time with ftime := 52500 } }
     s.fab.txCh.find? (isTx 2 5 0x1000) = some txChan ∧ txChan.unack ≠ [] ∧ Nat.max txChan.moved txChan.resent + 52500 ≤ s.time.ftime) ∧
    (∀ j ∈ [0, 9],
      let k := { pkt with job := BitVec.ofNat 32 j }
      let s := { net with fab := { net.fab with peers := [] } }
      heardB s 2 k = true ∧ tfind s.fab.peers k.src.toNat = none ∧ s.launches = []) ∧
    (let k := { pkt with job := 0, gen := 2 }
     let c := { txChan with unack := [] }
     let s := { net with fab := { net.fab with jobs := [], txCh := [c] } }
     heardB s 2 k = true ∧ genAge s k.src k.gen = .newer ∧ s.exps = [] ∧ s.sess = [] ∧ s.launches = [] ∧ c.dst = k.src ∧
     (tfind s.fab.peers k.src.toNat).isSome = true) ∧
    (let k := { pkt with gen := 0 }
     partsOfEp net k.dst = [2] ∧ (getPart net 2).pstate < 2 ∧ k.ecrcOk = true ∧ genAge net k.src k.gen = .older ∧ net.launches = []) := by
  decide +kernel

theorem witness_PacketsAreChecked :
    partsOfEp net pkt.dst = [2] ∧ (getPart net 2).pstate < 2 ∧ pkt.ecrcOk = true ∧ genAge net pkt.src pkt.gen = .same ∧
    genAge net pkt.src 2 ≠ .same ∧ (4 : BitVec 32).toNat ≠ (rxOf net 2 pkt.src pkt.chan).expect := by
  decide +kernel

/-- Set 5 of partition 2 with plate 6 of a length, resident or being read from endpoint 5. -/
def plated (y : Plate) : State := { net with psets := [{ plainSet with plates := [(6, y)] }] }

theorem witness_JobMessagesAct :
    (delivB net 2 pkt = true ∧ jobById net 2 pkt.job = some 3 ∧ (getJob net 3).st = .active ∧ (getJob net 3).abandoned.contains 4 = false ∧
     net.launches = [] ∧ net.fab.colls.any (isColl 3 4) = false) ∧
    (let s := setJob net 3 { getJob net 3 with abandoned := [4] }
     delivB s 2 pkt = true ∧ jobById s 2 pkt.job = some 3 ∧ (getJob s 3).abandoned.contains 4 = true ∧ s.launches = []) ∧
    (heardB net 2 pkt = true ∧ genAge net pkt.src pkt.gen = .same ∧ shadowsOf net 2 5 = [] ∧ net.cmds = [] ∧ net.steps = [] ∧ jobById net 2 8 = none ∧ heardB net 2 { pkt with job := 8 } = true) ∧
    (∀ n ∈ [0, 1],
      let e : Option (W16 × W16) := if n = 0 then none else some (5, 1)
      let s := setJob net 3 { getJob net 3 with st := .stopped, stop := e }
      heardB s 2 pkt = true ∧ shadowsOf s 2 5 = [] ∧ jobById s 2 pkt.job = some 3 ∧ (getJob s 3).st = .stopped ∧ (getJob s 3).stop = e) ∧
    (heldPlate (plated {}) 2 0x1005 6 = none ∧ delivB (plated {}) 2 pkt = true) ∧
    (let y : Plate := { length := 100, resident := true, frames := [0x59FFFE] }
     delivB (plated y) 2 pkt = true ∧ heldPlate (plated y) 2 0x1005 6 = some y ∧
     ∀ f ∈ y.frames, lineErrors (plated y) f 0 1023 = ([], none)) ∧
    (let w : W64 := BitVec.ofNat 64 (2 * 2 ^ 62 + 5 * 2 ^ 46)
     let y : Plate := { length := 100, sources := [w], attempts := 1, reading := some (1, 7) }
     delivB (plated y) 2 pkt = true ∧ (findSet (plated y) 2 0x1005).isSome = true ∧ getPlate (plated y) 2 0x1005 6 = y ∧ underWay y = true ∧
     attemptSource y = some w ∧ bits w 63 62 = 2 ∧ bits w 61 46 = pkt.src.toNat ∧ y.buf.length + [(1 : Byte)].length < y.length) := by
  decide +kernel

/-! ## The Separator, stalls and resets -/

/-- A Separator header of generation 1. -/
def sepHdr : SepHdr :=
  { tag := 4, layer := 0, status := 0, gen := 1, msgIndex := 1, msgCount := 2, nrows := 1, rowBase := 0, credits := 2, fmt := 8, job := 9 }

/-- `net` with a CURRENT set of partition 2 that routes layer 0 to two experts. -/
def sepNet : State :=
  { net with psets := [{ plainSet with st := .current, routes := [BitVec.ofNat 256 (2 ^ 116 + 4 * 2 ^ 160)] }] }

/-- A source batch of two messages to endpoint 5. -/
def batch : Batch :=
  { job := 3, tag := 4, layer := 0, launch := 0, part := 2, pset := 0x1005, rows := [[1]], owners := [(1, 7)], assign := [], moved := 1, turn := true,
    msgs := [{ dst := 5, index := 0, count := 2, counts := [], rows := [], base := 0, credits := 1, sent := true },
             { dst := 5, index := 1, count := 2, counts := [], rows := [(0, 0)], base := 0, credits := 1, sent := true }] }

/-- A dispatch message as the destination holds it. -/
def destOf (h : SepHdr) (counts : List W16) (rows : List (List Byte)) : DestMsg :=
  { src := pkt.src, job := pkt.job, tag := h.tag, layer := h.layer.toNat, index := h.msgIndex.toNat, count := h.msgCount.toNat, counts := counts,
    rows := rows, base := h.rowBase.toNat, credits := h.credits.toNat, part := 2 }

theorem witness_SeparatorMessagesAct :
    delivB sepNet 2 pkt = true ∧ sepStale pkt { sepHdr with gen := 0 } = true ∧
    (sepStale pkt sepHdr = false ∧ jobById sepNet 2 pkt.job = some 3 ∧ sepNet.launches = [] ∧ sepNet.sep.batches = [] ∧ sepNet.sep.dest = [] ∧
     pkt.src ≠ epOf sepNet 2 ∧ (getJob sepNet 3).retired.contains sepHdr.tag = false ∧
     wrongExperts sepNet 2 3 (destOf { sepHdr with msgIndex := 0 } [1, 2, 3] []) = true ∧
     wrongExperts sepNet 2 3 (destOf sepHdr [] [[1]]) = false ∧ 0x10 ∈ (getJob sepNet 3).members ∧ (0x10 : W16) ≠ pkt.src ∧
     sepNet.mem.bad = [] ∧ sepNet.err.armed = []) ∧
    (let s := setJob sepNet 3 { getJob sepNet 3 with retired := [4] }
     delivB s 2 pkt = true ∧ jobById s 2 pkt.job = some 3 ∧ (getJob s 3).retired.contains sepHdr.tag = true) ∧
    (let s := { sepNet with sep := { batches := [batch], dest := [], credits := [((3, 5), 6)] } }
     let q := nth default batch.msgs 1
     delivB s 2 pkt = true ∧ jobById s 2 pkt.job = some 3 ∧ s.launches = [] ∧ s.sep.dest = [] ∧ s.sep.batches = [batch] ∧ batch.failed = false ∧
     batch.job = 3 ∧ batch.tag = sepHdr.tag ∧ batch.layer = sepHdr.layer.toNat ∧ (∀ y ∈ batch.msgs, y.sent = true) ∧
     batch.msgs.find? (fun y => y.dst == pkt.src && y.index == sepHdr.msgIndex.toNat && y.sent && !y.back) = some q ∧
     s.sep.credits = [((3, pkt.src.toNat), 6)] ∧
     (∃ y ∈ batch.msgs, y.back = false ∧ ¬ (y.dst = pkt.src ∧ y.index = sepHdr.msgIndex.toNat)) ∧
     (getJob s 3).st = .active ∧ s.cmds = [] ∧ s.steps = []) := by
  decide +kernel

/-- `up` long after anything moved. -/
def late : State := { up with time := { up.time with ftime := 10 ^ 12 }, dev := { up.dev with tileOn := 0xFF, tileFw := 0xFF } }

/-- Core 64 running in partition 2 with an instruction of an engine under way, long after anything moved. -/
def slow (e : Nat) : State :=
  setCore late 64 { run := .running, ctx := some ⟨9, 2, 0, 0x1002, 1, 7⟩, cyc := 10 ^ 9,
                    flights := [{ eng := e, addr := 5, due := 0, evs := [] }] }

theorem witness_StalledUnitsAreStopped :
    (coreWatched (slow 1) 64 = true ∧ (slow 1).fab.jobs = [] ∧ (getCore (slow 1) 64).run = .running ∧
     (getCore (slow 1) 64).sqAt + winTicks (getPart (slow 1) (corePart (getCore (slow 1) 64))).seqWin < (getCore (slow 1) 64).cyc ∧
     headAddr (getCore (slow 1) 64) 1 = some 5 ∧
     (getCore (slow 1) 64).ldMove + winTicks (getPart (slow 1) (corePart (getCore (slow 1) 64))).ldstWin < (getCore (slow 1) 64).cyc) ∧
    (coreWatched (slow 2) 64 = true ∧ headAddr (getCore (slow 2) 64) 2 = some 5 ∧
     (getCore (slow 2) 64).stMove + winTicks (getPart (slow 2) (corePart (getCore (slow 2) 64))).ldstWin < (getCore (slow 2) 64).cyc) ∧
    (let c := { cmdOf 0x20 0 with started := true }
     let s := { late with cmds := [c] }
     c.ring = 1 ∧ c.seq = 7 ∧ c.wait ≠ .pairing ∧ c.cls ≠ clsFixed ∧ exemptWait s c = false ∧ isLatched s uHub 0 = false ∧
     underReset s .hub = false ∧ s.steps = [] ∧ s.launches = [] ∧ s.exps = [] ∧
     (getRing s 1).moved + winTicks (getPart s (getRing s 1).part.toNat).ringWin < s.time.ftime) ∧
    (let s := setPort late 5 { st := .active, txq := [(2, flit)] }
     (getPort s 5).st = .active ∧ 1 ∈ waitingVcs (getPort s 5) ∧ isLatched s uPort 5 = false ∧
     tget 0 (getPort s 5).crAt 1 + portWin s < s.time.ftime) ∧
    (let s := { late with fab := { late.fab with txCh := [txChan] } }
     s.fab.txCh.find? (isTx 2 5 0x1000) = some txChan ∧ txChan.unack ≠ [] ∧ isLatched s uHub 0 = false ∧ underReset s .hub = false ∧
     txChan.moved + winTicks (getPart s 2).fabricWin < s.time.ftime ∧ s.exps = [] ∧ s.cmds = [] ∧ s.fab.jobs = []) ∧
    (let s := { net with fab := { net.fab with txCh := [txChan] }, time := late.time, sep := { net.sep with batches := [batch] } }
     txChan.moved + winTicks (getPart s 2).fabricWin < s.time.ftime ∧ (getJob s 3).st = .active ∧ (getJob s 3).part.toNat = 2 ∧
     (getJob s 3).members.contains 5 = true ∧ s.steps = [] ∧ s.launches = [] ∧ s.cmds = [] ∧
     s.sep.batches.find? (fun b => b.job == 3 && b.tag == 4 && b.layer == (0 : W16).toNat && !b.failed) = some batch ∧
     sepArmed batch = true ∧ isLatched s uSep 0 = false ∧ underReset s .hub = false ∧ batch.lastMove + winTicks (getPart s batch.part).fabricWin < s.time.ftime) ∧
    (hbWatched late 0 = true ∧ hbWatched late 8 = true ∧ tget 0 late.err.hbLast 8 + 105000000 ≤ late.time.ftime ∧ late.dev.recovery = [] ∧
     late.dev.stage = 4 ∧ isLatched late uHub 0 = false ∧ isLatched late uMgc 0 = false ∧ late.fab.jobs = []) ∧
    (let s := { late with dev := { late.dev with stage := 3 } }
     hbWatched s 0 = true ∧ s.dev.recovery = [] ∧ s.dev.stage.toNat < 4) ∧
    (let rc : Recovery := { dom := .device, cause := 0, error := false, inReset := false }
     let s := { late with dev := { late.dev with recovery := [rc] } }
     hbWatched s 8 = true ∧ s.dev.recovery = [rc] ∧ rc.dom = .device) := by
  decide +kernel

theorem witness_ResetsGoThroughTheirSteps :
    ∀ d ∈ [Domain.core 64, .tile 4, .hub, .device], ∀ b ∈ [false, true],
      let r : Recovery := { dom := d, cause := 0, error := true, inReset := b }
      let s := { late with dev := { late.dev with recovery := [r] }, cmds := [cmdOf 0x40 0] }
      recoveryOf s d = some r ∧ r.inReset = b ∧ r.since + 1050000 ≤ s.time.ftime ∧ s.launches = [] ∧ (∀ x ∈ s.cmds, x.started = false) ∧
      s.fab.jobs = [] := by
  decide +kernel

/-! ## Plates, Proof and Herd -/

/-- A plate of four bytes of host memory, its last attempt of `n` at tick 0. -/
def reading (n : Nat) (d : W256) : Plate :=
  { digest := d, length := 4, sources := [BitVec.ofNat 64 (2 ^ 62 + 0x4000)], attempts := n, reading := some (1, 7) }

/-- `late` with set 5 of one plate 6. -/
def platesLate (y : Plate) : State := { late with psets := [{ plainSet with plates := [(6, y)] }] }

theorem witness_PlatesAreLoadedAndChecked :
    (let s := setPart late 2 { getPart late 2 with retiring := [⟨0x59FFFE, none, 0⟩], epoch := 1 }
     waitingPlates (reclaim s 2) 2 = [] ∧ drained (getPart s 2) 0 = true ∧ s.launches = [] ∧ s.sep.batches = []) ∧
    (let y := reading 3 (sha3w [0, 0, 0, 0])
     let s := platesLate y
     getPlate s 2 0x1005 6 = y ∧ (findSet s 2 0x1005).isSome = true ∧ underWay y = true ∧ s.cmds = [] ∧ attemptErrs s 2 y = s ∧
     attemptData s 2 y = some [0, 0, 0, 0] ∧ sha3w [0, 0, 0, 0] = y.digest ∧
     (usedFrames (reclaim s 2)).length + 9 * ceilDiv (platePages y) 8 ≤ 1000000) ∧
    (∀ n ∈ [3, 4],
      let y := reading n 0
      let s := platesLate y
      getPlate s 2 0x1005 6 = y ∧ (findSet s 2 0x1005).isSome = true ∧ underWay y = true ∧ s.cmds = [] ∧ attemptErrs s 2 y = s ∧
      attemptData s 2 y = some [0, 0, 0, 0] ∧ sha3w [0, 0, 0, 0] ≠ y.digest ∧ (sourceAt y.sources y.attempts).isSome = true ∧
      y.got = false ∧ y.since + 105000000 ≤ s.time.ftime) ∧
    (∀ b ∈ [true, false],
      let y : Plate := { length := 4, resident := true, frames := [0x59FFFE], digest := if b then sha3w [0, 0, 0, 0] else 0 }
      let s := { platesLate y with time := { late.time with ftime := 10 ^ 15 } }
      getPlate s 2 0x1005 6 = y ∧ milkDue s 2 = true ∧ (∀ f ∈ y.frames, lineErrors s f 0 1023 = ([], none)) ∧
      decide (sha3w (plateBytes s y) = y.digest) = b ∧ y.reload = false ∧ s.steps = []) ∧
    (let y : Plate := { length := 4, resident := true, reload := true }
     getPlate (platesLate y) 2 0x1005 6 = y ∧ y.reload = true ∧ (platesLate y).cmds = []) ∧
    (let y : Plate := { length := 4, failed := true, reload := true }
     let s := setSess (platesLate y) 600 { getSess home 600 with plateset := 0x1005 }
     getPlate s 2 0x1005 6 = y ∧ y.resident = false ∧ (600, getSess s 600) ∈ s.sess ∧ (getSess s 600).st = .open_ ∧
     (getSess s 600).part.toNat = 2 ∧ (getSess s 600).plateset = 0x1005 ∧ s.cmds = []) := by
  refine ⟨by decide +kernel, ?_, ?_, by decide +kernel, by decide +kernel, by decide +kernel⟩
  · exact ⟨by decide +kernel, by decide +kernel, by decide +kernel, by decide +kernel, rfl, by decide +kernel, by decide +kernel, by decide +kernel⟩
  · decide +kernel

/-- A step that a Proof is made of, on core 64. -/
def suspect (rs : List RunDigest) : StepRec :=
  { ring := 1, seq := 7, part := 2, sess := some 600, phase := .proving, suspect := true, shares := [(0, 64)], runs := rs }

/-- Its state. -/
def suspicion (rs : List RunDigest) : State :=
  { upAt [{ cmdOf 0x04 (hdl * 2 ^ 480) with started := true }] with steps := [suspect rs] }

/-- A rotated run with one share. -/
def runOf (d : W256) : RunDigest := { step := 0, shares := [d], result := 0, pages := [] }

theorem witness_ChecksOfStepsAndReplicas :
    (∀ rs ∈ [[], [runOf 1]],
      let s := suspicion rs
      let st := suspect rs
      let o := originalRun s st
      findStep s 1 7 = some st ∧ (findCmd s 1 7).any (fun c => decide (s.cmds = [c]) && c.cls != clsFixed && !lateCmd s c) = true ∧
      nextReplay s 2 = some st ∧ st.scratch.length = st.changed.length ∧ st.partnerDig = none ∧ partInjection s 6 2 = none ∧
      isLatched s uHub 0 = false ∧ s.dev.recovery = [] ∧ o.shares = [nth 0 o.shares 0] ∧ o.shares ≠ (runOf 1).shares) ∧
    (let a := runOf 1
     let s := suspicion [a]
     let st := suspect [a]
     let o := originalRun s st
     let run := runOf (nth 0 o.shares 0)
     let ran := fun (k : Nat) => (nth (0, 0) st.shares k).2
     (runOf 1).shares = a.shares ∧ ran (firstShare o (runOf 1)) < 128 ∧
     run.shares ≠ a.shares ∧ o.shares = run.shares ∧ rotatedCore s 2 1 (ran (firstShare a o)) < 128 ∧
     (runOf 2).shares ≠ a.shares ∧ o.shares ≠ (runOf 2).shares ∧ o.shares ≠ a.shares ∧ s.fab.jobs = [] ∧ stepTiles st ≠ []) ∧
    (let a := runOf (nth 0 (originalRun (suspicion []) (suspect [])).shares 0)
     let st := suspect [a]
     let o := originalRun (suspicion [a]) st
     findStep (suspicion [a]) 1 7 = some st ∧ nextReplay (suspicion [a]) 2 = some st ∧ (runOf 2).shares ≠ a.shares ∧
     o.shares ≠ (runOf 2).shares ∧ o.shares = a.shares ∧
     rotatedCore (suspicion [a]) 2 2 ((nth (0, 0) st.shares (firstShare (runOf 2) o)).2) < 128) ∧
    (let x := { plainSet with st := .current }
     let s := setJob { net with psets := [x] } 3 { getJob net 3 with check := 2, steps := 1000 }
     (getJob s 3).st = .active ∧ (getJob s 3).check = 2 ∧ ((getJob s 3).checkNo + 1) * herdN s 3 ≤ (getJob s 3).steps ∧
     herdSet s (getJob s 3).part.toNat = some x ∧ herdOf s 3 (getJob s 3).checkNo = none ∧ 1 < (getJob s 3).members.length ∧
     (windowPlates x ((getJob s 3).checkNo % herdWindows x)).any (fun i => (getPlate s x.part x.setId i).reload) = false ∧
     s.mem.bad = [] ∧ s.err.armed = []) ∧
    (delivB net 2 pkt = true ∧ jobById net 2 pkt.job = some 3 ∧ herdOf net 3 0 = none ∧
     (getJob net 3).members.zipIdx.find? (fun e => e.1 == pkt.src) = some (pkt.src, 1) ∧ 1 < (getJob net 3).members.length) ∧
    (let h : Herd := { job := 3, check := 0, window := 0, digests := [(0, 7)] }
     let s := { net with herds := [h] }
     let d : W256 := 7
     herdOf s 3 0 = some h ∧ (tset h.digests 1 d).length = (getJob s 3).members.length ∧ (∀ e ∈ tset h.digests 1 d, e.2 = d) ∧
     (tfind (tset h.digests 1 d) (getJob s 3).rank.toNat).isSome = true) := by
  decide +kernel

/-! ## Partners -/

/-- Session 600 as a Fixed session of partition 2 whose partner is endpoint 5, with a mapped page; ring 4 is a Fixed ring, and endpoint
5 shares job 3. `f` changes the record. -/
def pairUp (f : Sess → Sess) : State :=
  let s := { mapped (cmdOf 0x04 0) with cmds := [], fab := net.fab, pins := up.pins, hif := up.hif, mgc := up.mgc, dev := up.dev,
                                        time := { up.time with ftime := 10 ^ 12 } }
  let s := setPart s 2 { getPart s 2 with epValid := true, endpoint := 0x10 }
  let s := setRing s 4 { enable := true, st := .running, cls := clsFixed, part := 2, log2size := 4, jKey := some (2, 0, 0) }
  setSess s 600 (f { getSess s 600 with cls := clsFixed, partner := 5, partnerRing := 4, partnerHandle := 77, pstate := 1 })

/-- The handle as a word. -/
def hw : W32 := BitVec.ofNat 32 hdl

/-- Whether a packet of endpoint 5 is delivered and names session 600. -/
def namedB (s : State) : Bool := delivB s 2 pkt && decide (msgSess s 2 pkt.src hw = some 600)

/-- A pairing request on a ring. -/
def pairReq (r : BitVec 15) : PairReq :=
  { handle := 77, seed := 1, pin := 0x1002, feed := 3, ring := r, pages := 0, quota := 0, position := 4, openDig := 0 }

/-- The record of an empty page 0, with a digest. -/
def emptyRec (d : W256) : PageRec :=
  { digest := d, bitmap := 0, id := 0, kind := 1, enc := false, sumv := false, summary := [], payload := [] }

theorem witness_PartnersPairAndExpose :
    (let s := pairUp id
     delivB s 2 pkt = true ∧ canPair (reclaim s 2) 2 (pairReq 9) = false ∧ canPair (reclaim s 2) 2 (pairReq 4) = true ∧
     (nextIndex (reclaim s 2) 2).isSome = true) ∧
    (∀ op ∈ [0x01, 0x05],
      let c := { cmdOf op 0 with wait := .pairing, handle := hw, started := true, cls := clsFixed }
      let s := { pairUp (fun x => { x with pstate := 0 }) with cmds := [c] }
      namedB s = true ∧ pairingCmd s hw = some c ∧ findCmd s c.ring c.seq = some c ∧ (getSess s 600).pstate = 0 ∧ s.exps = [] ∧
      (getSess s 600).gen.toNat < 16383 ∧ sameFeed s.pwr.feedId 0 = true ∧ allowsFeed c = false ∧ sameFeed s.pwr.feedId 3 = false ∧
      (opcodeOf c = 0x01 ∨ op = 0x05 ∧ opcodeOf c ≠ 0x01)) ∧
    (let s := pairUp (fun x => { x with shadow := true })
     namedB s = true ∧ (getSess s 600).shadow = true ∧ s.exps = [] ∧ (getSess s 600).gen.toNat < 16383 ∧ (getSess s 600).badPages = [] ∧
     (5 : W64).toNat ≠ fullSeq ∧ recOk (emptyRec 0) [] = false) ∧
    (let s := pairUp (fun x => { x with shadow := true })
     let r := emptyRec (recDigest 0 0 [] [] false)
     recOk r r.payload = true ∧ sessGeo s 600 = some (geoOf geoSet.geo) ∧
     ∃ u, placeShadow (reclaim s 2) 600 (geoOf geoSet.geo) r = some u ∧ (getSess u 600).pendStep = none) ∧
    (imageFrom (pairUp id) 2 pkt.src = true ∧ (getPart (pairUp id) 2).images = [] ∧
     (growImage (reclaim (pairUp id) 2) 2 [] (imageFrames 1)).isSome = true) ∧
    (let st : StepRec := { ring := 1, seq := 5, part := 2, sess := some 600, phase := .exposing, suspect := true, toSend := [(0x59FFFE, 0, 3)] }
     let s := { pairUp id with steps := [st] }
     namedB s = true ∧ (getSess s 600).shadow = false ∧ (5 : W64).toNat ≠ fullSeq ∧ sendingStep s 600 5 = some st ∧
     s.steps.find? (fun y => y.sess == some 600 && y.seq == 5 && (y.phase == .exposing || y.phase == .proving)) = some st ∧
     st.proven = false ∧ decide ((1 : W256) = stepDigest s st) = false ∧ tget 0 (getSess s 600).badPages 3 < 2 ∧
     askedPage s 600 3 = some (0x59FFFE, 0)) ∧
    (let c := { cmdOf 0x01 0 with wait := .pairing, handle := hw, started := true, cls := clsFixed }
     let s := { pairUp id with cmds := [c] }
     namedB s = true ∧ s.exps = [] ∧ pairingCmd s (handleOf 600 (getSess s 600)) = some c ∧ findCmd s c.ring c.seq = some c ∧ opcodeOf c ≠ 0x33) ∧
    (let s := pairUp (fun x => { x with badPages := [(3, 2)] })
     namedB s = true ∧ 2 ≤ tget 0 (getSess s 600).badPages 3 ∧ isLatched s uHub 0 = false ∧ underReset s .hub = false ∧ s.steps = [] ∧ s.exps = [] ∧ s.cmds = []) := by
  refine ⟨by decide +kernel, by decide +kernel, by decide +kernel, ⟨by decide +kernel, by decide +kernel, ?_⟩,
    ⟨by decide +kernel, by decide +kernel, ?_⟩, by decide +kernel, by decide +kernel, by decide +kernel⟩
  · have r : decide ((usedFrames (reclaim (pairUp (fun x => { x with shadow := true })) 2)).length + 0 ≤ 1000000) = true := by decide +kernel
    have w : (walk (reclaim (pairUp (fun x => { x with shadow := true })) 2) (getSess (reclaim (pairUp (fun x => { x with shadow := true })) 2) 600)
      (geoOf geoSet.geo) (bits (0 : W64) 63 48) (bits (0 : W64) 47 40) (bits (0 : W64) 39 8)).isSome = true := by decide +kernel
    obtain ⟨e, w⟩ := some_of _ w
    obtain ⟨u, a, b⟩ := placeShadow_some _ 600 (geoOf geoSet.geo) (emptyRec (recDigest 0 0 [] [] false)) e (show _ ≤ _ from of_decide_eq_true r) rfl w
    refine ⟨u, a, ?_⟩
    show (tget ({} : Sess) u.sess 600).pendStep = none
    rw [b]
    decide +kernel
  · have r : decide ((usedFrames (reclaim (pairUp id) 2)).length + imageFrames 1 ≤ 1000000) = true := by decide +kernel
    exact growImage_some _ 2 [] _ (show _ ≤ _ from of_decide_eq_true r)

theorem witness_KeepalivesAndTakeover :
    (let s := pairUp id
     let x := getSess s 600
     paired x = true ∧ x.st = .open_ ∧ x.yield_ = false ∧ setBroken s x = false ∧ x.sentAt + 1050000 ≤ s.time.ftime ∧
     x.heard + fabricTicks s x < s.time.ftime ∧ isLatched s uHub 0 = false ∧ underReset s .hub = false ∧ s.steps = [] ∧ s.exps = [] ∧ s.cmds = []) ∧
    (let s := pairUp (fun x => { x with shadow := true })
     namedB s = true ∧ (getSess s 600).shadow = true) ∧
    (let c := { cmdOf 0x01 0 with wait := .pairing, handle := hw, started := true, cls := clsFixed }
     let s := { pairUp id with cmds := [c] }
     c.handle = handleOf 600 (getSess s 600) ∧ opcodeOf c ≠ 0x33) ∧
    (∀ b ∈ [true, false],
      let s := pairUp (fun x => { x with shadow := true, reopenAt := some 0 })
      let s := if b then s else setRing s 4 { getRing s 4 with cqHead := 1 }
      let x := getSess s 600
      let y := getRing s x.partnerRing.toNat
      x.shadow = true ∧ x.st = .open_ ∧ x.heard + 2 * fabricTicks s x ≤ s.time.ftime ∧ x.reopenAt = some 0 ∧ 0 + 1050000 ≤ s.time.ftime ∧
      slotFree y = b ∧ y.adoptQ = [] ∧ x.notices = [] ∧ findCmd s x.partnerRing.toNat (nextSeq y) = none ∧
      (getJob s 3).st ≠ .idle ∧ (getJob s 3).part.toNat = x.part.toNat ∧ (getJob s 3).members.findIdx? (· == x.partner) = some 1) ∧
    (let c := { cmdOf 0x04 (hdl * 2 ^ 480) with cls := clsFixed }
     let s := { pairUp id with cmds := [c] }
     namedB s = true ∧ namedB (pairUp id) = true ∧ (getSess s 600).shadow = false ∧ s.exps = [] ∧ s.launches = [] ∧
     (getSess s 600).gen.toNat < 16383 ∧ handleIn c = some hw ∧ s.steps = []) ∧
    (delivB (pairUp id) 2 pkt = true ∧ msgSess (pairUp id) 2 pkt.src (hw + 1) = none) := by
  decide +kernel

/-! ## The whole machine -/

theorem witness_StepTakesTheFrontCommand : State.reset.pins.pwrGood = false ∧ (pairUp id).pins.pwrGood = true := by decide +kernel

theorem witness_EveryStepKeepsMemoriesCanonical :
    let s := { gathering with pending := [.gatherWindowClose 2] }
    (Memory.wf s.mem.near = true ∧ Memory.wf s.mem.far = true ∧ Memory.wf s.hif.host = true ∧ s.mem.near ≠ []) ∧ ∃ t, step s = .next t :=
  ⟨by decide +kernel, _, rfl⟩

theorem witness_IllegalInstructionsStopTheCore :
    let i : Instr := .setp 127 h0 (sq 0 0 0 8 0 false)
    (coreOfInstr i = some 127 ∧ (illegalField i).isSome = true ∧ (onCore run0).fab.jobs = [] ∧ isLatched (onCore run0) uCore 127 = false ∧
     underReset (onCore run0) (.core 127) = false) ∧ Calm (onCore run0) 127 :=
  ⟨by decide +kernel, calm_of _ _ (by decide +kernel)⟩

theorem witness_ControlRowsLeaveWorkAndMemory : ∃ t, exec (.portSignalDetect 5 0x81) (portIn .detect) = .next t := ⟨_, rfl⟩

theorem witness_CoreInstructionsActOnTheirCore :
    let i : Instr := .add 127 h0 (sq 31 1 31 0 5 true)
    (encodeWord i).isSome = true ∧ coreOfInstr i = some 127 ∧ (getCore (onCore run0) 127).ctx = some ⟨9, 2, 0x40000001, 0x1002, 1, 7⟩ ∧
    stepJob (onCore run0) 1 7 = none ∧ ∃ t, exec i (onCore run0) = .next t :=
  ⟨by decide +kernel, by decide +kernel, by decide +kernel, by decide +kernel, _, rfl⟩

theorem witness_KernelWordsDecodeToTheirInstruction :
    let i : Instr := .add 127 h0 (sq 31 1 31 0 5 true)
    (encodeWord i).isSome = true ∧ coreOfInstr i = some 127 := by
  decide +kernel

/-! ## Values that stand outside the model -/

-- The check value of CRC-32C for the digits 1 to 9.
theorem test_crc32c : crc32c [0x31, 0x32, 0x33, 0x34, 0x35, 0x36, 0x37, 0x38, 0x39] = 0xE3069283 := by decide +kernel

-- SHA3-256 of "abc", from FIPS 202's examples: the first four bytes.
theorem test_sha3_abc : (sha3 [0x61, 0x62, 0x63]).take 4 = [0x3A, 0x98, 0x5D, 0xA7] := by decide +kernel

/-! ## Whole steps -/

/-- The module with its pins asserted: PWR_EN, the ready power stage, PERST_N. -/
def poweredBy (l : List Instr) : State :=
  l.foldl (fun s i => match exec i s with | .next t => t | _ => s) State.reset

theorem test_power_good : (poweredBy [.pwrEnAssert, .powerStageReady]).pins.pwrGood = true ∧
    (poweredBy [.powerStageReady]).pins.pwrGood = false := by decide +kernel

-- R458: the stage starts only once it has been off long enough.
theorem test_power_off_time : (poweredBy [.pwrEnAssert, .powerStageReady, .pwrEnDeassert, .pwrEnAssert]).pins.stage = .off ∧
    (poweredBy [.pwrEnAssert, .powerStageReady, .pwrEnDeassert, .pwrEnAssert, .powerOffTimeElapsed]).pins.stage = .ramp := by decide +kernel

theorem test_step_front : ∃ t, step { State.reset with pending := [.pwrEnAssert, .idcode] } = .next t ∧ t.pending = [.idcode] ∧
    t.pins.pwrEn = true := ⟨_, rfl, by decide +kernel, by decide +kernel⟩

theorem test_no_unit : exec (.partitionSetupComplete 8) State.reset = .fault .noSuchUnit := rfl

end Sys2Proof.Tests
end

section
/-! SUPPORT. Ports under a change of state (R310, R319): whatever a port that enters or leaves ACTIVE sends again, no port's
ENABLE or STATE changes by it. -/

namespace Sys2Proof.Machine

open Sys2Proof

/-! ## The port that sends -/

/-- A port that stands as another does: the same ENABLE and STATE. -/
def SameLink (x y : Port) : Prop := y.enable = x.enable ∧ y.st = x.st

theorem SameLink.refl (x : Port) : SameLink x x := ⟨rfl, rfl⟩

theorem SameLink.trans {x y z : Port} (a : SameLink x y) (b : SameLink y z) : SameLink x z :=
  ⟨b.1.trans a.1, b.2.trans a.2⟩

/-- The replay after a retrain changes neither ENABLE nor STATE. -/
theorem drainReplay_sameLink (n : Nat) : ∀ x : Port, SameLink x (drainReplay x n).1 := by
  induction n with
  | zero => exact SameLink.refl
  | succ n ih =>
    intro x
    simp only [drainReplay]
    split
    · exact .refl x
    · split
      · exact .refl x
      · split
        · exact .refl x
        · exact ih _

/-- The choice of what to send next counts turns; it changes neither ENABLE nor STATE. -/
theorem nextFlit_sameLink {weight : Nat → Nat} {may : List Nat} {x y : Port} {p v : Nat}
    (h : nextFlit weight may x = some (y, p, v)) : SameLink x y := by
  simp only [nextFlit] at h
  split at h
  · cases h
    exact .refl x
  · split at h
    · cases h
    · obtain ⟨_, _, e⟩ := Option.map_eq_some_iff.mp h
      cases e
      exact ⟨rfl, rfl⟩

/-- Sending the waiting flits changes neither ENABLE nor STATE. -/
theorem drainPort_sameLink (weight : Nat → Nat) (may : List Nat) (n : Nat) :
    ∀ x : Port, SameLink x (drainPort weight may x n).1 := by
  induction n with
  | zero => exact SameLink.refl
  | succ n ih =>
    intro x
    simp only [drainPort]
    split
    · exact .refl x
    · split
      · exact .refl x
      · rename_i h
        split
        · exact nextFlit_sameLink h
        · exact (nextFlit_sameLink h).trans (ih _)

/-! ## Every port of the device -/

/-- Every port stands as it did. -/
def LinksKept (s t : State) : Prop := ∀ k, SameLink (getPort s k) (getPort t k)

theorem LinksKept.refl (s : State) : LinksKept s s := fun _ => .refl _

theorem LinksKept.trans {s t u : State} (a : LinksKept s t) (b : LinksKept t u) : LinksKept s u := fun k => (a k).trans (b k)

/-- A change outside the ports keeps them. -/
theorem LinksKept.of_ports {s t : State} (h : t.fab.ports = s.fab.ports) : LinksKept s t := by
  intro k
  simp only [getPort, h]
  exact .refl _

/-- A port put back with its ENABLE and STATE keeps every port. -/
theorem linksKept_setPort {s : State} {p : Nat} {x : Port} (h : SameLink (getPort s p) x) : LinksKept s (setPort s p x) := by
  intro k
  by_cases e : k = p
  · subst e
    simpa only [getPort_setPort] using h
  · rw [getPort_setPort_other _ _ _ _ e]
    exact .refl _

/-- Steps that each keep the ports keep them together. -/
theorem linksKept_foldl {α : Type} {f : State → α → State} (hf : ∀ s x, LinksKept s (f s x)) (l : List α) :
    ∀ s, LinksKept s (l.foldl f s) := by
  induction l with
  | nil => exact LinksKept.refl
  | cons x l ih => exact fun s => (hf s x).trans (ih _)

theorem pumpPort_linksKept (s : State) (p : Nat) : LinksKept s (pumpPort s p) := by
  simp only [pumpPort]
  split
  · exact .refl s
  · refine LinksKept.trans (linksKept_setPort ?_) (.of_ports rfl)
    split
    · exact (drainReplay_sameLink _ _).trans (drainPort_sameLink _ _ _ _)
    · exact drainReplay_sameLink _ _

theorem emit_linksKept (s : State) (k : TxPkt) : LinksKept s (emit s k) := by
  simp only [emit, emitVia]
  split
  · refine LinksKept.trans ?_ (pumpPort_linksKept _ _)
    exact linksKept_setPort (s := { s with fab := { s.fab with tx := s.fab.tx ++ [k] } }) ⟨rfl, rfl⟩
  · exact .of_ports rfl

theorem resendChannel_linksKept (s : State) (c : TxChan) : LinksKept s (resendChannel s c) :=
  LinksKept.trans (.of_ports rfl) (linksKept_foldl emit_linksKept _ _)

/-- Recomputing the paths, with what it resends, changes no port's ENABLE or STATE (R319). -/
theorem repath_linksKept (s : State) : LinksKept s (repath s) := by
  refine linksKept_foldl (fun s c => ?_) _ s
  dsimp only
  split
  · exact .refl s
  · split
    · exact LinksKept.trans (.of_ports rfl) (resendChannel_linksKept _ c)
    · exact .of_ports rfl

/-! ## States of a port -/

/-- A port that enters a state is in it, its ENABLE as before. -/
theorem getPort_enterState (s : State) (p : Nat) (st : LinkState) :
    (getPort (enterState s p st) p).enable = (getPort s p).enable ∧ (getPort (enterState s p st) p).st = st := by
  simp only [enterState]
  split
  · obtain ⟨he, hs⟩ := repath_linksKept (setPort s p { getPort s p with st := st, since := s.time.ftime }) p
    rw [getPort_setPort] at he hs
    exact ⟨he, hs⟩
  · rw [getPort_setPort]
    exact ⟨rfl, rfl⟩

/-- A write of ENABLE is stored (R310). -/
theorem setPortEnable_enable (s : State) (p : Nat) (v : Bool) : (getPort (setPortEnable s p v) p).enable = v := by
  simp only [setPortEnable, toDetect]
  split
  · rw [(getPort_enterState _ _ _).1, getPort_setPort, getPort_setPort]
    rfl
  · split
    · rw [(getPort_enterState _ _ _).1, getPort_setPort, getPort_setPort]
      rfl
    · rw [getPort_setPort]

/-- A port disabled is DISABLED (R310). -/
theorem setPortEnable_false_st (s : State) (p : Nat) : (getPort (setPortEnable s p false) p).st = .disabled :=
  (getPort_enterState _ _ _).2

end Sys2Proof.Machine
end

section
/-! SUPPORT. Fields of registers, the settings of power and partitions, the map of BAR0 and a write at one of its offsets (R9,
R464 to R468). -/

namespace Sys2Proof.Machine

open Sys2Proof

/-! ## Fields of a number -/

theorem nbits_eq (x hi lo : Nat) : nbits x hi lo = x / 2 ^ lo % 2 ^ (hi + 1 - lo) := by
  rw [nbits, Nat.shiftRight_eq_div_pow]

/-- Bits of a word are those of its number. -/
theorem bits_eq_nbits {w : Nat} (x : BitVec w) (hi lo : Nat) : bits x hi lo = nbits x.toNat hi lo := rfl

/-- A field of one bit is 1 where the bit is set. -/
theorem nbits_single {w : Nat} (x : BitVec w) (i : Nat) : (nbits x.toNat i i == 1) = bit x i := by
  rw [nbits_eq, bit, Nat.testBit_eq_decide_div_mod_eq, Nat.add_sub_cancel_left, Nat.pow_one]
  rfl

/-- A field that lies inside another is read from it. -/
theorem nbits_inside (x n off hi lo : Nat) (h : hi < n) :
    nbits x (off + hi) (off + lo) = nbits (x / 2 ^ off % 2 ^ n) hi lo := by
  apply Nat.eq_of_testBit_eq
  intro i
  have hw : off + hi + 1 - (off + lo) = hi + 1 - lo := by omega
  simp only [nbits, hw, Nat.testBit_mod_two_pow, Nat.testBit_shiftRight, ← Nat.shiftRight_eq_div_pow]
  by_cases hin : i < hi + 1 - lo
  · have hn : lo + i < n := by omega
    simp [hin, hn, Nat.add_assoc]
  · simp [hin]

/-- The bits that were put read back. -/
theorem putBits_same (old off n v : Nat) : putBits old off n v / 2 ^ off % 2 ^ n = v % 2 ^ n := by
  cases n with
  | zero => simp [Nat.mod_one]
  | succ n =>
    have hf : nbits old (off + (n + 1) - 1) off = old / 2 ^ off % 2 ^ (n + 1) := by
      rw [nbits_eq]
      congr 2
      omega
    have hold : old / 2 ^ off % 2 ^ (n + 1) * 2 ^ off ≤ old :=
      Nat.le_trans (Nat.mul_le_mul_right _ (Nat.mod_le _ _)) (Nat.div_mul_le_self _ _)
    have hcut : (old - old / 2 ^ off % 2 ^ (n + 1) * 2 ^ off) / 2 ^ off = old / 2 ^ off - old / 2 ^ off % 2 ^ (n + 1) := by
      rw [Nat.mul_comm, Nat.sub_mul_div]
    rw [putBits, hf, Nat.add_mul_div_right _ _ (Nat.two_pow_pos off), hcut, Nat.add_mod,
      Nat.mod_eq_zero_of_dvd (Nat.dvd_sub_mod _), Nat.zero_add, Nat.mod_mod, Nat.mod_mod]

/-- A field inside the bits that were put is that of the value. -/
theorem nbits_putBits (old off n v hi lo : Nat) (h : hi < n) (hv : v < 2 ^ n) :
    nbits (putBits old off n v) (off + hi) (off + lo) = nbits v hi lo := by
  rw [nbits_inside _ n _ _ _ h, putBits_same, Nat.mod_eq_of_lt hv]

/-! ## Tables -/

/-- A table finds what was put at an index. -/
theorem tfind_tset_same {α : Type} (t : Tbl α) (k : Nat) (v : α) : tfind (tset t k v) k = some v := by
  induction t with
  | nil => simp [tset, tfind]
  | cons e t ih =>
    obtain ⟨a, x⟩ := e
    unfold tset
    split
    · simp [tfind]
    · split
      · simp [tfind]
      · rename_i h _
        simp [tfind, h, ih]

/-! ## Power -/

/-- An announcement of scaled shares changes the announcements alone (R237). -/
theorem noteShares_eq (s : State) :
    noteShares s = { s with pwr := { s.pwr with announced := (noteShares s).pwr.announced } } := by
  simp only [noteShares]
  split <;> rfl

/-- PWR_CAP stores its value clamped to 300 W to 700 W (R11, R426). -/
theorem writeCap_cap (s : State) (v : Nat) : (writeCap s v).pwr.cap.toNat = Nat.max 300 (Nat.min 700 (v % 1024)) := by
  have hc : Nat.max 300 (Nat.min 700 (v % 1024)) < 2 ^ 10 := by
    simp only [Nat.max_def, Nat.min_def]
    split <;> split <;> omega
  rw [writeCap, noteShares_eq]
  exact Nat.mod_eq_of_lt hc

/-- A write of PWR_CAP changes the cap and the announcements alone. -/
theorem writeCap_eq (s : State) (v : Nat) :
    writeCap s v = { s with pwr := { s.pwr with cap := (writeCap s v).pwr.cap, announced := (writeCap s v).pwr.announced } } := by
  simp only [writeCap]
  rw [noteShares_eq]

/-- A wake event begins the exit of a partition in P2 or deeper (R424). -/
theorem getPart_wakePart (s : State) (p : Nat) :
    getPart (wakePart s p) p = { getPart s p with waking := (getPart s p).waking || decide (2 ≤ (getPart s p).pstate) } := by
  simp only [wakePart]
  split
  · rename_i h
    rcases (Bool.or_eq_true _ _).mp h with hp | hw
    · have : ¬ 2 ≤ (getPart s p).pstate := by simpa using hp
      simp [this]
    · rw [hw, Bool.true_or, ← hw]
  · rename_i h
    have h2 : 2 ≤ (getPart s p).pstate := by
      simp only [Bool.or_eq_true, decide_eq_true_eq, not_or] at h
      omega
    simp only [h2, decide_true, Bool.or_true]
    split <;> exact getPart_setPart s p { getPart s p with waking := true }

/-- A wake event changes no other partition. -/
theorem getPart_wakePart_other (s : State) (p k : Nat) (h : k ≠ p) : getPart (wakePart s p) k = getPart s k := by
  simp only [wakePart]
  split
  · rfl
  · split <;> exact getPart_setPart_other s p k { getPart s p with waking := true } h

/-- A tolerance is stored, at most one second, and a lowering wakes a partition that sleeps (R284, R424, R425). -/
theorem getPart_setTol (s : State) (p us : Nat) :
    getPart (setTol s p us) p =
      { getPart s p with
        tol := Nat.min us 1000000
        waking := (getPart s p).waking || decide (Nat.min us 1000000 < (getPart s p).tol ∧ 2 ≤ (getPart s p).pstate) } := by
  simp only [setTol]
  split
  · rename_i h
    rw [getPart_wakePart, getPart_setPart]
    simp [h]
  · rename_i h
    rw [getPart_setPart]
    simp [h]

/-- A tolerance is stored for its partition alone. -/
theorem getPart_setTol_other (s : State) (p us k : Nat) (h : k ≠ p) : getPart (setTol s p us) k = getPart s k := by
  simp only [setTol]
  split
  · rw [getPart_wakePart_other _ _ _ h, getPart_setPart_other _ _ _ _ h]
  · rw [getPart_setPart_other _ _ _ _ h]

/-! ## The map of BAR0 -/

theorem regAt_jnlFirst : regAt 0x340008 = some .jnlFirst := by decide

theorem regAt_mgcArg : regAt 0x350008 = some .mgcArg := by decide

theorem regAt_devSerial : regAt 0x8 = some .devSerial := by decide

theorem regAt_fabTime : regAt 0x320100 = some .fabTime := by decide

/-- Both halves of SRV_CFG are at its offset (R292, R471). -/
theorem regAt_srvCfg : ∀ n, n < 8 → regAt (0x800 + 16 * n) = some (.srvCfg n) ∧ regAt (0x800 + 16 * n + 8) = some (.srvCfg n) := by
  decide

/-! ## A write of 64 bits -/

/-- Nothing is stored while BAR0 does not answer (R435). -/
theorem writeReg_down (s : State) (w : Writer) (off width v : Nat) (h : barUp s = false) : writeReg s w off width v = s := by
  simp [writeReg, h]

/-- 64 bits inside one register are written at once (R465). -/
theorem writeReg_64 (s : State) (w : Writer) (off v : Nat) (r : Reg) (hb : barUp s = true) (ha : accessOk off 64 = true)
    (hr : regAt off = some r) (hin : off + 8 ≤ regBase r + regSize r / 8) : writeReg s w off 64 v = writePiece s w off 8 v := by
  simp [writeReg, hb, ha, hr, hin]

/-- A register that is PF0's keeps its value when the MGC writes (R464). -/
theorem writePiece_mgc (s : State) (o n v : Nat) (r : Reg) (hr : regAt o = some r) (hp : pf0Only r = true) :
    writePiece s .mgc o n v = s := by
  simp [writePiece, hr, hp]

/-- A write of a whole 64-bit register by one who may write it takes the value. -/
theorem writePiece_whole (s : State) (w : Writer) (v : Nat) (r : Reg) (hr : regAt (regBase r) = some r) (hs : regSize r = 64)
    (hw : (w == .mgc && pf0Only r) = false) : writePiece s w (regBase r) 8 v = regWrite r s v := by
  simp only [writePiece, hr, hw, hs, Bool.false_eq_true, if_false, Nat.lt_irrefl, if_true, Nat.reduceMul]

/-- A write of 64 bits to a register wider than 64 goes through the writer's staging copy (R466). -/
theorem writePiece_wide (s : State) (w : Writer) (o v : Nat) (r : Reg) (hr : regAt o = some r) (hs : 64 < regSize r)
    (hw : (w == .mgc && pf0Only r) = false) :
    writePiece s w o 8 v =
      wideWrite s w (regBase r) (regSize r) (wideReset r) (8 * (o - regBase r)) 64 v (regWrite r) (fun s => regRead s r) := by
  simp only [writePiece, hr, hw, hs, Bool.false_eq_true, if_false, if_true, Nat.reduceMul]

/-- What a writer's staging copy of a register becomes when 64 bits are put into it (R466). -/
def stagedWith (s : State) (w : Writer) (r : Reg) (off v : Nat) : Nat :=
  putBits (((tfind (stages s w) (regBase r)).map BitVec.toNat).getD (wideReset r)) off 64 v

/-- The upper half of a 128-bit register commits the whole of it (R466). -/
theorem writePiece_upper (s : State) (w : Writer) (v : Nat) (r : Reg) (hr : regAt (regBase r + 8) = some r) (hs : regSize r = 128)
    (hw : (w == .mgc && pf0Only r) = false) :
    writePiece s w (regBase r + 8) 8 v =
      putStage (regWrite r s (stagedWith s w r 64 v)) w (regBase r) (regRead (regWrite r s (stagedWith s w r 64 v)) r) := by
  rw [writePiece_wide s w _ v r hr (by omega) hw, Nat.add_sub_cancel_left, hs]
  rfl

/-- The lower half of a 128-bit register is staged (R466). -/
theorem writePiece_lower (s : State) (w : Writer) (v : Nat) (r : Reg) (hr : regAt (regBase r) = some r) (hs : regSize r = 128)
    (hw : (w == .mgc && pf0Only r) = false) :
    writePiece s w (regBase r) 8 v = putStage s w (regBase r) (stagedWith s w r 0 v) := by
  rw [writePiece_wide s w _ v r hr (by omega) hw, Nat.sub_self, hs]
  rfl

@[simp] theorem getPart_putStage (s : State) (w : Writer) (b v k : Nat) : getPart (putStage s w b v) k = getPart s k := by
  cases w <;> rfl

/-! ## REGISTER_WRITE -/

theorem exec_registerWrite (w : Writer) (off width : Nat) (v : W64) (s : State) :
    exec (.registerWrite w off width v) s = .next (writeReg s w off width v.toNat) := rfl

section Write64

variable {s : State} {w : Writer} {r : Reg} (v : W64) (hb : barUp s = true)

include hb

/-- 64 bits of the MGC to a 64-bit register that is PF0's store nothing (R464). -/
theorem registerWrite_mgc (hp : pf0Only r = true) (hs : regSize r = 64) (hr : regAt (regBase r) = some r)
    (ha : accessOk (regBase r) 64 = true) : exec (.registerWrite .mgc (regBase r) 64 v) s = .next s := by
  rw [exec_registerWrite, writeReg_64 s .mgc _ _ r hb ha hr (by omega), writePiece_mgc s _ _ _ r hr hp]

variable (hw : (w == .mgc && pf0Only r) = false)

include hw

/-- 64 bits to a 64-bit register that the writer may write are its new value (R465). -/
theorem registerWrite_whole (hs : regSize r = 64) (hr : regAt (regBase r) = some r) (ha : accessOk (regBase r) 64 = true) :
    exec (.registerWrite w (regBase r) 64 v) s = .next (regWrite r s v.toNat) := by
  rw [exec_registerWrite, writeReg_64 s w _ _ r hb ha hr (by omega), writePiece_whole s w _ r hr hs hw]

/-- The upper half of a 128-bit register commits the whole of it (R466). -/
theorem registerWrite_upper (hs : regSize r = 128) (hr : regAt (regBase r + 8) = some r) (ha : accessOk (regBase r + 8) 64 = true) :
    exec (.registerWrite w (regBase r + 8) 64 v) s =
      .next (putStage (regWrite r s (stagedWith s w r 64 v.toNat)) w (regBase r)
        (regRead (regWrite r s (stagedWith s w r 64 v.toNat)) r)) := by
  rw [exec_registerWrite, writeReg_64 s w _ _ r hb ha hr (by omega), writePiece_upper s w _ r hr hs hw]

/-- The lower half of a 128-bit register is staged (R466). -/
theorem registerWrite_lower (hs : regSize r = 128) (hr : regAt (regBase r) = some r) (ha : accessOk (regBase r) 64 = true) :
    exec (.registerWrite w (regBase r) 64 v) s = .next (putStage s w (regBase r) (stagedWith s w r 0 v.toNat)) := by
  rw [exec_registerWrite, writeReg_64 s w _ _ r hb ha hr (by omega), writePiece_lower s w _ r hr hs hw]

end Write64

end Sys2Proof.Machine
end

section
/-! SUPPORT. The statement on register writes (R236, R284, R310, R426, R464 to R468). -/

namespace Sys2Proof.Machine

open Sys2Proof

/-! ## PART_MODE, PWR_CAP, PWR_TOL and FAB_PORT -/

theorem exec_partModeWrite (w : Writer) (v : W32) (s : State) :
    exec (.partModeWrite w v) s = .next (if barUp s then writeMode s v.toNat else s) := rfl

theorem exec_pwrCapWrite (w : Writer) (v : W32) (s : State) :
    exec (.pwrCapWrite w v) s = .next (if barUp s then writeCap s v.toNat else s) := rfl

theorem exec_pwrTolWrite (w : Writer) (p : Nat) (u : W64) (s : State) :
    exec (.pwrTolWrite w p u) s =
      if 8 ≤ p then .fault .noSuchUnit else .next (if barUp s && w == .pf0 then setTol s p (bits u 19 0) else s) := rfl

theorem exec_fabPortWrite (w : Writer) (p : Nat) (u : W64) (s : State) :
    exec (.fabPortWrite w p u) s = if 6 ≤ p then .fault .noSuchUnit else .next (if barUp s then writePort p s u.toNat else s) := rfl

/-- PART_MODE is stored while every entry is OFF (R236). -/
theorem writeMode_off (s : State) (v : W32) (h : ∀ n, n < 8 → (getPart s n).st = .off) :
    writeMode s v.toNat = { s with dev := { s.dev with isolate := bit v 0 } } := by
  have hall : (List.range 8).all (fun n => (getPart s n).st == .off) = true := by simpa [List.all_eq_true] using h
  rw [writeMode, if_pos hall, nbits_single]

/-- PART_MODE keeps its value while an entry is not OFF (R236). -/
theorem writeMode_busy (s : State) (v n : Nat) (hn : n < 8) (h : (getPart s n).st ≠ .off) : writeMode s v = s := by
  have hall : ¬ (List.range 8).all (fun n => (getPart s n).st == .off) = true := fun a =>
    h (by simpa using List.all_eq_true.mp a n (List.mem_range.mpr hn))
  rw [writeMode, if_neg hall]

/-- PWR_TOL of PF0 stores the tolerance of its partition, and a lowering wakes a partition that sleeps. -/
theorem pwrTolWrite_pf0 (s : State) (p : Nat) (u : W64) (hb : barUp s = true) (hp : p < 8) :
    ∃ t, exec (.pwrTolWrite .pf0 p u) s = .next t ∧ (getPart t p).tol = Nat.min (bits u 19 0) 1000000 ∧
      (getPart t p).st = (getPart s p).st ∧ (∀ k, k ≠ p → getPart t k = getPart s k) ∧
      ((getPart t p).tol < (getPart s p).tol → 2 ≤ (getPart s p).pstate → (getPart t p).waking = true) := by
  refine ⟨setTol s p (bits u 19 0), ?_, ?_⟩
  · rw [exec_pwrTolWrite, if_neg (Nat.not_le.mpr hp), hb]
    rfl
  · rw [getPart_setTol]
    refine ⟨rfl, rfl, fun k hk => getPart_setTol_other s p _ k hk, fun hlow hsleep => ?_⟩
    exact Bool.or_eq_true_iff.mpr (.inr (decide_eq_true ⟨hlow, hsleep⟩))

theorem pwrTolWrite_mgc (s : State) (p : Nat) (u : W64) (hp : p < 8) : exec (.pwrTolWrite .mgc p u) s = .next s := by
  rw [exec_pwrTolWrite, if_neg (Nat.not_le.mpr hp), show (Writer.mgc == .pf0) = false from rfl, Bool.and_false,
    if_neg Bool.false_ne_true]

/-- FAB_PORT takes a change of ENABLE, and a write that leaves ENABLE as it is changes nothing. -/
theorem writePort_eq (p : Nat) (s : State) (u : W64) :
    writePort p s u.toNat = if (getPort s p).enable = bit u 11 then s else setPortEnable s p (bit u 11) := by
  simp only [writePort, nbits_single, beq_iff_eq]

/-- FAB_PORT stores ENABLE, and a port disabled is DISABLED. -/
theorem fabPortWrite_enable (s : State) (w : Writer) (p : Nat) (u : W64) (hb : barUp s = true) (hp : p < 6) :
    ∃ t, exec (.fabPortWrite w p u) s = .next t ∧ (getPort t p).enable = bit u 11 ∧ (bit u 11 = (getPort s p).enable → t = s) ∧
      (bit u 11 = false → (getPort s p).enable = true → (getPort t p).st = .disabled) := by
  refine ⟨_, by rw [exec_fabPortWrite, if_neg (Nat.not_le.mpr hp), if_pos hb, writePort_eq], ?_, fun h => if_pos h.symm,
    fun hoff hon => ?_⟩
  · split
    · assumption
    · exact setPortEnable_enable s p _
  · rw [hoff, if_neg (by simp [hon])]
    exact setPortEnable_false_st s p

/-! ## SRV_CFG at its offset -/

theorem accessOk_srvCfg : ∀ n, n < 8 → accessOk (0x800 + 16 * n) 64 = true ∧ accessOk (0x800 + 16 * n + 8) 64 = true := by
  decide

/-- The upper half of SRV_CFG stores its fields, clamped to their ranges, in its partition alone (R292, R466). -/
theorem registerWrite_srvCfg_upper (s : State) (n : Nat) (v : W64) (hb : barUp s = true) (hn : n < 8) :
    ∃ t, exec (.registerWrite .pf0 (0x800 + 16 * n + 8) 64 v) s = .next t ∧
      (getPart t n).gatherUs.toNat = Nat.min 1000 (bits v 63 54) ∧ (getPart t n).timedPct.toNat = Nat.min 100 (bits v 53 47) ∧
      (getPart t n).milkMin.toNat = Nat.min 1440 (bits v 46 36) ∧ (∀ k, k ≠ n → getPart t k = getPart s k) := by
  have hfield : ∀ hi lo, hi < 64 →
      nbits (stagedWith s .pf0 (.srvCfg n) 64 v.toNat) (64 + hi) (64 + lo) = bits v hi lo :=
    fun hi lo h => nbits_putBits _ _ _ _ _ _ h v.isLt
  have hclamp : ∀ m a b : Nat, m < 2 ^ b → Nat.min m a % 2 ^ b = Nat.min m a :=
    fun m a b h => Nat.mod_eq_of_lt (Nat.lt_of_le_of_lt (Nat.min_le_left m a) h)
  refine ⟨_, registerWrite_upper (r := .srvCfg n) v hb rfl rfl (regAt_srvCfg n hn).2 (accessOk_srvCfg n hn).2, ?_⟩
  simp only [getPart_putStage, regWrite, writeSrv, getPart_setPart, BitVec.toNat_ofNat]
  refine ⟨?_, ?_, ?_, fun k hk => getPart_setPart_other _ _ _ _ hk⟩
  · rw [hfield 63 54 (by omega), hclamp _ _ _ (by omega)]
  · rw [hfield 53 47 (by omega), hclamp _ _ _ (by omega)]
  · rw [hfield 46 36 (by omega), hclamp _ _ _ (by omega)]

/-- The lower half of SRV_CFG changes the writer's staging copy alone (R466). -/
theorem registerWrite_srvCfg_lower (s : State) (n : Nat) (v : W64) (hb : barUp s = true) (hn : n < 8) :
    ∃ t, exec (.registerWrite .pf0 (0x800 + 16 * n) 64 v) s = .next t ∧ t = { s with stagePf0 := t.stagePf0 } ∧
      (tfind t.stagePf0 (0x800 + 16 * n)).map (fun x => bits x 63 0) = some v.toNat := by
  have hlow : ∀ x : Nat, bits (BitVec.ofNat 256 x) 63 0 = x / 2 ^ 0 % 2 ^ 64 := by
    intro x
    rw [bits_eq_nbits, nbits_eq, BitVec.toNat_ofNat]
    omega
  refine ⟨_, registerWrite_lower (r := .srvCfg n) v hb rfl rfl (regAt_srvCfg n hn).1 (accessOk_srvCfg n hn).1, rfl, ?_⟩
  show (tfind (tset _ (0x800 + 16 * n) _) (0x800 + 16 * n)).map _ = _
  rw [tfind_tset_same, Option.map_some, hlow, stagedWith, putBits_same, Nat.mod_eq_of_lt v.isLt]

/-! ## The statement -/

/-- Settles O29: each register by the rule of its write; the writes at an offset by the map of BAR0 and the fields that a
staging copy takes. -/
theorem registersStoreTheirValues : Obligations.RegistersStoreTheirValues := by
  unfold Obligations.RegistersStoreTheirValues
  refine ⟨fun s w p v u hb => ?rows, fun s n v hn => ⟨fun hb w off width => ?down, fun hb => ?offsets⟩⟩
  case rows =>
    rw [exec_partModeWrite, exec_pwrCapWrite, if_pos hb, if_pos hb]
    exact ⟨fun h => ⟨_, rfl, writeMode_off s v h⟩, fun n hn h => congrArg _ (writeMode_busy s _ n hn h),
      ⟨_, rfl, writeCap_cap s v.toNat, writeCap_eq s v.toNat⟩, pwrTolWrite_pf0 s p u hb, pwrTolWrite_mgc s p u,
      fabPortWrite_enable s w p u hb⟩
  case down => rw [exec_registerWrite, writeReg_down s w off width _ hb]
  case offsets =>
    refine ⟨fun w => ⟨_, registerWrite_whole (r := .jnlFirst) v hb (Bool.and_false _) rfl regAt_jnlFirst rfl, ?jnl⟩,
      ⟨_, registerWrite_whole (r := .mgcArg) v hb rfl rfl regAt_mgcArg rfl, ?arg⟩,
      registerWrite_mgc (r := .mgcArg) v hb rfl rfl regAt_mgcArg rfl,
      fun w => registerWrite_whole (r := .devSerial) v hb (Bool.and_false _) rfl regAt_devSerial rfl,
      fun w => registerWrite_whole (r := .fabTime) v hb (Bool.and_false _) rfl regAt_fabTime rfl,
      registerWrite_srvCfg_upper s n v hb hn, registerWrite_srvCfg_lower s n v hb hn⟩
    case jnl | arg => simp only [regWrite, BitVec.ofNat_toNat, BitVec.setWidth_eq]

end Sys2Proof.Machine
end

section
/-! SUPPORT. Masks, tables under a map, and the record that stands among the exported ones of its queue (R333, R338, R340). -/

namespace Sys2Proof.Machine

open Sys2Proof Sys2Proof.Safety

/-! ## Masks and tables -/

/-- A mask with a bit set reads the new value there and the old mask elsewhere. -/
theorem bit_setBit {w : Nat} (x : BitVec w) (i k : Nat) (v : Bool) (hk : k < w) :
    bit (setBit x i v) k = if k = i then v else bit x k := by
  have hone : (BitVec.ofNat w (2 ^ i)).getLsbD k = decide (k = i) := by
    rw [BitVec.getLsbD_ofNat, Nat.testBit_two_pow, decide_eq_true hk, Bool.true_and, decide_eq_decide.mpr eq_comm]
  show (setBit x i v).getLsbD k = if k = i then v else x.getLsbD k
  cases v with
  | false =>
    rw [setBit, if_neg Bool.false_ne_true, BitVec.getLsbD_and, BitVec.getLsbD_not, hone, decide_eq_true hk]
    by_cases hik : k = i <;> simp [hik]
  | true =>
    rw [setBit, if_pos rfl, BitVec.getLsbD_or, hone]
    by_cases hik : k = i <;> simp [hik]

/-- A table whose values are all changed by one function reads that function of the old value. -/
theorem tget_map {α β : Type} (f : α → β) (d : α) (t : Tbl α) (k : Nat) :
    tget (f d) (t.map (fun e => (e.1, f e.2))) k = f (tget d t k) := by
  induction t with
  | nil => rfl
  | cons e t ih =>
    rw [List.map_cons, tget, tget, ih, apply_ite f]

/-! ## Records -/

/-- The record appended last is among the exported ones (R340). -/
theorem mem_exportRec (l : List Rec) (r : Rec) : r ∈ exportRec l r := by
  simp [exportRec]

/-- What filing a record in one queue makes of the state (R338 to R340). -/
def fileInto (r : Rec) (s : State) (n : Nat) : State :=
  let x := if s.dev.isolate && n != 8 then isolated s n r else (s, r)
  let e := x.1.err
  { x.1 with err := { e with queues := tset e.queues n (enqueue (tget {} e.queues n) x.2),
                             cper := tset e.cper n (exportRec (tget [] e.cper n) r) } }

/-- Filing a record exports it to each of its queues in turn. -/
theorem fileRec_cper (s : State) (r : Rec) (wide : Bool) :
    (fileRec s r wide).err.cper = ((queuesOf r wide).foldl (fileInto r) s).err.cper := by
  unfold fileRec
  dsimp only
  split
  · rw [sendMsix_only]
    rfl
  · rfl

/-- A temperature taken for a partition's copy of a record exports nothing (R237, R334). -/
theorem isolated_cper (s : State) (n : Nat) (r : Rec) : (isolated s n r).1.err.cper = s.err.cper := by
  unfold isolated readTemp readTemp.again
  dsimp only
  split
  · split <;> rfl
  · rfl

/-- Filing a record in one queue exports it there alone. -/
theorem fileInto_cper (r : Rec) (s : State) (n : Nat) :
    (fileInto r s n).err.cper = tset s.err.cper n (exportRec (tget [] s.err.cper n) r) := by
  unfold fileInto
  dsimp only
  split
  · rw [isolated_cper]
  · rfl

/-- A record filed in a list of queues is exported in each of them. -/
theorem mem_cper_foldl_fileInto (r : Rec) (n : Nat) (l : List Nat) (s : State) (h : n ∈ l ∨ r ∈ tget [] s.err.cper n) :
    r ∈ tget [] (l.foldl (fileInto r) s).err.cper n := by
  induction l generalizing s with
  | nil => simpa using h
  | cons m l ih =>
    refine ih (fileInto r s m) ?_
    rw [fileInto_cper]
    by_cases hnm : n = m
    · subst hnm
      rw [tget_tset_same]
      exact .inr (mem_exportRec _ _)
    · rw [tget_tset_other _ _ _ _ _ hnm]
      exact h.imp_left (fun hl => (List.mem_cons.mp hl).resolve_left hnm)

/-- The queue of its partition, or else of the device, is among the queues of a record (R338). -/
theorem part_mem_queuesOf (r : Rec) (wide : Bool) (hp : ∀ p ∈ r.part, p < 8) : r.part.getD 8 ∈ queuesOf r wide := by
  unfold queuesOf
  cases hr : r.part with
  | none => split <;> simp
  | some p =>
    have hlt : p < 8 := hp p hr
    split
    · simp only [Option.getD_some, List.mem_cons, List.not_mem_nil, or_false]
      omega
    · simp

/-- A record that is filed is exported in its queue. -/
theorem mem_cper_fileRec (s : State) (r : Rec) (wide : Bool) (hp : ∀ p ∈ r.part, p < 8) :
    r ∈ tget [] (fileRec s r wide).err.cper (r.part.getD 8) := by
  rw [fileRec_cper]
  exact mem_cper_foldl_fileInto r _ _ s (.inl (part_mem_queuesOf r wide hp))

/-- Whatever its latch, a raised record is exported in its queue under the next SEQ (R333, R338, R340, R344). -/
theorem raise_recorded (s : State) (r : Rec) (stops wide : Bool) (on : Option Domain) (hp : ∀ p ∈ r.part, p < 8) :
    Recorded s (raise s r stops wide on).st r.code r.syn.toNat r.part := by
  have hsyn : r.syn = BitVec.ofNat 16 r.syn.toNat := by rw [BitVec.ofNat_toNat, BitVec.setWidth_eq]
  unfold raise
  dsimp only
  split
  · exact ⟨_, mem_cper_fileRec _ _ _ hp, rfl, rfl, hsyn, rfl, rfl⟩
  · split
    · exact ⟨_, mem_cper_fileRec _ _ _ hp, rfl, rfl, hsyn, rfl, rfl⟩
    · split
      · exact ⟨_, mem_cper_fileRec _ _ _ hp, rfl, rfl, hsyn, rfl, rfl⟩
      · exact ⟨_, mem_cper_fileRec _ _ _ hp, rfl, rfl, hsyn, rfl, rfl⟩

end Sys2Proof.Machine
end

section
/-! SUPPORT. A module reset (R91, R266, R362, R364) and the levels of the sideband inputs (R362, R429, R430, R441, R460). -/

namespace Sys2Proof.Machine

open Sys2Proof Sys2Proof.Safety

/-! ## The module reset -/

theorem getRing_moduleWipe (s : State) (r : Nat) : getRing (moduleWipe s true) r = warmJournal 1 s.time.ftime (getRing s r) :=
  tget_map (warmJournal 1 s.time.ftime) {} s.rings r

/-- A module reset takes a core's logic and keeps the stored data of its pads (R64, R91). -/
theorem getCore_moduleWipe (s : State) (warm : Bool) (c : Nat) :
    getCore (moduleWipe s warm) c =
      { padW := clearPad (getCore s c).padW, padA := clearPad (getCore s c).padA, padP := clearPad (getCore s c).padP } :=
  tget_map (fun k : Core => ({ padW := clearPad k.padW, padA := clearPad k.padA, padP := clearPad k.padP } : Core)) {} s.cores c

theorem moduleWipe_isReset (s : State) (warm : Bool) : ModuleReset s (moduleWipe s warm) warm := by
  refine ⟨rfl, rfl, rfl, rfl, rfl, rfl, rfl, ?cold, ?rings, getCore_moduleWipe s warm, rfl, rfl, rfl, rfl, rfl, rfl, rfl, rfl, rfl,
    rfl, rfl⟩
  case cold =>
    rintro rfl
    exact ⟨rfl, rfl⟩
  case rings =>
    rintro rfl
    exact getRing_moduleWipe s

/-- A module reset is the wipe, and under WARM_PRESERVE its record (R266). -/
theorem moduleReset_eq (s : State) :
    moduleReset s = { moduleWipe s s.hif.warm with
      err := (moduleReset s).err, fresh := (moduleReset s).fresh, hif := (moduleReset s).hif } := by
  unfold moduleReset
  dsimp only
  split
  · rw [raise_only]
  · rfl

theorem moduleReset_isReset (s : State) : ModuleReset s (moduleReset s) s.hif.warm := by
  rw [moduleReset_eq]
  exact moduleWipe_isReset s s.hif.warm

/-- What stands at the pins stays through a module reset (R362). -/
@[simp] theorem moduleReset_pins (s : State) : (moduleReset s).pins = s.pins := by
  rw [moduleReset_eq]
  rfl

@[simp] theorem moduleReset_chatter (s : State) : (moduleReset s).pwr.chatter = s.pwr.chatter := by
  rw [moduleReset_eq]
  rfl

/-! ## Levels -/

/-- The level at a sideband input (R430). -/
def pinLevel (s : State) (p : Pin) : Bool :=
  match p with | .pwrBrakeN => s.pins.brakeN | .perstN => s.pins.perstN | .pwrEn => s.pins.pwrEn

/-- An input in its safe state is low (R430). -/
theorem safeState_eq_setPin (s : State) (p : Pin) : safeState s p = setPin s p false := by
  cases p <;> rfl

/-- The brake is what PWR_BRAKE_N says, and ends being stuck when it is released (R429, R432). -/
theorem setBrake_eq (s : State) (high : Bool) :
    setBrake s high =
      { s with pins := { s.pins with brakeN := high },
               pwr := { s.pwr with brake := !high, stuck := s.pwr.stuck && !high, announced := (setBrake s high).pwr.announced } } := by
  unfold setBrake
  rw [noteShares_eq]

/-- Test mode ends with the test port in its reset state, and nothing else changes (R460). -/
theorem closeTest_eq (s : State) : closeTest s = { s with tap := if s.tap.test then {} else s.tap } := by
  unfold closeTest
  split <;> rfl

/-- PERST_N has the level put, and no chattering input is forgotten. -/
theorem setPerst_level (s : State) (high : Bool) :
    (setPerst s high).pins.perstN = high ∧ (setPerst s high).pwr.chatter = s.pwr.chatter := by
  unfold setPerst
  split
  · next h => exact ⟨by simpa using h, rfl⟩
  · cases high with
    | true =>
      dsimp only
      rw [if_pos rfl, closeTest_eq]
      exact ⟨rfl, rfl⟩
    | false =>
      dsimp only
      rw [if_neg Bool.false_ne_true]
      split
      · rw [moduleReset_pins, moduleReset_chatter]
        exact ⟨rfl, rfl⟩
      · exact ⟨rfl, rfl⟩

/-- A start of the power stage changes no level of PWR_EN and nothing of the power block (R434). -/
theorem tryStart_level (s : State) : (tryStart s).pins.pwrEn = s.pins.pwrEn ∧ (tryStart s).pwr = s.pwr := by
  unfold tryStart
  split <;> exact ⟨rfl, rfl⟩

theorem powerDown_level (s : State) (stg : Stage) :
    (powerDown s stg).pins.pwrEn = s.pins.pwrEn ∧ (powerDown s stg).pwr.chatter = s.pwr.chatter := by
  unfold powerDown
  rw [closeTest_eq]
  exact ⟨rfl, rfl⟩

/-- PWR_EN has the level put, and no chattering input is forgotten. -/
theorem setPwrEn_level (s : State) (on : Bool) :
    (setPwrEn s on).pins.pwrEn = on ∧ (setPwrEn s on).pwr.chatter = s.pwr.chatter := by
  unfold setPwrEn
  split
  · next h => exact ⟨by simpa using h, rfl⟩
  · cases on with
    | true =>
      dsimp only
      rw [if_pos rfl, (tryStart_level _).1, (tryStart_level _).2]
      exact ⟨rfl, rfl⟩
    | false =>
      dsimp only
      rw [if_neg Bool.false_ne_true]
      split
      · exact ⟨rfl, rfl⟩
      · exact ⟨rfl, rfl⟩
      · exact powerDown_level _ .off

/-- An input has the level put, and no chattering input is forgotten. -/
theorem setPin_level (s : State) (p : Pin) (high : Bool) :
    pinLevel (setPin s p high) p = high ∧ (setPin s p high).pwr.chatter = s.pwr.chatter := by
  cases p with
  | pwrBrakeN =>
    show (setBrake s high).pins.brakeN = high ∧ (setBrake s high).pwr.chatter = s.pwr.chatter
    rw [setBrake_eq]
    exact ⟨rfl, rfl⟩
  | perstN => exact setPerst_level s high
  | pwrEn => exact setPwrEn_level s high

/-! ## Records of the inputs -/

/-- A record of the inputs changes the error block, the free values it takes and the message it sends (R433). -/
theorem raiseInput_only (s : State) (code : W16) :
    raiseInput s code = { s with err := (raiseInput s code).err, fresh := (raiseInput s code).fresh, hif := (raiseInput s code).hif } := by
  unfold raiseInput
  split
  · rw [raise_only]
  · rfl

/-- A record of the inputs stands in the device queue while the module has power (R338, R433). -/
theorem raiseInput_recorded (s : State) (code : W16) (hg : s.pins.pwrGood = true) : Recorded s (raiseInput s code) code 0 none := by
  rw [raiseInput, if_pos hg]
  exact raise_recorded s { code := code, sev := sevCorrected, unitType := uPower } false true none nofun

end Sys2Proof.Machine
end

section
/-! SUPPORT. The statement on the pins, the inputs and the governor (R11, R237, R362, R421, R426 to R433, R435, R460). -/

namespace Sys2Proof.Machine

open Sys2Proof Sys2Proof.Safety

/-! ## PERST_N, the brake and the PLL -/

/-- PERST_N asserted with the power good resets the module (R362). -/
theorem perstNAssert_resets (s : State) (hc : chattering s .perstN = false) (hh : s.pins.perstN = true) (hg : s.pins.pwrGood = true) :
    ∃ t, exec .perstNAssert s = .next t ∧ ModuleReset s t s.hif.warm ∧ t.pins = { s.pins with perstN := false } := by
  let u : State := { s with pins := { s.pins with perstN := false } }
  have hrow : exec .perstNAssert s = .next (moduleReset u) := by
    show execPerstNAssert s = _
    simp [execPerstNAssert, setPerst, hc, hh, hg, u]
  exact ⟨_, hrow, moduleReset_isReset u, moduleReset_pins u⟩

/-- PERST_N released ends test mode, and nothing else changes (R460). -/
theorem perstNRelease_closesTest (s : State) (hc : chattering s .perstN = false) (hl : s.pins.perstN = false) :
    ∃ t, exec .perstNRelease s = .next t ∧
      t = { s with pins := { s.pins with perstN := true }, tap := if s.tap.test then {} else s.tap } := by
  refine ⟨_, ?_, rfl⟩
  show execPerstNRelease s = _
  simp [execPerstNRelease, setPerst, hc, hl, closeTest_eq]

theorem exec_pwrBrakeAssert (s : State) (hc : chattering s .pwrBrakeN = false) :
    exec .pwrBrakeAssert s = .next (setBrake s false) := by
  show Host.Outcome.next (if chattering s .pwrBrakeN then s else setBrake s false) = _
  rw [hc, if_neg Bool.false_ne_true]

theorem exec_pwrBrakeRelease (s : State) (hc : chattering s .pwrBrakeN = false) :
    exec .pwrBrakeRelease s = .next (setBrake s true) := by
  show Host.Outcome.next (if chattering s .pwrBrakeN then s else setBrake s true) = _
  rw [hc, if_neg Bool.false_ne_true]

/-- While the brake holds the cap in force is at most 350 W (R426, R429). -/
theorem pwrBrakeAssert_caps (s : State) (hc : chattering s .pwrBrakeN = false) :
    ∃ t, exec .pwrBrakeAssert s = .next t ∧ t.pins.brakeN = false ∧
      capInForce t = Nat.min s.pwr.cap.toNat 350 ∧ t = { s with pins := { s.pins with brakeN := false }, pwr := t.pwr } ∧
      t.pwr = { s.pwr with brake := true, stuck := t.pwr.stuck, announced := t.pwr.announced } := by
  refine ⟨_, exec_pwrBrakeAssert s hc, ?_⟩
  rw [setBrake_eq]
  exact ⟨rfl, rfl, rfl, rfl⟩

/-- With the brake released the cap in force is PWR_CAP, and a stuck brake has ended (R426, R429, R432). -/
theorem pwrBrakeRelease_uncaps (s : State) (hc : chattering s .pwrBrakeN = false) :
    ∃ t, exec .pwrBrakeRelease s = .next t ∧ t.pins.brakeN = true ∧ t.pwr.stuck = false ∧ capInForce t = s.pwr.cap.toNat := by
  refine ⟨_, exec_pwrBrakeRelease s hc, ?_⟩
  rw [setBrake_eq]
  exact ⟨rfl, Bool.and_false _, rfl⟩

/-- The loss of the PLL's lock resets the module (R421). -/
theorem pllLockLoss_resets (s : State) (hg : s.pins.pwrGood = true) (hl : s.pins.pllLock = true) :
    ∃ t, exec .pllLockLoss s = .next t ∧ ModuleReset s t s.hif.warm ∧ t.pins.pllLock = false := by
  let u : State := { s with mgc := { s.mgc with log := s.mgc.log ++ [0x01] } }
  have hrow : exec .pllLockLoss s = .next { moduleReset u with pins := { (moduleReset u).pins with pllLock := false } } := by
    show execPllLockLoss s = _
    simp [execPllLockLoss, hg, hl, u]
  exact ⟨_, hrow, moduleReset_isReset u, rfl⟩

/-! ## Chattering, stuck and strap inputs -/

theorem chatBit_lt (p : Pin) : chatBit p < 3 := by cases p <;> decide

/-- An input that begins to chatter is held in its safe state, with a record (R430, R431). -/
theorem inputChatter_holdsSafe (s : State) (p : Pin) (hc : chattering s p = false) :
    ∃ t, exec (.inputChatter p) s = .next t ∧ chattering t p = true ∧ pinLevel t p = false ∧
      (p = .pwrBrakeN → s.pins.pwrGood = true → Recorded s t 0x0702 0 none) := by
  let u := setPin (raiseInput s 0x0702) p false
  have hrow : exec (.inputChatter p) s =
      .next { u with pwr := { u.pwr with chatter := setBit u.pwr.chatter (chatBit p) true } } := by
    show execInputChatter p s = _
    simp [execInputChatter, hc, safeState_eq_setPin, u]
  refine ⟨_, hrow, ?_, ?_, ?_⟩
  · show bit (setBit _ (chatBit p) true) (chatBit p) = true
    rw [bit_setBit _ _ _ _ (chatBit_lt p), if_pos rfl]
  · exact (setPin_level (raiseInput s 0x0702) p false).1
  · rintro rfl hg
    have herr : u.err = (raiseInput s 0x0702).err := by
      show (setBrake (raiseInput s 0x0702) false).err = _
      rw [setBrake_eq]
    unfold Recorded
    dsimp only
    rw [herr]
    exact raiseInput_recorded s 0x0702 hg

/-- An input that has been stable again takes its level (R431). -/
theorem inputChatterEnd_takesLevel (s : State) (p : Pin) (level : Bool) (hc : chattering s p = true) :
    ∃ t, exec (.inputChatterEnd p level) s = .next t ∧ chattering t p = false ∧ pinLevel t p = level := by
  let u : State := { s with pwr := { s.pwr with chatter := setBit s.pwr.chatter (chatBit p) false } }
  have hrow : exec (.inputChatterEnd p level) s = .next (setPin u p level) := by
    show execInputChatterEnd p level s = _
    simp [execInputChatterEnd, hc, u]
  obtain ⟨hlevel, hchat⟩ := setPin_level u p level
  refine ⟨_, hrow, ?_, hlevel⟩
  rw [chattering, hchat, bit_setBit _ _ _ _ (chatBit_lt p), if_pos rfl]

/-- The brake held too long is stuck, with a record (R432). -/
theorem inputStuck_records (s : State) (hl : s.pins.brakeN = false) (hs : s.pwr.stuck = false) (hg : s.pins.pwrGood = true) :
    ∃ t, exec (.inputStuck .pwrBrakeN) s = .next t ∧ t.pwr.stuck = true ∧ Recorded s t 0x0701 0 none := by
  let u : State := { s with pwr := { s.pwr with stuck := true } }
  have hrow : exec (.inputStuck .pwrBrakeN) s = .next (raiseInput u 0x0701) := by
    show execInputStuck .pwrBrakeN s = _
    simp [execInputStuck, hl, hs, u]
  refine ⟨_, hrow, ?_, raiseInput_recorded u 0x0701 hg⟩
  rw [raiseInput_only]

/-- The straps are sampled once after PWR_GOOD (R433). -/
theorem strapSample_once (s : State) (feed : BitVec 4) (slotId : BitVec 6) (hg : s.pins.pwrGood = true) (ho : s.pwr.strapsOk = false) :
    exec (.strapSample feed slotId) s = .next { s with pwr := { s.pwr with feedId := feed, slotId := slotId, strapsOk := true } } := by
  show execStrapSample feed slotId s = _
  simp [execStrapSample, hg, ho]

/-- A change of the straps is ignored but for its record (R433). -/
theorem strapChange_records (s : State) (ho : s.pwr.strapsOk = true) (he : s.pwr.strapErr = false) (hg : s.pins.pwrGood = true) :
    ∃ t, exec .strapChange s = .next t ∧ t.pwr = { s.pwr with strapErr := true } ∧ Recorded s t 0x0702 0 none := by
  let u : State := { s with pwr := { s.pwr with strapErr := true } }
  have hrow : exec .strapChange s = .next (raiseInput u 0x0702) := by
    show execStrapChange s = _
    simp [execStrapChange, ho, he, u]
  refine ⟨_, hrow, ?_, raiseInput_recorded u 0x0702 hg⟩
  rw [raiseInput_only]

/-! ## The governor -/

/-- A thermal decision is of one tile alone (R427). -/
theorem thermalThrottle_marksTile (s : State) (tile : Nat) (hot : Bool) (ht : tile < 8) (hm : mayDecide s tile = true) :
    ∃ t, exec (.thermalThrottle tile hot) s = .next t ∧ bit t.pwr.hotTiles tile = hot ∧
      ∀ k, k < 8 → k ≠ tile → bit t.pwr.hotTiles k = bit s.pwr.hotTiles k := by
  have hrow : exec (.thermalThrottle tile hot) s =
      .next { s with pwr := { s.pwr with hotTiles := setBit s.pwr.hotTiles tile hot, hotAt := tset s.pwr.hotAt tile s.time.ftime } } := by
    show execThermalThrottle tile hot s = _
    rw [execThermalThrottle, if_neg (Nat.not_le.mpr ht), if_pos hm]
  refine ⟨_, hrow, ?_, fun k hk hne => ?_⟩
  · exact (bit_setBit _ _ _ _ ht).trans (if_pos rfl)
  · exact (bit_setBit _ _ _ _ hk).trans (if_neg hne)

/-- The mask that a fold over numbers sets bit by bit. -/
theorem bit_foldl_setBit {w : Nat} (q : Nat → Bool) (l : List Nat) (b : BitVec w) (k : Nat) (hk : k < w) :
    bit (l.foldl (fun b p => if q p then setBit b p true else b) b) k = (bit b k || (decide (k ∈ l) && q k)) := by
  induction l generalizing b with
  | nil => simp
  | cons p l ih =>
    rw [List.foldl_cons, ih]
    by_cases hkp : k = p
    · subst hkp
      cases hq : q k <;> simp [bit_setBit _ _ _ _ hk]
    · cases hq : q p <;> simp [bit_setBit _ _ _ _ hk, hkp]

/-- The partitions above their shares are those that draw more than their own (R237). -/
theorem bit_overShare (s : State) (own : List (BitVec 16)) (k : Nat) (hk : k < 8) :
    bit (overShare s own) k = decide (powerOf s k < (nth 0 own k).toNat) := by
  have hfold := bit_foldl_setBit (fun p => decide (powerOf s p < (nth 0 own p).toNat)) (List.range 8) (0 : Byte) k hk
  have hzero : bit (0 : Byte) k = false := Nat.zero_testBit k
  rw [hzero, Bool.false_or, decide_eq_true (List.mem_range.mpr hk), Bool.true_and] at hfold
  rw [← hfold]
  simp only [overShare, decide_eq_true_eq]

/-- What the module would draw, held at the cap in force, in 0.1 W (R426, log 105). -/
def heldInput (s : State) (draw : W16) : W16 := BitVec.ofNat 16 (Nat.min draw.toNat (capInForce s * 10))

theorem heldInput_toNat (s : State) (draw : W16) : (heldInput s draw).toNat = Nat.min draw.toNat (capInForce s * 10) :=
  Nat.mod_eq_of_lt (Nat.lt_of_le_of_lt (Nat.min_le_left _ _) draw.isLt)

/-- The share of cycles the governor withholds while it slows partitions or a tile is hot (R426, R427, log 105). -/
def withheld (s : State) (slow : Byte) : Byte :=
  if slow ≠ 0 ∨ s.pwr.hotTiles ≠ 0 then BitVec.ofNat 8 (Config.freeNat s.fresh % 100 + 1) else 0

theorem withheld_le (s : State) (slow : Byte) : (withheld s slow).toNat ≤ 100 := by
  unfold withheld
  split
  · rw [BitVec.toNat_ofNat]
    omega
  · decide

theorem withheld_pos (s : State) (slow : Byte) (h : slow ≠ 0 ∨ s.pwr.hotTiles ≠ 0) : 1 ≤ (withheld s slow).toNat := by
  rw [withheld, if_pos h, BitVec.toNat_ofNat]
  omega

/-- What the governor's evaluation changes: the input, the partitions it slows and the share it withholds (R11, R426). -/
theorem exec_governorEvaluation (s : State) (draw : W16) (own : List W16) (hr : hubRuns s = true) :
    ∃ n, exec (.governorEvaluation ⟨draw, own⟩) s =
        .next { s with fresh := n, pwr := { s.pwr with input := heldInput s draw, slow := slowParts s draw own,
                                                       throttle := withheld s (slowParts s draw own) } } ∧
      (slowParts s draw own = 0 → s.pwr.hotTiles = 0 → n = s.fresh) := by
  by_cases hslow : slowParts s draw own ≠ 0 ∨ s.pwr.hotTiles ≠ 0
  · have hacts : (slowParts s draw own != 0 || s.pwr.hotTiles != 0) = true := by simpa using hslow
    refine ⟨s.fresh + 1, ?_, fun h0 h1 => (hslow.elim (· h0) (· h1)).elim⟩
    rw [withheld, if_pos hslow]
    show execGovernorEvaluation ⟨draw, own⟩ s = _
    rw [execGovernorEvaluation, hr, if_neg (by decide)]
    exact if_pos hacts
  · have hacts : ¬ (slowParts s draw own != 0 || s.pwr.hotTiles != 0) = true := by simpa using hslow
    refine ⟨s.fresh, ?_, fun _ _ => rfl⟩
    rw [withheld, if_neg hslow]
    show execGovernorEvaluation ⟨draw, own⟩ s = _
    rw [execGovernorEvaluation, hr, if_neg (by decide)]
    exact if_neg hacts

/-- Outside isolation mode every partition is slowed above the cap in force, and none at or below it (R426). -/
theorem slowParts_shared (s : State) (draw : W16) (own : List W16) (hi : s.dev.isolate = false) :
    slowParts s draw own = if capInForce s * 10 < draw.toNat then 0xFF else 0 := by
  rw [slowParts, hi, if_neg Bool.false_ne_true]

/-- At or below the cap, with no tile hot, nothing is withheld (R426, R427). -/
theorem governorEvaluation_free (s : State) (draw : W16) (own : List W16) (hr : hubRuns s = true) (hi : s.dev.isolate = false)
    (hd : draw.toNat ≤ 10 * capInForce s) (hh : s.pwr.hotTiles = 0) :
    exec (.governorEvaluation ⟨draw, own⟩) s = .next { s with pwr := { s.pwr with input := draw, slow := 0, throttle := 0 } } := by
  have hslow : slowParts s draw own = 0 := by
    rw [slowParts_shared s draw own hi, if_neg (by omega)]
  have hin : heldInput s draw = draw := by
    apply BitVec.eq_of_toNat_eq
    rw [heldInput_toNat]
    exact Nat.min_eq_left (by omega)
  have hnone : withheld s 0 = 0 := if_neg (by simp [hh])
  obtain ⟨n, hrow, hn⟩ := exec_governorEvaluation s draw own hr
  rw [hrow, hn hslow hh, hslow, hin, hnone]

/-- The governor holds the input at the cap, withholds a share of cycles where a tile is hot or a partition slowed, and slows by
the cap in force or, in isolation mode, by the partitions' own shares (R11, R237, R426, R427). -/
theorem governorEvaluation_governs (s : State) (draw : W16) (own : List W16) (hr : hubRuns s = true) :
    ∃ t, exec (.governorEvaluation ⟨draw, own⟩) s = .next t ∧ t.pwr.input.toNat ≤ 10 * capInForce s ∧
      t.pwr.cap = s.pwr.cap ∧ t.cores = s.cores ∧ t.pwr.throttle.toNat ≤ 100 ∧
      (s.pwr.hotTiles ≠ 0 ∨ t.pwr.slow ≠ 0 → 1 ≤ t.pwr.throttle.toNat) ∧
      (s.dev.isolate = false → 10 * capInForce s < draw.toNat → t.pwr.input.toNat = 10 * capInForce s ∧ t.pwr.slow = 0xFF) ∧
      (s.dev.isolate = true → ∀ k, k < 8 → bit t.pwr.slow k = decide (powerOf s k < (nth 0 own k).toNat)) := by
  obtain ⟨n, hrow, -⟩ := exec_governorEvaluation s draw own hr
  refine ⟨_, hrow, ?held, rfl, rfl, withheld_le s _, fun h => withheld_pos s _ h.symm, fun hi hd => ⟨?capped, ?all⟩,
    fun hi k hk => ?shares⟩
  case held =>
    show (heldInput s draw).toNat ≤ _
    rw [heldInput_toNat, Nat.mul_comm 10]
    exact Nat.min_le_right _ _
  case capped =>
    show (heldInput s draw).toNat = _
    rw [heldInput_toNat, Nat.mul_comm 10]
    exact Nat.min_eq_right (by omega)
  case all => exact (slowParts_shared s draw own hi).trans (if_pos (by omega))
  case shares =>
    have hslow : slowParts s draw own = overShare s own := if_pos hi
    show bit (slowParts s draw own) k = _
    rw [hslow, bit_overShare s own k hk]

/-! ## The statement -/

/-- Settles O37: each row by what it does, the resets by the module reset, the records by the record raised last. -/
theorem pinsAndInputsAct : Obligations.PinsAndInputsAct := by
  unfold Obligations.PinsAndInputsAct
  refine ⟨fun s => ⟨perstNAssert_resets s, perstNRelease_closesTest s, pwrBrakeAssert_caps s, pwrBrakeRelease_uncaps s,
    pllLockLoss_resets s, rfl⟩, fun s p level feed slotId tile draw own => ?_⟩
  exact ⟨inputChatter_holdsSafe s p, inputChatterEnd_takesLevel s p level, inputStuck_records s, strapSample_once s feed slotId,
    strapChange_records s, thermalThrottle_marksTile s tile level, governorEvaluation_free s draw own,
    governorEvaluation_governs s draw own⟩

end Sys2Proof.Machine
end

section
/-! SUPPORT. Tables written twice, and the courses of the Matrix engine (R49 to R54, R118 to R121): no event that one lays out stops
the core. -/

namespace Sys2Proof.Machine

open Sys2Proof

/-- The second of two values put at one index stays. -/
theorem tset_tset_same {α : Type} (t : Tbl α) (k : Nat) (v w : α) : tset (tset t k v) k w = tset t k w := by
  induction t with
  | nil => simp [tset]
  | cons e t ih =>
    obtain ⟨a, x⟩ := e
    rcases Nat.lt_trichotomy a k with h | rfl | h
    · simp [tset, Nat.ne_of_lt h, Nat.lt_asymm h, ih]
    · simp [tset]
    · simp [tset, Nat.ne_of_gt h, h]

@[simp] theorem setCore_setCore (s : State) (c : Nat) (k l : Core) : setCore (setCore s c k) c l = setCore s c l := by
  simp [setCore, tset_tset_same]

/-! ## Events that stop nothing -/

/-- No event of a list stops the core. -/
def Quiet (l : List (Nat × FlightEv)) : Prop := ∀ e ∈ l, isStop e.2 = false

theorem Quiet.append {l m : List (Nat × FlightEv)} (hl : Quiet l) (hm : Quiet m) : Quiet (l ++ m) := fun e he =>
  (List.mem_append.mp he).elim (hl e) (hm e)

theorem quiet_singleton (n : Nat) (e : FlightEv) (h : isStop e = false) : Quiet [(n, e)] :=
  List.forall_mem_singleton.mpr h

theorem quiet_map {α : Type} (f : α → Nat × FlightEv) (h : ∀ a, isStop (f a).2 = false) (l : List α) : Quiet (l.map f) :=
  List.forall_mem_map.mpr fun a _ => h a

theorem quiet_flatMap {α : Type} (f : α → List (Nat × FlightEv)) (h : ∀ a, Quiet (f a)) (l : List α) : Quiet (l.flatMap f) := fun e he =>
  have ⟨a, _, ha⟩ := List.mem_flatMap.mp he
  h a e ha

theorem quiet_zipWith {α β : Type} (f : α → β → Nat × FlightEv) (h : ∀ a b, isStop (f a b).2 = false) (l : List α) (m : List β) :
    Quiet (List.zipWith f l m) := by
  rw [← List.map_uncurry_zip_eq_zipWith]
  exact quiet_map _ (fun p : α × β => h p.1 p.2) _

/-- The change of a slot at issue is no stop (R76). -/
theorem issueEv_quiet (u : SlotUse) (now : Nat) : Quiet (issueEv u now) := by
  unfold issueEv
  split
  · split
    · exact quiet_singleton _ _ rfl
    · exact List.forall_mem_nil _
  · exact quiet_singleton _ _ rfl

/-- The later change of a slot is no stop (R76). -/
theorem endEv_quiet (u : SlotUse) (n : Nat) : Quiet (endEv u n) := by
  unfold endEv
  split
  · exact quiet_singleton _ _ rfl
  · exact List.forall_mem_nil _

/-! ## Courses -/

/-- A course built step by step is quiet if every step keeps it so. -/
theorem foldl_quiet {α : Type} (f : Sched → α → Sched) (hf : ∀ sc a, Quiet sc.evs → Quiet (f sc a).evs) (l : List α) :
    ∀ sc : Sched, Quiet sc.evs → Quiet (l.foldl f sc).evs := by
  induction l with
  | nil => exact fun _ h => h
  | cons a l ih => exact fun sc h => ih _ (hf sc a h)

theorem addReads_quiet (x : SlotView) (op pass : Nat) (rs cs : List Nat) (sc : Sched) (h : Quiet sc.evs) :
    Quiet (addReads x op pass rs cs sc).evs :=
  h.append (quiet_zipWith _ (fun _ _ => rfl) _ _)

theorem readInOrder_quiet (x : SlotView) (op pass : Nat) (sc : Sched) (start : Nat) (rs : List Nat) (h : Quiet sc.evs) :
    Quiet (readInOrder x op pass sc start rs).1.evs :=
  addReads_quiet _ _ _ _ _ _ h

theorem writeOut_quiet (x : SlotView) (w i g : Nat) (sc : Sched) (start off len : Nat) (h : Quiet sc.evs) :
    Quiet (writeOut x w i g sc start off len).1.evs := by
  unfold writeOut
  split
  · exact h
  · exact h.append (quiet_zipWith _ (fun _ _ => rfl) _ _)

theorem scanGroup_quiet (j : MxJob) (sc : Sched) (n t g : Nat) (h : Quiet sc.evs) : Quiet (scanGroup j sc n t g).1.evs := by
  unfold scanGroup
  dsimp only
  split
  · exact h
  · exact addReads_quiet _ _ _ _ _ _ h

theorem outputRow_quiet (j : MxJob) (n t g i at_ : Nat) (sc : Sched) (h : Quiet sc.evs) : Quiet (outputRow j n t g i at_ sc).evs :=
  writeOut_quiet _ _ _ _ _ _ _ _ (h.append (quiet_singleton _ _ rfl))

theorem streamPass_quiet (j : MxJob) (n t g k fuel : Nat) : ∀ (cur x : Nat) (sc : Sched) (left : Nat), Quiet sc.evs →
    Quiet (streamPass j n t g k cur x sc fuel left).evs := by
  induction fuel with
  | zero => exact fun _ _ _ _ h => h
  | succ fuel ih =>
    intro cur x sc left h
    unfold streamPass
    dsimp only
    split
    · exact h
    · refine ih _ _ _ _ ?_
      split
      · refine foldl_quiet _ (fun sc i => outputRow_quiet _ _ _ _ _ _ sc) _ _ ?_
        exact (readInOrder_quiet _ _ _ _ _ _ h).append (quiet_map _ (fun _ => rfl) _)
      · exact (readInOrder_quiet _ _ _ _ _ _ h).append (quiet_map _ (fun _ => rfl) _)

/-- The block load of a pass is quiet, and so are the events from its start on. -/
theorem runPass_quiet (j : MxJob) (n t g k ready : Nat) (sc : Sched) (h : Quiet sc.evs) : Quiet (runPass j n t g k ready sc).evs := by
  unfold runPass
  by_cases hheld : sc.heldBlk = some (t, k)
  · rw [if_pos hheld]
    refine streamPass_quiet _ _ _ _ _ _ _ _ _ _ ?_
    dsimp only
    split
    · exact h.append (quiet_singleton _ _ rfl)
    · exact h
  · rw [if_neg hheld]
    refine streamPass_quiet _ _ _ _ _ _ _ _ _ _ ?_
    have hload := readInOrder_quiet j.hs 0 (n * j.f.nk + k) sc sc.loadAt
      (rangeFrom (imageRow j.f j.lh t k) (imageRows j.f j.lh t k)) h
    dsimp only
    split
    · exact hload.append (quiet_singleton _ _ rfl)
    · exact hload

theorem outputSet_quiet (j : MxJob) (n t g : Nat) (sc : Sched) (h : Quiet sc.evs) : Quiet (outputSet j n t g sc).evs := by
  unfold outputSet
  split
  · exact h
  · refine writeOut_quiet _ _ _ _ _ _ _ _ (Quiet.append ?_ (quiet_singleton _ _ rfl))
    exact foldl_quiet _ (fun sc i => outputRow_quiet _ _ _ _ _ _ sc) _ _ h

theorem runGroup_quiet (j : MxJob) (sc : Sched) (n : Nat) (h : Quiet sc.evs) : Quiet (runGroup j sc n).evs := by
  refine outputSet_quiet j n _ _ _ (foldl_quiet _ (fun sc k hsc => ?_) _ _ (scanGroup_quiet j sc n _ _ h))
  dsimp only
  split
  · exact runPass_quiet _ _ _ _ _ _ _ hsc
  · exact runPass_quiet _ _ _ _ _ _ _ hsc

theorem runAll_quiet (j : MxJob) (sc : Sched) (h : Quiet sc.evs) : Quiet (runAll j sc).evs :=
  foldl_quiet (runGroup j) (runGroup_quiet j) _ sc h

theorem readScales_quiet (x : SlotView) (n from_ fin pass : Nat) (sc : Sched) (h : Quiet sc.evs) :
    Quiet (readScales x n from_ fin pass sc).1.evs :=
  readInOrder_quiet _ _ _ _ _ _ (readInOrder_quiet _ _ _ _ _ _ h)

theorem cmbRows_quiet (sX sY : SlotView) (e per n cur : Nat) : Quiet (cmbRows sX sY e per n cur).evs :=
  foldl_quiet _ (fun _ _ h => writeOut_quiet _ _ _ _ _ _ _ _ (h.append (quiet_singleton _ _ rfl))) _ _
    (addReads_quiet _ _ _ _ _ _ (addReads_quiet _ _ _ _ _ _ (List.forall_mem_nil _)))

theorem cvtRows_quiet (sA sO : SlotView) (m ri ro rb u cur len : Nat) : Quiet (cvtRows sA sO m ri ro rb u cur len).evs := by
  refine foldl_quiet _ (fun sc i h => ?_) _ (newSched cur) (List.forall_mem_nil _)
  refine writeOut_quiet _ _ _ _ _ _ _ _ (Quiet.append (readInOrder_quiet _ _ _ _ _ _ h) ?_)
  exact quiet_map _ (fun _ => rfl) _

end Sys2Proof.Machine
end

section
/-! SUPPORT. The issue of Matrix engine instructions (R50, R53, R76, R82, R99, R113 to R121): what dispatch puts in the queue, what the
slot checks let through, and the flight that an instruction becomes. -/

namespace Sys2Proof.Machine

open Sys2Proof Sys2Proof.Safety

/-! ## Dispatch -/

/-- An MX class instruction as the Sequencer queues it (R82, R99, R113). -/
def mxQueued (k : Core) (i : Instr) (o : MxArgs) : Queued := { ins := i, addr := k.pc, sc := mxCap o k, mark := k.markAt }

/-- The core after the dispatch of an MX class instruction into an empty queue. -/
def mxWaiting (k : Core) (i : Instr) (o : MxArgs) : Core := retire { k with qMx := [mxQueued k i o] } (k.pc + 1)

theorem enqueueAct_mx (s : State) (c : Nat) (i : Instr) (o : MxArgs) (hq : (getCore s c).qMx = []) :
    enqueueAct c 3 i (mxCap o) none s = setCore s c (mxWaiting (getCore s c) i o) := by
  simp [enqueueAct, mxWaiting, mxQueued, queueOf, setQueue, noteMove, hq]

/-! ## Slots -/

/-- Every use passes: the instruction goes on (R76). -/
theorem withSlots_of_pass (s : State) (c eng addr : Nat) (timed : Bool) (us : List SlotUse) (go : State → Issued)
    (h : SlotsPass (getCore s c) eng us) : withSlots s c eng addr timed us go = go s := by
  have hok : checkSlots s c eng addr timed us = some [] := by
    simp only [checkSlots]
    rw [List.filterMap_eq_nil_iff.mpr, List.any_eq_false.mpr]
    · rfl
    · intro u hu
      rw [h u hu]
      decide
    · intro u hu
      rw [h u hu]
  rw [withSlots, hok]

/-- Every slot holds the rows that are needed of it (R50). -/
def Fits (l : List (SlotView × Nat)) : Prop := ∀ x ∈ l, x.2 ≤ slotRows x.1.e

theorem Fits.not_tooSmall {l : List (SlotView × Nat)} (h : Fits l) {x : SlotView} {n : Nat} (hx : (x, n) ∈ l) : tooSmall x n = false := by
  have hn : ¬ slotRows x.e < n := Nat.not_lt.mpr (h (x, n) hx)
  simp [tooSmall, hn]

/-! ## The flight -/

/-- A Matrix engine instruction that issued in cycle `now`, as it flies: its slot changes and its course. -/
def mxFlight (now : Nat) (q : Queued) (view : List SlotView) (us : List (SlotUse × Nat)) (sc : Sched) (due : Nat) : Flight :=
  { eng := 3, addr := q.addr, due := due,
    evs := us.flatMap (fun u => issueEv u.1 now) ++ sc.evs ++ us.flatMap (fun u => endEv u.1 u.2),
    job := some q, view := view, plan := sc.wr }

theorem mxFlight_quiet (now : Nat) (q : Queued) (view : List SlotView) (us : List (SlotUse × Nat)) (sc : Sched) (due : Nat)
    (h : Quiet sc.evs) : Quiet (mxFlight now q view us sc due).evs := by
  refine Quiet.append (Quiet.append ?_ h) ?_
  · exact quiet_flatMap _ (fun u => issueEv_quiet u.1 now) us
  · exact quiet_flatMap _ (fun u => endEv_quiet u.1 u.2) us

theorem mem_mxFlight_of_course (now : Nat) (q : Queued) (view : List SlotView) (us : List (SlotUse × Nat)) (sc : Sched) (due : Nat)
    {e : Nat × FlightEv} (h : e ∈ sc.evs) : e ∈ (mxFlight now q view us sc due).evs :=
  List.mem_append_left _ (List.mem_append_right _ h)

theorem mem_mxFlight_of_issueEv (now : Nat) (q : Queued) (view : List SlotView) (us : List (SlotUse × Nat)) (sc : Sched) (due : Nat)
    {u : SlotUse} {n : Nat} (hu : (u, n) ∈ us) {e : Nat × FlightEv} (h : e ∈ issueEv u now) : e ∈ (mxFlight now q view us sc due).evs :=
  List.mem_append_left _ (List.mem_append_left _ (List.mem_flatMap.mpr ⟨(u, n), hu, h⟩))

theorem mem_mxFlight_of_endEv (now : Nat) (q : Queued) (view : List SlotView) (us : List (SlotUse × Nat)) (sc : Sched) (due : Nat)
    {u : SlotUse} {n : Nat} (hu : (u, n) ∈ us) {e : Nat × FlightEv} (h : e ∈ endEv u n) : e ∈ (mxFlight now q view us sc due).evs :=
  List.mem_append_right _ (List.mem_flatMap.mpr ⟨(u, n), hu, h⟩)

/-- A core that has put `f` in the air: the array, the halves, the output port and the engine are free from the given cycles on. -/
def mxFlown (k : Core) (next : Nat) (half : Nat × Nat) (out busy : Nat) (f : Flight) : Core :=
  { k with mxNext := next, mxHalf := half, mxOut := out, busyMx := busy, flights := k.flights ++ [f] }

theorem flyMx_eq (s : State) (c next : Nat) (half : Nat × Nat) (out : Nat) (q : Queued) (view : List SlotView)
    (us : List (SlotUse × Nat)) (sc : Sched) (due busy : Nat) :
    flyMx (setCore s c { getCore s c with mxNext := next, mxHalf := half, mxOut := out }) c q view us sc due busy false =
      setCore s c (mxFlown (getCore s c) next half out busy (mxFlight (getCore s c).cyc q view us sc due)) := by
  simp only [flyMx, addFlight, getCore_setCore, setCore_setCore]
  rfl

/-! ## Issue -/

/-- An attempt to issue sends the instruction on the course `sc` with the slot uses `us`, each with the cycle of its last access. -/
def TakesCourse (s : State) (c : Nat) (q : Queued) (us : List SlotUse) (sc : Sched) (r : Issued) : Prop :=
  ∃ (next : Nat) (half : Nat × Nat) (out busy : Nat) (view : List SlotView) (ends : List (SlotUse × Nat)) (due : Nat),
    r = .go (setCore s c (mxFlown (getCore s c) next half out busy (mxFlight (getCore s c).cyc q view ends sc due))) ∧
    us ⊆ ends.map (·.1)

/-- The instruction is in flight on the Matrix engine as `f`, with the changes of the slots that it uses (R76, R113). -/
def FliesOnMatrix (s t : State) (c : Nat) (us : List SlotUse) (f : Flight) : Prop :=
  (getCore t c).flights = [f] ∧ f.eng = 3 ∧ f.addr = (getCore s c).pc ∧ f.mem = none ∧ Quiet f.evs ∧
  (∀ u ∈ us, ∀ e ∈ issueEv u (getCore s c).cyc, e ∈ f.evs) ∧ (∀ u ∈ us, ∃ n, ∀ e ∈ endEv u n, e ∈ f.evs)

/-- The instruction has issued in the cycle of its dispatch and flies (R53, R76, R99). -/
def IssuesOnMatrix (s t : State) (c : Nat) (us : List SlotUse) : Prop := IssuedAtOnce s t c ∧ ∃ f, FliesOnMatrix s t c us f

/-- Instruction `i` of the MX class can issue in this cycle, as far as its slots and the course before it let it (R53, R82, R99). -/
def MxReady (s : State) (c : Nat) (i : Instr) (h : Hdr) (o : MxArgs) : Prop :=
  Dispatches s c i h [o.sr] ∧ (getCore s c).busyMx ≤ (getCore s c).cyc ∧ OffsetReached (getCore s c) h

/-- An engine that is not occupied issues the head of its queue when it is due (R82, R99). -/
theorem tryIssue_of_go (s : State) (c e : Nat) (q : Queued) (rest : List Queued) (t : State) (hq : queueOf (getCore s c) e = q :: rest)
    (hbusy : engineBusy (getCore s c) e = false) (hdue : ∀ n ∈ timedAt q, n ≤ (getCore s c).cyc) (hgo : issueOf s c e q = .go t) :
    ∃ late, tryIssue s c e = setCore t c (countSlip (setQueue (getCore t c) e rest) e late) := by
  cases ht : timedAt q with
  | none => exact ⟨false, by simp only [tryIssue, hq, hbusy, ht, hgo, Bool.or_self, Bool.false_eq_true, if_false]⟩
  | some n =>
    have hn : ¬ (getCore s c).cyc < n := Nat.not_lt.mpr (hdue n ht)
    exact ⟨decide (n < (getCore s c).cyc), by
      simp only [tryIssue, hq, hbusy, ht, hgo, hn, decide_false, Bool.or_self, Bool.false_eq_true, if_false]⟩

/-- A timed form that has reached its offset is due (R82). -/
theorem mxQueued_due (k : Core) (i : Instr) (h : Hdr) (o : MxArgs) (hh : hdrOfIns i = some h) (hoff : OffsetReached k h) :
    ∀ n ∈ timedAt (mxQueued k i o), n ≤ k.cyc := by
  intro n hn
  by_cases ht : h.timed = true
  · have he : timedAt (mxQueued k i o) = some (k.markAt + h.offset.toNat) := by simp [timedAt, mxQueued, hh, ht]
    rw [he] at hn
    cases hn
    exact hoff ht
  · simp [timedAt, mxQueued, hh, ht] at hn

/-- The core that the dispatch and the issue of an MX class instruction in one cycle leave, with `slips` late forms counted (R83). -/
def mxIssued (k : Core) (i : Instr) (o : MxArgs) (next : Nat) (half : Nat × Nat) (out busy : Nat) (f : Flight) (slips : Nat) : Core :=
  { mxWaiting k i o with mxNext := next, mxHalf := half, mxOut := out, busyMx := busy, flights := k.flights ++ [f], qMx := [],
                         slipMx := slips }

theorem countSlip_mxFlown (k : Core) (i : Instr) (o : MxArgs) (next : Nat) (half : Nat × Nat) (out busy : Nat) (f : Flight) (late : Bool) :
    ∃ slips, countSlip (setQueue (mxFlown (mxWaiting k i o) next half out busy f) 3 []) 3 late =
      mxIssued k i o next half out busy f slips := by
  cases late with
  | false => exact ⟨k.slipMx, rfl⟩
  | true => exact ⟨k.slipMx + 1, rfl⟩

theorem mxIssued_flights (k : Core) (i : Instr) (o : MxArgs) (next : Nat) (half : Nat × Nat) (out busy : Nat) (f : Flight)
    (slips : Nat) (h : k.flights = []) : (mxIssued k i o next half out busy f slips).flights = [f] :=
  congrArg (· ++ [f]) h

theorem mxIssued_atOnce (s : State) (c : Nat) (i : Instr) (o : MxArgs) (next : Nat) (half : Nat × Nat) (out busy : Nat) (f : Flight)
    (slips : Nat) (h : Calm s c) :
    IssuedAtOnce s (setCore s c (mxIssued (getCore s c) i o next half out busy f slips)) c := by
  unfold IssuedAtOnce
  rw [OnlyCore, getCore_setCore]
  exact ⟨rfl, ⟨rfl, rfl, rfl, rfl⟩, h.qLd, h.qSt, rfl, h.qVx, rfl, rfl, rfl, rfl, rfl, h.running, rfl⟩

/-- With nothing else queued, only the Matrix engine issues, and a flight that stops nothing lets the cycle go on. -/
theorem pump_mx (s : State) (c : Nat) (i : Instr) (h : Hdr) (o : MxArgs) (us : List SlotUse) (sc : Sched)
    (hready : MxReady s c i h o) (hh : hdrOfIns i = some h)
    (hgo : TakesCourse (setCore s c (mxWaiting (getCore s c) i o)) c (mxQueued (getCore s c) i o) us sc
      (issueMx (setCore s c (mxWaiting (getCore s c) i o)) c (mxQueued (getCore s c) i o))) :
    ∃ next half out busy view ends due slips,
      pump (setCore s c (mxWaiting (getCore s c) i o)) c = setCore s c (mxIssued (getCore s c) i o next half out busy
        (mxFlight (getCore s c).cyc (mxQueued (getCore s c) i o) view ends sc due) slips) ∧ us ⊆ ends.map (·.1) := by
  obtain ⟨next, half, out, busy, view, ends, due, hissue, hends⟩ := hgo
  rw [getCore_setCore, setCore_setCore] at hissue
  obtain ⟨⟨⟨-, -, -, hqLd, hqSt, -, hqVx, -⟩, -, -, -⟩, hbusy, hoff⟩ := hready
  obtain ⟨late, hmx⟩ := tryIssue_of_go (setCore s c (mxWaiting (getCore s c) i o)) c 3 (mxQueued (getCore s c) i o) [] _
    (by rw [getCore_setCore]; rfl) (by rw [getCore_setCore]; exact decide_eq_false (Nat.not_lt.mpr hbusy))
    (by rw [getCore_setCore]; exact mxQueued_due _ i h o hh hoff) hissue
  obtain ⟨slips, hslips⟩ := countSlip_mxFlown (getCore s c) i o next half out busy
    (mxFlight (getCore s c).cyc (mxQueued (getCore s c) i o) view ends sc due) late
  rw [getCore_setCore, setCore_setCore] at hmx
  replace hmx := hmx.trans (congrArg (setCore s c) hslips)
  refine ⟨next, half, out, busy, view, ends, due, slips, ?_, hends⟩
  rw [pump, tryIssue_empty _ c 1 (by rw [getCore_setCore]; exact hqLd), tryIssue_empty _ c 2 (by rw [getCore_setCore]; exact hqSt), hmx]
  refine tryIssue_empty _ c 4 ?_
  rw [getCore_setCore]
  exact hqVx

/-- A core whose only flight stops nothing settles nothing (R85). -/
theorem settle_of_quiet (t : State) (c : Nat) (f : Flight) (hfl : (getCore t c).flights = [f]) (hquiet : Quiet f.evs) :
    settle t c = t := by
  refine settle_of_calm t c (List.any_eq_false.mpr fun g hg => ?_)
  rw [hfl, List.mem_singleton] at hg
  simp only [hg, List.any_eq_true, not_exists, not_and]
  intro e he
  rw [hquiet e he, Bool.and_false]
  exact Bool.false_ne_true

/-- A flight on a quiet course that ends with the uses `us` flies with their changes. -/
theorem mxFlight_flies (s t : State) (c : Nat) (i : Instr) (o : MxArgs) (us : List SlotUse) (view : List SlotView)
    (ends : List (SlotUse × Nat)) (sc : Sched) (due : Nat)
    (hfl : (getCore t c).flights = [mxFlight (getCore s c).cyc (mxQueued (getCore s c) i o) view ends sc due])
    (hquiet : Quiet sc.evs) (hends : us ⊆ ends.map (·.1)) :
    FliesOnMatrix s t c us (mxFlight (getCore s c).cyc (mxQueued (getCore s c) i o) view ends sc due) := by
  refine ⟨hfl, rfl, rfl, rfl, mxFlight_quiet _ _ _ _ _ _ hquiet, fun u hu e he => ?_, fun u hu => ?_⟩
  · obtain ⟨⟨_, n⟩, hn, rfl⟩ := List.mem_map.mp (hends hu)
    exact mem_mxFlight_of_issueEv _ _ _ _ _ _ hn he
  · obtain ⟨⟨_, n⟩, hn, rfl⟩ := List.mem_map.mp (hends hu)
    exact ⟨n, fun e he => mem_mxFlight_of_endEv _ _ _ _ _ _ hn he⟩

/-- An MX class instruction that is dispatched, due, and not kept from a quiet course issues in the cycle of its dispatch, and flies. -/
theorem engineRow_mx_flies (s : State) (c : Nat) (i : Instr) (h : Hdr) (o : MxArgs) (us : List SlotUse) (sc : Sched)
    (hready : MxReady s c i h o) (hh : hdrOfIns i = some h) (hquiet : Quiet sc.evs)
    (hgo : TakesCourse (setCore s c (mxWaiting (getCore s c) i o)) c (mxQueued (getCore s c) i o) us sc
      (issueMx (setCore s c (mxWaiting (getCore s c) i o)) c (mxQueued (getCore s c) i o))) :
    ∃ t, engineRow s c i h 3 [o.sr] (mxCap o) none = .next t ∧ IssuedAtOnce s t c ∧
      ∃ f, FliesOnMatrix s t c us f ∧ ∀ e ∈ sc.evs, e ∈ f.evs := by
  obtain ⟨next, half, out, busy, view, ends, due, slips, hpump, hends⟩ := pump_mx s c i h o us sc hready hh hgo
  obtain ⟨⟨hcalm, hlegal, hguard, hregs⟩, -, -⟩ := hready
  have hroom : queueRoom c 3 s = true := by simp [queueRoom, queueOf, hcalm.qMx]
  have hfl := mxIssued_flights (getCore s c) i o next half out busy
    (mxFlight (getCore s c).cyc (mxQueued (getCore s c) i o) view ends sc due) slips hcalm.flights
  rw [← getCore_setCore s c (mxIssued ..)] at hfl
  refine ⟨_, ?_, mxIssued_atOnce s c i o next half out busy _ slips hcalm, _, mxFlight_flies s _ c i o us view ends sc due hfl hquiet hends,
    fun e he => mem_mxFlight_of_course _ _ _ _ _ _ he⟩
  rw [engineRow, Option.toList_none, List.append_nil, seqRow_now s c i h [o.sr] _ _ hcalm.exists_ hcalm.running hcalm.free
    hlegal hguard hregs hroom, enqueueAct_mx s c i o hcalm.qMx, hpump, settle_of_quiet _ c _ hfl (mxFlight_quiet _ _ _ _ _ _ hquiet)]

end Sys2Proof.Machine
end

section
/-! SUPPORT. MX, MXSCAN, MXCMB and MXCVT (R50 to R53, R113 to R121): the slots each one uses and the course it takes. -/

namespace Sys2Proof.Machine

open Sys2Proof Sys2Proof.Safety

/-! ## What each instruction needs -/

/-- The operands of an MX with the rows it needs of each (R50, R113, R116, R117). -/
def mxNeeds (k : Core) (r : W64) (o : MxArgs) : List (SlotView × Nat) :=
  let f := foldOf o
  [(mxSlot k o.sa r 0, if o.is then heldRows f (layA o) else strmRows f (layA o)),
   (mxSlot k o.sw r 1, if o.is then strmRows f (layW o) else heldRows f (layW o)),
   (mxSlot k o.so r 2, outRows (outLay o f.held) f)] ++ (if o.pcs then [(mxSlot k o.sc r 3, scRows f.m f.n)] else [])

/-- The slot uses of an MX (R76, R113). -/
def mxUses (k : Core) (r : W64) (o : MxArgs) : List SlotUse :=
  let f := foldOf o
  [mxUse (mxSlot k o.sa r 0) .read o.sa.flag (if o.is then heldRows f (layA o) else strmRows f (layA o)),
   mxUse (mxSlot k o.sw r 1) .read o.sw.flag (if o.is then strmRows f (layW o) else heldRows f (layW o)),
   mxUse (mxSlot k o.so r 2) (if o.acc then .update else .write) o.so.flag (outRows (outLay o f.held) f)] ++
    (if o.pcs then [mxUse (mxSlot k o.sc r 3) .read o.sc.flag (scRows f.m f.n)] else [])

/-- Rows of the scales of one vector of an MXSCAN (R119). -/
def scanScaleRows (o : MxArgs) : Nat := ceilDiv (ceilDiv ((o.kk.toNat + 1) * 16) 32) 128

/-- Rows of the entries that an MXSCAN presets (R119). -/
def scanOutRows (o : MxArgs) : Nat :=
  (if o.is then o.nn.toNat + 1 else o.mm.toNat + 1) * ceilDiv (16 * (if o.is then o.mm.toNat + 1 else o.nn.toNat + 1)) 256

/-- The operands of an MXSCAN with the rows it needs of each (R50, R119). -/
def scanNeeds (k : Core) (r : W64) (o : MxArgs) : List (SlotView × Nat) :=
  [(mxSlot k o.sa r 0, (o.mm.toNat + 1) * scanScaleRows o), (mxSlot k o.sw r 1, (o.nn.toNat + 1) * scanScaleRows o),
   (mxSlot k o.so r 2, scanOutRows o)]

/-- The slot uses of an MXSCAN (R76, R119). -/
def scanUses (k : Core) (r : W64) (o : MxArgs) : List SlotUse :=
  [mxUse (mxSlot k o.sa r 0) .read o.sa.flag ((o.mm.toNat + 1) * scanScaleRows o),
   mxUse (mxSlot k o.sw r 1) .read o.sw.flag ((o.nn.toNat + 1) * scanScaleRows o),
   mxUse (mxSlot k o.so r 2) .write o.so.flag (scanOutRows o)]

/-- Entries of an MXCMB (R120). -/
def cmbEntries (o : MxArgs) : Nat := (o.mm.toNat + 1) * (o.nn.toNat + 1)

/-- P-pad rows of the entries of an MXCMB (R120). -/
def cmbCount (o : MxArgs) : Nat := ceilDiv (16 * cmbEntries o) 256

/-- The operands of an MXCMB with the rows it needs of each (R50, R120). -/
def cmbNeeds (k : Core) (r : W64) (o : MxArgs) : List (SlotView × Nat) :=
  [(mxSlot k o.sa r 0, cmbCount o), (mxSlot k o.so r 2, cmbCount o)]

/-- The slot uses of an MXCMB (R76, R120). -/
def cmbUses (k : Core) (r : W64) (o : MxArgs) : List SlotUse :=
  [mxUse (mxSlot k o.sa r 0) .read o.sa.flag (cmbCount o), mxUse (mxSlot k o.so r 2) .update o.so.flag (cmbCount o)]

/-- Pairs of rows that an MXCMB reads in a cycle (R120). -/
def cmbPer (k : Core) (r : W64) (o : MxArgs) : Nat :=
  Nat.max 1 (Nat.min (mxSlot k o.sa r 0).e.bankCount.toNat (mxSlot k o.so r 2).e.bankCount.toNat)

/-- The course of an MXCMB that issues in cycle `cur` (R120). -/
def cmbCourse (k : Core) (r : W64) (o : MxArgs) (cur : Nat) : Sched :=
  cmbRows (mxSlot k o.sa r 0) (mxSlot k o.so r 2) (cmbEntries o) (cmbPer k r o) (cmbCount o) cur

/-- Rows of the entries of an MXCVT (R121). -/
def cvtInRows (o : MxArgs) : Nat := (o.mm.toNat + 1) * ceilDiv (16 * (o.nn.toNat + 1)) 256

/-- Rows of the output of an MXCVT (R121). -/
def cvtOutRows (o : MxArgs) : Nat := (o.mm.toNat + 1) * ceilDiv (outBytes o.fo.toNat (o.nn.toNat + 1) true) 128

/-- The operands of an MXCVT with the rows it needs of each (R50, R121). -/
def cvtNeeds (k : Core) (r : W64) (o : MxArgs) : List (SlotView × Nat) :=
  [(mxSlot k o.sa r 0, cvtInRows o), (mxSlot k o.so r 2, cvtOutRows o)] ++
    (if o.pcs then [(mxSlot k o.sc r 3, scRows (o.mm.toNat + 1) (o.nn.toNat + 1))] else [])

/-- The slot uses of an MXCVT (R76, R121). -/
def cvtUses (k : Core) (r : W64) (o : MxArgs) : List SlotUse :=
  [mxUse (mxSlot k o.sa r 0) .read o.sa.flag (cvtInRows o), mxUse (mxSlot k o.so r 2) .write o.so.flag (cvtOutRows o)] ++
    (if o.pcs then [mxUse (mxSlot k o.sc r 3) .read o.sc.flag (scRows (o.mm.toNat + 1) (o.nn.toNat + 1))] else [])

/-! ## The courses -/

/-- On a free engine an MXSCAN, MXCMB or MXCVT is not held back (R53). -/
theorem issueMx_mxscan (s : State) (c : Nat) (q : Queued) (c' : Nat) (h : Hdr) (o : MxArgs) (hq : q.ins = .mxscan c' h o)
    (hfree : (getCore s c).mxOut ≤ (getCore s c).cyc) : issueMx s c q = issueMxscan s c q h o := by
  simp [issueMx, hq, hfree]

theorem issueMx_mxcmb (s : State) (c : Nat) (q : Queued) (c' : Nat) (h : Hdr) (o : MxArgs) (hq : q.ins = .mxcmb c' h o)
    (hfree : (getCore s c).mxOut ≤ (getCore s c).cyc) : issueMx s c q = issueMxcmb s c q h o := by
  simp [issueMx, hq, hfree]

theorem issueMx_mxcvt (s : State) (c : Nat) (q : Queued) (c' : Nat) (h : Hdr) (o : MxArgs) (hq : q.ins = .mxcvt c' h o)
    (hfree : (getCore s c).mxOut ≤ (getCore s c).cyc) : issueMx s c q = issueMxcvt s c q h o := by
  simp [issueMx, hq, hfree]

theorem scales_quiet (pcs : Bool) (x : SlotView) (n from_ fin pass : Nat) (sc : Sched) (h : Quiet sc.evs) :
    Quiet (if pcs then readScales x n from_ fin pass sc else (sc, 0)).1.evs := by
  split
  · exact readScales_quiet _ _ _ _ _ _ h
  · exact h

/-- The output use stands after the scale use in an instruction's list of last accesses, and before it in its list of uses. -/
theorem uses_subset_ends (ends : List (SlotUse × Nat)) (uO : SlotUse) (uC : List SlotUse) (m n : Nat) :
    ends.map (·.1) ++ [uO] ++ uC ⊆ (ends ++ uC.map (fun u => (u, m)) ++ [(uO, n)]).map (·.1) := by
  intro u hu
  simp only [List.map_append, List.map_map, List.mem_append, List.map_cons, List.map_nil] at hu ⊢
  rcases hu with (hu | hu) | hu
  · exact .inl (.inl hu)
  · exact .inr hu
  · exact .inl (.inr (by simpa using hu))

/-- An MX whose slots pass and are large enough takes a quiet course (R49 to R54, R113). -/
theorem issueMxOp_takesCourse (s : State) (c : Nat) (q : Queued) (h : Hdr) (o : MxArgs) (hres : residueInjection s c = none)
    (hpass : SlotsPass (getCore s c) 3 (mxUses (getCore s c) q.sc.r o)) (hfit : Fits (mxNeeds (getCore s c) q.sc.r o)) :
    ∃ sc, Quiet sc.evs ∧ TakesCourse s c q (mxUses (getCore s c) q.sc.r o) sc (issueMxOp s c q h o) := by
  have hA := ne_true_of_eq_false (hfit.not_tooSmall (List.mem_append_left _ (List.mem_cons_self ..)))
  have hW := ne_true_of_eq_false (hfit.not_tooSmall (List.mem_append_left _ (List.mem_cons_of_mem _ (List.mem_cons_self ..))))
  have hO := ne_true_of_eq_false
    (hfit.not_tooSmall (List.mem_append_left _ (List.mem_cons_of_mem _ (List.mem_cons_of_mem _ (List.mem_cons_self ..)))))
  have hC : (o.pcs && tooSmall (mxSlot (getCore s c) o.sc q.sc.r 3) (scRows (foldOf o).m (foldOf o).n)) ≠ true := by
    cases hpcs : o.pcs with
    | false => exact Bool.false_ne_true
    | true => exact ne_true_of_eq_false (hfit.not_tooSmall (List.mem_append_right _ (by simp [hpcs])))
  unfold issueMxOp
  change ∃ sc, Quiet sc.evs ∧ TakesCourse _ _ _ _ sc (withSlots s c 3 q.addr h.timed (mxUses (getCore s c) q.sc.r o) _)
  rw [withSlots_of_pass _ _ _ _ _ _ _ hpass, hres]
  refine ⟨_, ?_, _, _, _, _, _, _, _, (if_neg hA).trans ((if_neg hW).trans ((if_neg hO).trans ((if_neg hC).trans
    (congrArg Issued.go (flyMx_eq ..))))), ?_⟩
  · exact scales_quiet _ _ _ _ _ _ _ (runAll_quiet _ _ (List.forall_mem_nil _))
  · exact uses_subset_ends [(_, _), (_, _)] _ _ _ _

/-- An MXSCAN whose slots pass and are large enough takes a quiet course (R119). -/
theorem issueMxscan_takesCourse (s : State) (c : Nat) (q : Queued) (h : Hdr) (o : MxArgs)
    (hpass : SlotsPass (getCore s c) 3 (scanUses (getCore s c) q.sc.r o)) (hfit : Fits (scanNeeds (getCore s c) q.sc.r o)) :
    ∃ sc, Quiet sc.evs ∧ TakesCourse s c q (scanUses (getCore s c) q.sc.r o) sc (issueMxscan s c q h o) := by
  have hA := ne_true_of_eq_false (hfit.not_tooSmall (List.mem_cons_self ..))
  have hW := ne_true_of_eq_false (hfit.not_tooSmall (List.mem_cons_of_mem _ (List.mem_cons_self ..)))
  have hO := ne_true_of_eq_false (hfit.not_tooSmall (List.mem_cons_of_mem _ (List.mem_cons_of_mem _ (List.mem_cons_self ..))))
  unfold issueMxscan
  change ∃ sc, Quiet sc.evs ∧ TakesCourse _ _ _ _ sc (withSlots s c 3 q.addr h.timed (scanUses (getCore s c) q.sc.r o) _)
  rw [withSlots_of_pass _ _ _ _ _ _ _ hpass]
  refine ⟨_, ?_, _, _, _, _, _, _, _, (if_neg hA).trans ((if_neg hW).trans ((if_neg hO).trans (congrArg Issued.go (flyMx_eq ..)))),
    List.Subset.refl _⟩
  refine foldl_quiet _ (fun sc x hsc => writeOut_quiet _ _ _ _ _ _ _ _ (Quiet.append hsc (quiet_singleton _ _ rfl))) _ _ ?_
  exact readInOrder_quiet _ _ _ _ _ _ (readInOrder_quiet _ _ _ _ _ _ (List.forall_mem_nil _))

/-- An MXCMB whose slots pass and are large enough takes its course (R120). -/
theorem issueMxcmb_takesCourse (s : State) (c : Nat) (q : Queued) (h : Hdr) (o : MxArgs)
    (hpass : SlotsPass (getCore s c) 3 (cmbUses (getCore s c) q.sc.r o)) (hfit : Fits (cmbNeeds (getCore s c) q.sc.r o)) :
    TakesCourse s c q (cmbUses (getCore s c) q.sc.r o) (cmbCourse (getCore s c) q.sc.r o (getCore s c).cyc) (issueMxcmb s c q h o) := by
  have hX := ne_true_of_eq_false (hfit.not_tooSmall (List.mem_cons_self ..))
  have hY := ne_true_of_eq_false (hfit.not_tooSmall (List.mem_cons_of_mem _ (List.mem_cons_self ..)))
  unfold issueMxcmb
  change TakesCourse _ _ _ _ _ (withSlots s c 3 q.addr h.timed (cmbUses (getCore s c) q.sc.r o) _)
  rw [withSlots_of_pass _ _ _ _ _ _ _ hpass]
  exact ⟨_, _, _, _, _, _, _, (if_neg hX).trans ((if_neg hY).trans (congrArg Issued.go (flyMx_eq ..))), List.Subset.refl _⟩

/-- An MXCVT whose slots pass and are large enough takes a quiet course (R121). -/
theorem issueMxcvt_takesCourse (s : State) (c : Nat) (q : Queued) (h : Hdr) (o : MxArgs)
    (hpass : SlotsPass (getCore s c) 3 (cvtUses (getCore s c) q.sc.r o)) (hfit : Fits (cvtNeeds (getCore s c) q.sc.r o)) :
    ∃ sc, Quiet sc.evs ∧ TakesCourse s c q (cvtUses (getCore s c) q.sc.r o) sc (issueMxcvt s c q h o) := by
  have hA := ne_true_of_eq_false (hfit.not_tooSmall (List.mem_append_left _ (List.mem_cons_self ..)))
  have hO := ne_true_of_eq_false (hfit.not_tooSmall (List.mem_append_left _ (List.mem_cons_of_mem _ (List.mem_cons_self ..))))
  have hC : (o.pcs && tooSmall (mxSlot (getCore s c) o.sc q.sc.r 3) (scRows (o.mm.toNat + 1) (o.nn.toNat + 1))) ≠ true := by
    cases hpcs : o.pcs with
    | false => exact Bool.false_ne_true
    | true => exact ne_true_of_eq_false (hfit.not_tooSmall (List.mem_append_right _ (by simp [hpcs])))
  unfold issueMxcvt
  change ∃ sc, Quiet sc.evs ∧ TakesCourse _ _ _ _ sc (withSlots s c 3 q.addr h.timed (cvtUses (getCore s c) q.sc.r o) _)
  rw [withSlots_of_pass _ _ _ _ _ _ _ hpass]
  refine ⟨_, ?_, _, _, _, _, _, _, _, (if_neg hA).trans ((if_neg hO).trans ((if_neg hC).trans (congrArg Issued.go (flyMx_eq ..)))), ?_⟩
  · exact scales_quiet _ _ _ _ _ _ _ (cvtRows_quiet _ _ _ _ _ _ _ _ _)
  · exact uses_subset_ends [(_, _)] _ _ _ _

end Sys2Proof.Machine
end

section
/-! SUPPORT. MXCMB row by row (R26, R120): the cycles in which a row is read, formed and written, and the combination that is formed. -/

namespace Sys2Proof.Machine

open Sys2Proof Sys2Proof.Safety

/-! ## The rows of an MXCMB -/

/-- A course built step by step keeps the events that every step keeps. -/
theorem foldl_evs_subset {α : Type} (f : Sched → α → Sched) (hf : ∀ sc a, sc.evs ⊆ (f sc a).evs) (l : List α) :
    ∀ sc : Sched, sc.evs ⊆ (l.foldl f sc).evs := by
  induction l with
  | nil => exact fun sc => List.Subset.refl _
  | cons a l ih => exact fun sc => List.Subset.trans (hf sc a) (ih _)

/-- What a step adds whatever the course before it stands in the course after all of them. -/
theorem mem_foldl_evs {α : Type} (f : Sched → α → Sched) (hf : ∀ sc a, sc.evs ⊆ (f sc a).evs) (e : Nat × FlightEv) (l : List α) (a : α)
    (ha : a ∈ l) (he : ∀ sc, e ∈ (f sc a).evs) : ∀ sc : Sched, e ∈ (l.foldl f sc).evs := by
  intro sc
  obtain ⟨l₁, l₂, rfl⟩ := List.append_of_mem ha
  rw [List.foldl_append, List.foldl_cons]
  exact foldl_evs_subset f hf l₂ _ (he _)

theorem writeOut_evs_subset (x : SlotView) (w i g : Nat) (sc : Sched) (start off len : Nat) :
    sc.evs ⊆ (writeOut x w i g sc start off len).1.evs := by
  unfold writeOut
  split
  · exact List.Subset.refl _
  · exact List.subset_append_left _ _

/-- A result that begins on a slot row boundary and fits one row is written in one cycle (R54). -/
theorem writeOut_oneRow (x : SlotView) (w i g : Nat) (sc : Sched) (start r len : Nat) (h0 : 0 < len) (hw : len ≤ w) :
    (writeOut x w i g sc start (w * r) len).1.evs =
      sc.evs ++ [(start, .put i 0 g x.pad x.slot (slotKey x.e (x.r0 + r) * w) len)] := by
  have hfirst : w * r / w = r := Nat.mul_div_cancel_left r (by omega)
  have hlast : (w * r + len - 1) / w = r := by
    rw [Nat.add_sub_assoc h0, Nat.mul_add_div (by omega), Nat.div_eq_of_lt (by omega), Nat.add_zero]
  have hlo : Nat.max (w * r) (r * w) = w * r := by rw [Nat.mul_comm r w]; exact Nat.max_self _
  have hhi : Nat.min (w * r + len) ((r + 1) * w) = w * r + len := by
    refine Nat.min_eq_left ?_
    rw [Nat.succ_mul, Nat.mul_comm r w]
    omega
  have hlen : ¬ len = 0 := by omega
  simp [writeOut, hlen, hfirst, hlast, rangeFrom, placeRows, nextFree, hlo, hhi]

theorem mem_addReads (x : SlotView) (op pass n : Nat) (at_ : Nat → Nat) (sc : Sched) (i : Nat) (hi : i < n) :
    (at_ i, FlightEv.read (opIx op i) pass x.pad x.slot (slotKey x.e (x.r0 + i))) ∈
      (addReads x op pass (List.range n) ((List.range n).map at_) sc).evs := by
  rw [addReads, List.zipWith_map_right, List.zipWith_self]
  exact List.mem_append_right _ (List.mem_map.mpr ⟨i, List.mem_range.mpr hi, rfl⟩)

/-- One pair of rows of an MXCMB: it is formed five cycles after its read and written in the next (R120). -/
def cmbRow (sY : SlotView) (e per cur : Nat) (sc : Sched) (r : Nat) : Sched :=
  (writeOut sY 256 (opIx 0 r) 0 { sc with evs := sc.evs ++ [(cur + r / per + 6 - 1, .form 2 0 r)] } (cur + r / per + 6) (256 * r)
    (Nat.min 256 (16 * e - 256 * r))).1

theorem cmbRows_eq (sX sY : SlotView) (e per n cur : Nat) : cmbRows sX sY e per n cur =
    (List.range n).foldl (cmbRow sY e per cur) (addReads sY 1 0 (List.range n) ((List.range n).map (fun r => cur + r / per))
      (addReads sX 0 0 (List.range n) ((List.range n).map (fun r => cur + r / per)) (newSched cur))) := rfl

theorem cmbRow_evs_subset (sY : SlotView) (e per cur : Nat) (sc : Sched) (r : Nat) : sc.evs ⊆ (cmbRow sY e per cur sc r).evs := by
  refine List.Subset.trans ?_ (writeOut_evs_subset _ _ _ _ _ _ _ _)
  exact List.subset_append_left _ _

/-- Row `i` of an MXCMB is read from both operands in cycle `cur + i / per`, formed 5 cycles later and written 6 cycles later (R120). -/
theorem mem_cmbRows (sX sY : SlotView) (e per n cur i : Nat) (hi : i < n) (he : 256 * i < 16 * e) :
    (cur + i / per, FlightEv.read (opIx 0 i) 0 sX.pad sX.slot (slotKey sX.e (sX.r0 + i))) ∈ (cmbRows sX sY e per n cur).evs ∧
    (cur + i / per, FlightEv.read (opIx 1 i) 0 sY.pad sY.slot (slotKey sY.e (sY.r0 + i))) ∈ (cmbRows sX sY e per n cur).evs ∧
    (cur + 5 + i / per, FlightEv.form 2 0 i) ∈ (cmbRows sX sY e per n cur).evs ∧
    (cur + 6 + i / per, FlightEv.put (opIx 0 i) 0 0 sY.pad sY.slot (slotKey sY.e (sY.r0 + i) * 256) (Nat.min 256 (16 * e - 256 * i))) ∈
      (cmbRows sX sY e per n cur).evs := by
  have hkeep := foldl_evs_subset (cmbRow sY e per cur) (cmbRow_evs_subset sY e per cur) (List.range n)
  have hadd := fun ev => mem_foldl_evs (cmbRow sY e per cur) (cmbRow_evs_subset sY e per cur) ev (List.range n) i (List.mem_range.mpr hi)
  have hform : cur + 5 + i / per = cur + i / per + 6 - 1 := Nat.add_right_comm ..
  have hput : cur + 6 + i / per = cur + i / per + 6 := Nat.add_right_comm ..
  rw [cmbRows_eq, hform, hput]
  refine ⟨hkeep _ ?_, hkeep _ ?_, hadd _ (fun sc => ?_) _, hadd _ (fun sc => ?_) _⟩
  · exact List.mem_append_left _ (mem_addReads sX 0 0 n (fun r => cur + r / per) (newSched cur) i hi)
  · exact mem_addReads sY 1 0 n (fun r => cur + r / per) _ i hi
  · exact writeOut_evs_subset _ _ _ _ _ _ _ _ (List.mem_append_right _ (List.mem_singleton_self _))
  · rw [cmbRow, writeOut_oneRow _ _ _ _ _ _ _ _ (by omega) (Nat.min_le_left _ _)]
    exact List.mem_append_right _ (List.mem_singleton_self _)

/-- Every row of an MXCMB holds an entry. -/
theorem entry_of_cmbCount (o : MxArgs) (i : Nat) (hi : i < cmbCount o) : 256 * i < 16 * cmbEntries o := by
  unfold cmbCount ceilDiv at hi
  rw [if_neg (by decide)] at hi
  omega

/-! ## The combination -/

theorem barred_nil (k : Core) : barred k [] = [] := rfl

theorem accessErrs_nil (s : State) (c : Nat) (k : Core) : accessErrs s c k [] = [] := rfl

/-- A cycle in which the only flight does nothing but form a result leaves that result in it (R59). -/
theorem endCycle_form (s : State) (c : Nat) (f : Flight) (kind a b : Nat) (k' : Core) (g : Flight)
    (hfl : (getCore s c).flights = [f]) (hev : f.evs = [((getCore s c).cyc, .form kind a b)])
    (hr : formResult s c f kind a b = { k := k', f := g }) (hg : g.evs = f.evs) (hdue : (getCore s c).cyc < g.due) :
    (getCore (endCycle s c) c).flights = [{ g with evs := [] }] := by
  have haccs : cycleAccs [f] (getCore s c).cyc = [] := by simp [hev, cycleAccs, accessOf]
  have hread : readStage s c = [{ f := f }] := by
    simp [readStage, haccs, barred_nil, accessErrs_nil, hfl, stopsOf, endReads, hev]
  have hforms : endFormsAll s c (getCore s c).cyc [{ f := f }] = (setCore s c k', [{ f := g }]) := by
    simp [endFormsAll, endForms, hev, hr]
  have hkeep : ∀ k bar, keepRows k bar 0 (getCore s c).cyc { f := g } = g := by
    intro k bar
    simp [keepRows, hg, hev, evAllowed]
  simp [endCycle, hfl, haccs, barred_nil, accessErrs_nil, hread, hforms, hkeep, hg, hev, evAllowed, flightLive, hdue]

/-- The form of a row of an MXCMB leaves the combination of its entries (R26, R120). -/
theorem endCycle_mxcmb (s : State) (c : Nat) (h : Hdr) (o : MxArgs) (f : Flight) (q : Queued) (i c' : Nat)
    (hfl : (getCore s c).flights = [f]) (hjob : f.job = some q) (hins : q.ins = .mxcmb c' h o)
    (hev : f.evs = [((getCore s c).cyc, .form 2 0 i)]) (hdue : (getCore s c).cyc < f.due) :
    ∃ g, (getCore (endCycle s c) c).flights = [g] ∧ tget [] g.out (opIx 0 i) = cmbOut f o i := by
  have hr : formResult s c f 2 0 i =
      { k := getCore s c, f := { f with out := tset f.out (opIx 0 i) (cmbOut f o i) } } := by
    simp [formResult, hjob, hins]
  exact ⟨_, endCycle_form s c f 2 0 i _ _ hfl hev hr rfl hdue, tget_tset_same _ _ _ _⟩

end Sys2Proof.Machine
end

section
/-! SUPPORT. The statement on the Matrix engine's instructions (R50, R53, R76, R113, R119 to R121). -/

namespace Sys2Proof.Machine

open Sys2Proof Sys2Proof.Safety

/-! ## Each instruction -/

/-- An MX whose slots pass and are large enough issues at once (R50, R76, R113). -/
theorem mx_issues (s : State) (c : Nat) (h : Hdr) (o : MxArgs) (hready : MxReady s c (.mx c h o) h o) (hres : residueInjection s c = none)
    (hpass : SlotsPass (getCore s c) 3 (mxUses (getCore s c) (sreg (getCore s c) o.sr) o))
    (hfit : Fits (mxNeeds (getCore s c) (sreg (getCore s c) o.sr) o)) :
    ∃ t, exec (.mx c h o) s = .next t ∧ IssuesOnMatrix s t c (mxUses (getCore s c) (sreg (getCore s c) o.sr) o) := by
  obtain ⟨sc, hquiet, hcourse⟩ := issueMxOp_takesCourse (setCore s c (mxWaiting (getCore s c) (.mx c h o) o)) c
    (mxQueued (getCore s c) (.mx c h o) o) h o hres (by rw [getCore_setCore]; exact hpass) (by rw [getCore_setCore]; exact hfit)
  rw [getCore_setCore] at hcourse
  obtain ⟨t, ht, hat, f, hf, -⟩ := engineRow_mx_flies s c _ h o _ sc hready rfl hquiet hcourse
  exact ⟨t, ht, hat, f, hf⟩

/-- An MXSCAN on a free engine whose slots pass and are large enough issues at once (R53, R76, R119). -/
theorem mxscan_issues (s : State) (c : Nat) (h : Hdr) (o : MxArgs) (hready : MxReady s c (.mxscan c h o) h o)
    (hfree : (getCore s c).mxOut ≤ (getCore s c).cyc)
    (hpass : SlotsPass (getCore s c) 3 (scanUses (getCore s c) (sreg (getCore s c) o.sr) o))
    (hfit : Fits (scanNeeds (getCore s c) (sreg (getCore s c) o.sr) o)) :
    ∃ t, exec (.mxscan c h o) s = .next t ∧ IssuesOnMatrix s t c (scanUses (getCore s c) (sreg (getCore s c) o.sr) o) := by
  obtain ⟨sc, hquiet, hcourse⟩ := issueMxscan_takesCourse (setCore s c (mxWaiting (getCore s c) (.mxscan c h o) o)) c
    (mxQueued (getCore s c) (.mxscan c h o) o) h o (by rw [getCore_setCore]; exact hpass) (by rw [getCore_setCore]; exact hfit)
  rw [← issueMx_mxscan _ _ _ c h o rfl (by rw [getCore_setCore]; exact hfree), getCore_setCore] at hcourse
  obtain ⟨t, ht, hat, f, hf, -⟩ := engineRow_mx_flies s c _ h o _ sc hready rfl hquiet hcourse
  exact ⟨t, ht, hat, f, hf⟩

/-- An MXCMB on a free engine whose slots pass and are large enough issues at once, on its course (R53, R76, R120). -/
theorem mxcmb_issues (s : State) (c : Nat) (h : Hdr) (o : MxArgs) (hready : MxReady s c (.mxcmb c h o) h o)
    (hfree : (getCore s c).mxOut ≤ (getCore s c).cyc)
    (hpass : SlotsPass (getCore s c) 3 (cmbUses (getCore s c) (sreg (getCore s c) o.sr) o))
    (hfit : Fits (cmbNeeds (getCore s c) (sreg (getCore s c) o.sr) o)) :
    ∃ t, exec (.mxcmb c h o) s = .next t ∧ IssuesOnMatrix s t c (cmbUses (getCore s c) (sreg (getCore s c) o.sr) o) ∧
      ∃ f, (getCore t c).flights = [f] ∧
        ∀ e ∈ (cmbCourse (getCore s c) (sreg (getCore s c) o.sr) o (getCore s c).cyc).evs, e ∈ f.evs := by
  have hcourse := issueMxcmb_takesCourse (setCore s c (mxWaiting (getCore s c) (.mxcmb c h o) o)) c
    (mxQueued (getCore s c) (.mxcmb c h o) o) h o (by rw [getCore_setCore]; exact hpass) (by rw [getCore_setCore]; exact hfit)
  rw [← issueMx_mxcmb _ _ _ c h o rfl (by rw [getCore_setCore]; exact hfree), getCore_setCore] at hcourse
  obtain ⟨t, ht, hat, f, hf, hevs⟩ := engineRow_mx_flies s c _ h o _ _ hready rfl (cmbRows_quiet _ _ _ _ _ _) hcourse
  exact ⟨t, ht, ⟨hat, f, hf⟩, f, hf.1, hevs⟩

/-- An MXCVT on a free engine whose slots pass and are large enough issues at once (R53, R76, R121). -/
theorem mxcvt_issues (s : State) (c : Nat) (h : Hdr) (o : MxArgs) (hready : MxReady s c (.mxcvt c h o) h o)
    (hfree : (getCore s c).mxOut ≤ (getCore s c).cyc)
    (hpass : SlotsPass (getCore s c) 3 (cvtUses (getCore s c) (sreg (getCore s c) o.sr) o))
    (hfit : Fits (cvtNeeds (getCore s c) (sreg (getCore s c) o.sr) o)) :
    ∃ t, exec (.mxcvt c h o) s = .next t ∧ IssuesOnMatrix s t c (cvtUses (getCore s c) (sreg (getCore s c) o.sr) o) := by
  obtain ⟨sc, hquiet, hcourse⟩ := issueMxcvt_takesCourse (setCore s c (mxWaiting (getCore s c) (.mxcvt c h o) o)) c
    (mxQueued (getCore s c) (.mxcvt c h o) o) h o (by rw [getCore_setCore]; exact hpass) (by rw [getCore_setCore]; exact hfit)
  rw [← issueMx_mxcvt _ _ _ c h o rfl (by rw [getCore_setCore]; exact hfree), getCore_setCore] at hcourse
  obtain ⟨t, ht, hat, f, hf, -⟩ := engineRow_mx_flies s c _ h o _ sc hready rfl hquiet hcourse
  exact ⟨t, ht, hat, f, hf⟩

/-! ## The statement -/

/-- Settles O12: each instruction takes a quiet course, so dispatch and issue fall in one cycle; the course of an MXCMB row by row, and
its form by the cycle that carries it out. -/
theorem matrixInstructionsIssue : Obligations.MatrixInstructionsIssue := by
  unfold Obligations.MatrixInstructionsIssue
  intro s c h o
  refine ⟨?mx, ?mxscan, ⟨?mxcmb, ?combine⟩, ?mxcvt⟩
  case mx => exact fun hready hres hpass hfit => mx_issues s c h o hready hres hpass hfit
  case mxscan => exact fun hready hfree hpass hfit => mxscan_issues s c h o hready hfree hpass hfit
  case mxcvt => exact fun hready hfree hpass hfit => mxcvt_issues s c h o hready hfree hpass hfit
  case combine => exact fun f q i hfl _ hjob hins hev hdue => endCycle_mxcmb s c h o f q i c hfl hjob hins hev hdue
  case mxcmb =>
    intro hready hfree hpass hfit
    obtain ⟨t, ht, hissues, f, hfl, hevs⟩ := mxcmb_issues s c h o hready hfree hpass hfit
    refine ⟨t, ht, hissues, f, hfl, fun i hi => ?_⟩
    obtain ⟨hx, hy, hform, hput⟩ := mem_cmbRows (mxSlot (getCore s c) o.sa (sreg (getCore s c) o.sr) 0)
      (mxSlot (getCore s c) o.so (sreg (getCore s c) o.sr) 2) (cmbEntries o) (cmbPer (getCore s c) (sreg (getCore s c) o.sr) o)
      (cmbCount o) (getCore s c).cyc i hi (entry_of_cmbCount o i hi)
    exact ⟨hevs _ hx, hevs _ hy, hevs _ hform, hevs _ hput⟩

end Sys2Proof.Machine
end
